-- ==== Sys2Proof/Word.lean ====
section
/-!
DEFINITION. The word types of the A4 and their plainest arithmetic (spec/00_scope.md R6).
-/

namespace Sys2Proof

/-- One byte of memory. -/
abbrev Byte := BitVec 8

/-- A 64-bit register, address or queue word. -/
abbrev Word := BitVec 64

/-- The bits of a 2 KiB register row (R42): byte 0 is the least significant. -/
abbrev RowBits := BitVec 16384

/-- The bits of one lane-mask register (R47). -/
abbrev MaskBits := BitVec 1024

namespace Word

/-- The field `[lo+n-1:lo]` of a natural number. -/
def fld (w lo n : Nat) : Nat := w / 2 ^ lo % 2 ^ n

/-- One bit of a natural number as a Bool. -/
def flag (w i : Nat) : Bool := w / 2 ^ i % 2 == 1

/-- `sext` of R8: the low `n` bits read as two's complement. -/
def sext (x n : Nat) : Int :=
  let y := x % 2 ^ n
  if y < 2 ^ (n - 1) then (y : Int) else (y : Int) - (2 ^ n : Nat)

/-- The two's-complement field of `n` bits that holds an integer. -/
def ofInt (i : Int) (n : Nat) : Nat := (i % (2 ^ n : Nat)).toNat

/-- 0 or 1. -/
def bit (b : Bool) : Nat := if b then 1 else 0

end Word
end Sys2Proof
end

