-- ==== Sys2Proof/Syntax.lean ====
section
/-!
DEFINITION. The one inductive of everything the A4 can do in one step: a constructor for every row of
spec/opcode_table.json. A stream instruction carries its header (R21) and its operand fields as numbers, which
`WellFormed` bounds; an event or command carries what it names and what arrives with it.
-/

namespace Sys2Proof

/-- The four engines (spec/02_word.md R22), in engine order. -/
inductive Engine where
  | S | V | M | X
  deriving DecidableEq, Repr

/-- The common fields of R21 that are not operands: the group end bit, FL, CM and PT. -/
structure Hdr where
  stop : Bool
  fl : Nat
  cm : Nat
  pt : Nat
  deriving DecidableEq, Repr

/-- The common m field of a vector instruction (spec/06_row.md R114): type code, ME and K. -/
structure VField where
  t : Nat
  me : Bool
  k : Nat
  deriving DecidableEq, Repr

/-- Five numbers, one for each level of a NEST form (R32), level 0 first. -/
structure Five where
  l0 : Nat
  l1 : Nat
  l2 : Nat
  l3 : Nat
  l4 : Nat
  deriving DecidableEq, Repr

/-- What the boot self-test found (spec/01_module.md R11, R20). -/
structure SelfTest where
  ioFail : Bool
  allDiesFail : Bool
  sites : List Nat
  lakeMask : Nat
  nvmeMask : Nat
  deriving DecidableEq, Repr

/-- Where a command of the ROM comes from (spec/01_module.md R17, R18): a transport, with whether the service image that RUN_IMAGE has
started still runs then, or that image itself. -/
inductive Caller where
  | transport (running : Bool)
  | image
  deriving DecidableEq, Repr

/-- One set of sensor readings, taken by the management core (spec/21_observation.md R396). -/
structure Sample where
  temps : List Int
  rails : List Nat
  power : Nat
  wear : Nat
  seconds : Nat
  deriving DecidableEq, Repr

/-- Where an uncorrectable soft error strikes (spec/08_line.md R177, spec/19_core.md R365). -/
inductive SoftError where
  | memoryLine (line : Nat) (dirty : Bool)
  | stashLine (g line : Nat)
  | row (g r : Nat)
  | tagTable (g r : Nat)
  | recipeTable (g id : Nat)
  | control (core : Nat)
  deriving DecidableEq, Repr

/-- A memory request of the host or of a peer (spec/20_link.md R378, R381). -/
inductive LakeReq where
  | read (line : Nat) (own : Bool)
  | write (line : Nat) (bytes : List Byte) (poison : Bool)
  | release (line : Nat)
  deriving DecidableEq, Repr

/-- What a response over a port carries (R378, R379): a line of data, or the completion of a write. -/
structure LinkReply where
  line : Nat
  bytes : List Byte
  poison : Bool
  deriving DecidableEq, Repr

/-- Every step of the part: one constructor per row of spec/opcode_table.json. -/
inductive Instr where
  -- class 0x0, scalar integer (R91)
  | add (h : Hdr) (fd fa fb : Nat)
  | sub (h : Hdr) (fd fa fb : Nat)
  | addi (h : Hdr) (fd fa : Nat) (imm : Int)
  | mul (h : Hdr) (fd fa fb : Nat)
  | mulh (h : Hdr) (z : Bool) (fd fa fb : Nat)
  | div (h : Hdr) (z : Bool) (fd fa fb : Nat)
  | rem (h : Hdr) (z : Bool) (fd fa fb : Nat)
  | andR (h : Hdr) (fd fa fb : Nat)
  | orR (h : Hdr) (fd fa fb : Nat)
  | xorR (h : Hdr) (fd fa fb : Nat)
  | andnR (h : Hdr) (fd fa fb : Nat)
  | shl (h : Hdr) (fd fa fb : Nat)
  | shlImm (h : Hdr) (fd fa n : Nat)
  | shr (h : Hdr) (fd fa fb : Nat)
  | shrImm (h : Hdr) (fd fa n : Nat)
  | sar (h : Hdr) (fd fa fb : Nat)
  | sarImm (h : Hdr) (fd fa n : Nat)
  | rot (h : Hdr) (fd fa fb : Nat)
  | rotImm (h : Hdr) (fd fa n : Nat)
  | clz (h : Hdr) (fd fa : Nat)
  | popc (h : Hdr) (fd fa : Nat)
  | minR (h : Hdr) (z : Bool) (fd fa fb : Nat)
  | maxR (h : Hdr) (z : Bool) (fd fa fb : Nat)
  | cmp (h : Hdr) (z : Bool) (cond cd fa fb : Nat)
  | sel (h : Hdr) (fd fa fb cn : Nat)
  | li (h : Hdr) (fd : Nat) (imm : Int)
  | lih (h : Hdr) (fd imm : Nat)
  | mov (h : Hdr) (fd fa : Nat)
  | ext (h : Hdr) (z : Bool) (fd fa pos lm : Nat)
  | ins (h : Hdr) (fd fa pos lm : Nat)
  -- class 0x1, scalar floating point (R94)
  | fadd (h : Hdr) (t fd fa fb : Nat)
  | fsub (h : Hdr) (t fd fa fb : Nat)
  | fmul (h : Hdr) (t fd fa fb : Nat)
  | ffma (h : Hdr) (t fd fa fb fc : Nat)
  | fdiv (h : Hdr) (t fd fa fb : Nat)
  | fsqrt (h : Hdr) (t fd fa : Nat)
  | fmin (h : Hdr) (t fd fa fb : Nat)
  | fmax (h : Hdr) (t fd fa fb : Nat)
  | fcmp (h : Hdr) (t cond cd fa fb : Nat)
  | fcvt (h : Hdr) (td ts fd fa : Nat)
  | fclass (h : Hdr) (t fd fa : Nat)
  -- class 0x2, scalar memory (R100)
  | ld (h : Hdr) (t sc fd fa : Nat) (off : Int)
  | st (h : Hdr) (t sc fd fa : Nat) (off : Int)
  | lda (h : Hdr) (t sc fd fa : Nat) (off : Int)
  | stl (h : Hdr) (t sc fd fa : Nat) (off : Int)
  | lds (h : Hdr) (t sc fd fa : Nat) (off : Int)
  | chkl (h : Hdr) (t sc fd fa : Nat) (off : Int)
  | pref (h : Hdr) (tgt fa : Nat) (off : Int)
  | amo (h : Hdr) (t sc op fd fa fb : Nat)
  | cas (h : Hdr) (t sc cn fd fa fb : Nat)
  | fence (h : Hdr) (sc mask : Nat)
  | smap (h : Hdr) (fd fa fb w : Nat)
  | sflush (h : Hdr) (sc w : Nat) (inv : Bool)
  | cinv (h : Hdr) (sc fa fb op : Nat)
  -- class 0x3, control (R241)
  | pbr (h : Hdr) (bn : Nat) (imm : Int)
  | pbrReg (h : Hdr) (bn fa : Nat)
  | br (h : Hdr) (bn cn mode n : Nat)
  | brl (h : Hdr) (bn bl cn mode n : Nat)
  | loop (h : Hdr) (i : Bool) (fa n : Nat)
  | lend (h : Hdr)
  | rdv (h : Hdr) (mask : Nat)
  | wfe (h : Hdr)
  | sev (h : Hdr) (fa mask : Nat)
  | pause (h : Hdr) (n : Nat)
  | nop (h : Hdr)
  | bari (h : Hdr) (g : Bool) (b fa : Nat)
  | bara (h : Hdr) (g : Bool) (b : Nat)
  | barw (h : Hdr) (g : Bool) (b : Nat)
  | spawn (h : Hdr) (fd fa fb place : Nat)
  | spawnPstart (h : Hdr) (fd fa fb : Nat)
  | spawnPdrain (h : Hdr) (fd fa fb : Nat)
  | retire (h : Hdr)
  | slk (h : Hdr) (n : Nat)
  -- class 0x4, system (R205, R322)
  | trap (h : Hdr) (code : Nat)
  | eret (h : Hdr)
  | csrr (h : Hdr) (fd csr : Nat)
  | csrw (h : Hdr) (fa csr : Nat)
  | csrx (h : Hdr) (fd fa csr : Nat)
  | tlbi (h : Hdr) (kind fd fa fb : Nat)
  | tlbs (h : Hdr)
  | ctxsStop (h : Hdr) (fd fa : Nat)
  | ctxsCheckpoint (h : Hdr) (fd fa : Nat)
  | ctxl (h : Hdr) (fd fa : Nat)
  -- class 0x5, vector arithmetic (R118)
  | vadd (h : Hdr) (v : VField) (fD fA fB : Nat)
  | vsub (h : Hdr) (v : VField) (fD fA fB : Nat)
  | vmul (h : Hdr) (v : VField) (fD fA fB : Nat)
  | vfma (h : Hdr) (v : VField) (fD fA fB : Nat)
  | vmin (h : Hdr) (v : VField) (fD fA fB : Nat)
  | vmax (h : Hdr) (v : VField) (fD fA fB : Nat)
  | vabs (h : Hdr) (v : VField) (fD fA : Nat)
  | vneg (h : Hdr) (v : VField) (fD fA : Nat)
  | vexp2 (h : Hdr) (v : VField) (fD fA : Nat)
  | vlog2 (h : Hdr) (v : VField) (fD fA : Nat)
  | vrcp (h : Hdr) (v : VField) (fD fA : Nat)
  | vrsq (h : Hdr) (v : VField) (fD fA : Nat)
  | vtbi (h : Hdr) (v : VField) (fD fA fB : Nat)
  | vcmp (h : Hdr) (v : VField) (cond kd fA fB : Nat)
  | vsel (h : Hdr) (v : VField) (fD fA fB : Nat)
  | viadd (h : Hdr) (v : VField) (fD fA fB : Nat)
  | visub (h : Hdr) (v : VField) (fD fA fB : Nat)
  | vimul (h : Hdr) (v : VField) (fD fA fB : Nat)
  | vand (h : Hdr) (v : VField) (fD fA fB : Nat)
  | vor (h : Hdr) (v : VField) (fD fA fB : Nat)
  | vxor (h : Hdr) (v : VField) (fD fA fB : Nat)
  | vshl (h : Hdr) (v : VField) (fD fA fB : Nat)
  | vshr (h : Hdr) (v : VField) (fD fA fB : Nat)
  | vred (h : Hdr) (v : VField) (op fD fA : Nat)
  | vscan (h : Hdr) (v : VField) (op : Nat) (x : Bool) (fD fA : Nat)
  | vany (h : Hdr) (v : VField) (cd ka : Nat)
  | vall (h : Hdr) (v : VField) (cd ka : Nat)
  | vpopc (h : Hdr) (v : VField) (ad ka : Nat)
  | vkop (h : Hdr) (t op kd ka kb : Nat)
  -- class 0x6, vector data (R129)
  | vld (h : Hdr) (v : VField) (sc fD aN : Nat) (off : Int)
  | vst (h : Hdr) (v : VField) (sc fA aN : Nat) (off : Int)
  | vldx (h : Hdr) (v : VField) (sc fD aN fI : Nat)
  | vstx (h : Hdr) (v : VField) (sc fA aN fI : Nat)
  | vmov (h : Hdr) (v : VField) (fD fA : Nat)
  | vbcast (h : Hdr) (v : VField) (fD fA lane : Nat)
  | vbcastAreg (h : Hdr) (v : VField) (fD aN : Nat)
  | viota (h : Hdr) (v : VField) (fD : Nat) (start : Int)
  | vperm (h : Hdr) (v : VField) (fD fA fB : Nat)
  | vcmpr (h : Hdr) (v : VField) (fD fA : Nat) (ce : Bool) (aC : Nat)
  | vxpnd (h : Hdr) (v : VField) (fD fA : Nat)
  | vhist (h : Hdr) (v : VField) (fD fA pos : Nat)
  | vradix (h : Hdr) (v : VField) (fD fA : Nat) (inv desc : Bool)
  | vpack (h : Hdr) (t : Nat) (sr : Bool) (fmt fD fA fS : Nat)
  | vunpk (h : Hdr) (t fmt fD fA fS : Nat)
  | vscale (h : Hdr) (fmt thr fD fS : Nat)
  | vcvt (h : Hdr) (sr : Bool) (p ts td : Nat) (me : Bool) (k fD fA : Nat)
  | vamo (h : Hdr) (v : VField) (sc op fD aN fI : Nat)
  | nest (h : Hdr) (wclass : Bool) (opc bd ba bb e m : Nat) (ext sD sA sB : Five)
  -- class 0x7, exact query (R329)
  | orient2 (h : Hdr) (v : VField) (sos tnf : Bool) (fD fA : Nat)
  | orient3 (h : Hdr) (v : VField) (sos tnf : Bool) (fD fA : Nat)
  | incirc (h : Hdr) (v : VField) (sos tnf : Bool) (fD fA : Nat)
  | insph (h : Hdr) (v : VField) (sos tnf : Bool) (fD fA : Nat)
  | segx (h : Hdr) (v : VField) (sos tnf : Bool) (fD fA : Nat)
  -- class 0x8, matrix (R159)
  | mmt (h : Hdr) (t fI ws mm : Nat)
  | mmv (h : Hdr) (t fI aW mm : Nat)
  | mmvHandle (h : Hdr) (t fI aW mm : Nat)
  | mldw (h : Hdr) (half sc aN aL : Nat) (off : Int)
  | mbcw (h : Hdr) (half c p aN aL : Nat) (off : Int)
  | mzero (h : Hdr) (t : Nat)
  | mdeq (h : Hdr) (td : Nat) (cs rs acc : Bool) (fD t fC : Nat)
  | mstat (h : Hdr) (aD sel t : Nat)
  -- class 0x9, transfer (R275)
  | xcopy (h : Hdr) (sc : Nat) (sr : Bool) (en fd fa : Nat)
  | xgath (h : Hdr) (sc cm1 fD aN fI : Nat)
  | xscat (h : Hdr) (sc cm1 fA aN fI : Nat)
  | xfill (h : Hdr) (sc fd fa fb : Nat)
  | xdec (h : Hdr) (sc fd fa fb : Nat)
  | xchk (h : Hdr) (sc : Nat) (cont : Bool) (fd fa fb : Nat)
  -- class 0xA, expert residency (R306)
  | gate (h : Hdr) (v : VField) (q km1 aB fA : Nat)
  | eres (h : Hdr) (fd fa c form : Nat)
  | edisp (h : Hdr) (fd fa fb c : Nat)
  | edispClose (h : Hdr) (fd fa : Nat)
  | epin (h : Hdr) (fd fa c : Nat)
  | eunpin (h : Hdr) (fd fa c : Nat)
  | efetch (h : Hdr) (fd fa c tier : Nat)
  | eevict (h : Hdr) (fd fa c tgt : Nat)
  | epred (h : Hdr) (fa c tier : Nat)
  -- class 0xB, queue (R226)
  | qpush (h : Hdr) (port fa : Nat)
  | qpushRow (h : Hdr) (port vR : Nat)
  | qpop (h : Hdr) (port : Nat) (e : Bool) (cd fd : Nat)
  | qpopRow (h : Hdr) (port : Nat) (e : Bool) (cd vR : Nat)
  | qpeek (h : Hdr) (port cd fd : Nat)
  | qpeekRow (h : Hdr) (port cd vR : Nat)
  | qstat (h : Hdr) (port fd : Nat)
  | qbind (h : Hdr) (port mode fd fa : Nat)
  -- class 0xC, recipe (R57)
  | rcpdef (h : Hdr) (id nm1 fa : Nat)
  | rcpset (h : Hdr) (id fD : Nat)
  | rcpclr (h : Hdr) (cm1 fD : Nat)
  -- step-program instructions (R350)
  | sldc (a b f : Nat)
  | spen (a : Nat) (p : Bool) (path : Nat)
  | stemp
  | stopk
  | stopp
  | sminp
  | ssmax
  | srng (a n : Nat)
  | sdraw (d : Nat)
  | smemb (a : Nat)
  | scnt (a b depth : Nat)
  | scommit (a path : Nat)
  | sabort
  | semit (a : Nat)
  | smov (d a : Nat)
  | smovImm (d : Nat) (n : Int)
  | smovLoad (d a : Nat) (n : Int)
  | sadd (d a b : Nat)
  | saddImm (d a : Nat) (n : Int)
  | scmp (a b c : Nat)
  | sbr (v : Bool) (o : Int)
  | sjmp (o : Int)
  | send
  -- the module and its life (spec/01_module.md)
  | selfTestDone (r : SelfTest)
  | getState (c : Caller)
  | getIdentity (c : Caller)
  | attest (c : Caller) (nonce : List Byte)
  | readConfig (c : Caller)
  | mapOut (c : Caller) (kind index : Nat)
  | loadImage (c : Caller) (off : Nat) (data : List Byte)
  | runImage (c : Caller)
  | sealOff (c : Caller)
  | readPanel (c : Caller) (off cnt : Nat)
  | unknownCommand (c : Caller) (opcode : Nat)
  | panelSample (p : Sample)
  -- class 0x7, exact query (R329)
  | queryStepComplete (g : Nat)
  -- class 0x8, matrix (R159)
  | slabComplete (g : Nat)
  | mbcwSessionDissolve (cluster c : Nat)
  | weightSwap (core g : Nat)
  -- class 0x9, transfer (R275)
  | transferStepComplete (g : Nat)
  | xdecPush (g : Nat)
  -- class 0xA, expert residency (R306)
  | fetchComplete (e : Nat) (readError : Bool)
  | evictionDrainStart (e : Nat)
  | evictionComplete (e : Nat)
  -- class 0xC, recipe (R57)
  | recipeReplay (g r : Nat)
  -- contexts (spec/09_context.md)
  | serviceEntry (core : Nat)
  | ctxCreate (n : Nat)
  | ctxStart (n : Nat)
  | ctxStop (n : Nat)
  | ctxCheckpoint (n : Nat)
  | ctxResume (n : Nat)
  | ctxKill (n : Nat)
  | ctxFree (n : Nat)
  | ctxBadCommand (n code : Nat)
  | ctxSaveComplete (n : Nat)
  | faultQueueHeadWrite (n head : Nat)
  -- pool queues (spec/10_queue.md)
  | queOpen (n : Nat)
  | queClose (n : Nat)
  | queFree (n : Nat)
  | queBadCommand (n code : Nat)
  | queDropRead (n : Nat)
  -- scheduler and debug (spec/12_group.md, spec/21_observation.md)
  | groupPlacement (g core : Nat)
  | breakpointFire (n b : Nat)
  | dbgStop (n g : Nat)
  | dbgStopat (n g : Nat)
  | dbgRelease (n g : Nat)
  -- commands through registers
  | xkeyWrite (n k w : Nat) (v : Word)
  | xkstWrite (n k : Nat) (v : Word)
  | modelValidWrite (m : Nat) (v : Word)
  | modelUnloadComplete (m : Nat)
  | tlbCommand (v : Word)
  | ccgPlace (tcc : Bool) (ctx : Nat)
  | ccgBadCommand (tcc : Bool) (ctx code : Nat)
  -- sites, clusters and power (spec/19_core.md)
  | siteFreeze (c i : Nat)
  | siteClear (c i : Nat)
  | errthrWrite (c v : Nat)
  | correctedSoftError (site : Nat)
  | uncorrectableSoftError (site : Nat) (e : SoftError)
  | checkerError (core : Nat)
  | issueStallLimit (core : Nat) (eng : Engine)
  | migrationComplete (site : Nat)
  | controlCoreSelfTest (tcc pass : Bool)
  | pwrQuiesce (c : Nat) (own : Bool)
  | pwrSave (c : Nat) (own : Bool)
  | pwrClkoff (c : Nat) (own : Bool)
  | pwrRailoff (c : Nat) (own : Bool)
  | pwrAbort (c : Nat) (own : Bool)
  | pwrBadCommand (c : Nat) (own : Bool) (code : Nat)
  | pwrWake (c : Nat) (own : Bool)
  | clusterQuiesced (c : Nat)
  | clusterSaveDone (c : Nat)
  | clusterWakeDone (c : Nat) (failed : List Nat)
  -- links (spec/20_link.md)
  | lnkTrain (p : Nat)
  | lnkFence (p : Nat)
  | trainingDone (p rate width : Nat) (flit68 : Bool)
  | trainingTimeout (p : Nat)
  | linkRecoveryEntry (p : Nat)
  | recoveryDone (p rate width : Nat)
  | recoveryTimeout (p : Nat)
  | uncorrectableFlitError (p : Nat)
  | ideIntegrityFailure (p : Nat)
  | surpriseDown (p : Nat)
  | fenceComplete (p : Nat)
  | hostLakeAccess (q : LakeReq)
  | peerLakeAccess (p : Nat) (q : LakeReq)
  | stashRemoteAccess (g line : Nat) (write : Bool)
  -- the sampler (spec/18_sequence.md)
  | smpUcfgWrite (j : Nat) (v : Word)
  | smpScfgWrite (j q : Nat) (v : Word)
  | smpDropRead (j : Nat)
  | stepRequest (j : Nat)
  | stepResultPush (j : Nat)
  -- observation and the rest
  | obsCntReadClear (site i : Nat)
  | obsCntWrite (site i : Nat) (v : Word)
  | obsOvfClear (site : Nat) (v : Word)
  | registerWrite (off size : Nat) (v : Word)
  | decodeFault (cause word addr : Nat)
  | fetchFault (cause addr : Nat)
  | linkResponse (p : Nat) (r : LinkReply)
  | ideKm (p : Nat) (key : Word)
  -- events that carry nothing
  | allRailsGood
  | configRecordSelected
  | identityDerived
  | powerRemoved
  | thermalTrip
  | railFault
  | recordRewrite
  | stageEpoch
  | perstRelease
  deriving DecidableEq, Repr

end Sys2Proof
end

