-- ==== Sys2Proof/WellFormed.lean ====
section
/-!
DEFINITION. Which instructions are well formed: every field inside the range its encoding has, and every static rule of
the instruction's own description (R28 to R33 and the encoding tables). An event is well formed when what it names exists.
-/

namespace Sys2Proof

/-- The engine number of R22. -/
def Engine.num : Engine → Nat
  | .S => 0
  | .V => 1
  | .M => 2
  | .X => 3

/-- The engine with a number. -/
def Engine.ofNum : Nat → Engine
  | 0 => .S
  | 1 => .V
  | 2 => .M
  | _ => .X

/-- The engine that bit or code `j` (0 to 2) of CM or PT names in a stream of engine `e` (R22): the engines in ascending
number with the executing one left out. -/
def Engine.other (e : Engine) (j : Nat) : Engine :=
  if j < e.num then Engine.ofNum j else Engine.ofNum (j + 1)

namespace WellFormed

/-- FL is not 11, CM and PT fit their fields and name declared engines only (R21, R22). `decl` is the STREAMS mask. -/
def hdr (e : Engine) (decl : Nat) (h : Hdr) : Bool :=
  h.fl < 3 && h.cm < 8 && h.pt < 4
    && (List.range 3).all (fun j => !Word.flag h.cm j || Word.flag decl (e.other j).num)
    && (h.pt == 0 || Word.flag decl (e.other (h.pt - 1)).num)

/-- A 6-bit scalar field: s0 to s63 in the S stream, a0 to a15 elsewhere (R29). -/
def reg (e : Engine) (f : Nat) : Bool := f < (if e == .S then 64 else 16)

/-- A source specifier that is no illegal operand (R28). -/
def src (f : Nat) : Bool := f < 0x900 || f == 0xA00 || f == 0xA01

/-- A destination specifier that is no illegal operand (R28). -/
def dst (f : Nat) : Bool := f < 0x900

/-- A specifier field holds 12 bits. -/
def sp (f : Nat) : Bool := f < 4096

/-- A specifier that must name a row (R115). -/
def row (f : Nat) : Bool := f < 0x800

/-- The common vector m field: a type code of the list and K zero without a mask (R114). -/
def vf (types : List Nat) (v : VField) : Bool :=
  types.contains v.t && v.k < 16 && (v.me || v.k == 0)

/-- A signed immediate of `n` bits. -/
def simm (i : Int) (n : Nat) : Bool := decide (-(2 ^ (n - 1) : Nat) ≤ i) && decide (i < (2 ^ (n - 1) : Nat))

/-- Type lists of R118 and R129; code 0x0 is the view's type and is resolved at issue (R114). -/
def tFloat : List Nat := [0, 1, 2]
def tInt : List Nat := [0, 5, 6, 7, 8, 9, 10]
def tFloatInt : List Nat := [0, 1, 2, 5, 6, 7, 8, 9, 10]
def tAll : List Nat := [0, 1, 2, 3, 4, 5, 6, 7, 8, 9, 10]
def tSigned : List Nat := [0, 1, 2, 5, 6, 7]
/-- Type codes of a scalar access (R100). -/
def tMem : List Nat := [0, 5, 6, 7, 8, 9, 10]

/-- The AMO types of R107 for an operation. -/
def amoType (op t : Nat) : Bool := if op == 9 then t == 1 || t == 4 else t == 0 || t == 7 || t == 10

/-- The VAMO types of R144; code 0x0 is checked at issue. -/
def vamoType (op t : Nat) : Bool := t == 0 || (if op == 9 then t == 1 else t == 7 || t == 10)

/-- FCVT pairs of R98. -/
def fcvtTypes (td ts : Nat) : Bool :=
  [1, 2, 3, 4, 7, 10].contains td && [1, 2, 3, 4, 7, 10].contains ts && td != ts
    && !((td == 7 || td == 10) && (ts == 7 || ts == 10))

/-- The size in bytes of a VCVT format code (R143); 0 for the view's type, which is resolved at issue. -/
def cvtSize (c : Nat) : Nat :=
  if c == 0 then 0 else if c == 4 then 8 else if c == 1 || c == 7 || c == 10 then 4
  else if c == 2 || c == 3 || c == 6 || c == 9 then 2 else 1

/-- The decode-time rule of VCVT (R143). -/
def cvtOk (td ts p : Nat) : Bool :=
  td < 13 && ts < 13 && p < 8 && (td != ts || td == 0)
    && (td == 0 || ts == 0 || p < max (cvtSize td) (cvtSize ts) / min (cvtSize td) (cvtSize ts))

/-- The wrapped operations a NEST form allows (R33). -/
def nestOp (wclass : Bool) (opc : Nat) : Bool :=
  if wclass then opc == 4 || opc == 0xF else opc ≤ 0xC || (0xF ≤ opc && opc ≤ 0x17)

/-- Whether the wrapped operation uses a second source (R146). -/
def nestUsesB (wclass : Bool) (opc : Nat) : Bool :=
  !wclass && (opc ≤ 5 || opc == 0xC || (0xF ≤ opc && opc ≤ 0x16))

/-- The wrapped m field of R146: type accepted by the instruction, other bits as the table says. -/
def nestM (wclass : Bool) (opc m : Nat) : Bool :=
  let t := Word.fld m 5 4
  m < 512 &&
  (if wclass then
     if opc == 4 then tAll.contains t && m % 32 == 0
     else cvtOk t (m % 16) 0
   else if opc == 0x17 then tFloatInt.contains t && Word.fld m 2 3 == 0
   else m % 32 == 0 &&
     (if opc ≤ 3 || (8 ≤ opc && opc ≤ 0xC) then tFloat.contains t
      else if opc == 4 || opc == 5 then tFloatInt.contains t
      else if opc == 6 || opc == 7 then tSigned.contains t
      else if 0x12 ≤ opc && opc ≤ 0x14 then tAll.contains t
      else tInt.contains t))

/-- The five levels of one operand's strides: 5-bit fields up to 0b10001, zero at and above level `e` (R32, R33). -/
def strides (e : Nat) (s : Five) : Bool :=
  [s.l0, s.l1, s.l2, s.l3, s.l4].all (· ≤ 0x11)
    && (e > 0 || s.l0 == 0) && (e > 1 || s.l1 == 0) && (e > 2 || s.l2 == 0)
    && (e > 3 || s.l3 == 0) && (e > 4 || s.l4 == 0)

def five0 (s : Five) : Bool := s.l0 == 0 && s.l1 == 0 && s.l2 == 0 && s.l3 == 0 && s.l4 == 0

/-- The rules of R33 on a NEST form but for its words' reserved bits. -/
def nest (wclass : Bool) (opc bd ba bb e m : Nat) (x sD sA sB : Five) : Bool :=
  nestOp wclass opc && opc < 128 && bd < 16 && ba < 16 && bb < 16 && 1 ≤ e && e ≤ 5 && nestM wclass opc m
    && [x.l0, x.l1, x.l2, x.l3, x.l4].all (· < 65536)
    && (e > 1 || x.l1 == 0) && (e > 2 || x.l2 == 0) && (e > 3 || x.l3 == 0) && (e > 4 || x.l4 == 0)
    && strides e sD && strides e sA && strides e sB
    && (nestUsesB wclass opc || (bb == 0 && five0 sB))

/-- Query type codes (R329). -/
def tQuery : List Nat := [0, 1, 4]

def query (v : VField) (fD fA : Nat) : Bool := vf tQuery v && sp fD && sp fA

/-- The core numbers: 128 logical cores and the two control cores (R196). -/
def core (c : Nat) : Bool := c < 128 || c == 0xF0 || c == 0xF1

end WellFormed

open WellFormed in
/-- The fields of an instruction executed by a stream of engine `e` whose group declares the streams `decl` obey every
encoding rule (R30, R36 check 5); for an event, what it names exists. The operand specifiers only fit their fields here. -/
def Instr.encOk (e : Engine) (decl : Nat) : Instr → Bool
  -- module
  | .allRailsGood | .selfTestDone _ | .configRecordSelected | .identityDerived | .powerRemoved | .thermalTrip
  | .railFault | .recordRewrite | .getState _ | .getIdentity _ | .attest .. | .readConfig _ | .mapOut .. | .loadImage ..
  | .runImage _ | .sealOff _ | .readPanel .. | .panelSample _ => true
  | .unknownCommand _ op => op < 0xC000 || 0xC008 < op
  -- class 0x0
  | .add _ d a b | .sub _ d a b | .mul _ d a b | .andR _ d a b | .orR _ d a b | .xorR _ d a b | .andnR _ d a b
  | .shl _ d a b | .shr _ d a b | .sar _ d a b | .rot _ d a b => reg e d && reg e a && reg e b
  | .mulh _ _ d a b | .div _ _ d a b | .rem _ _ d a b | .minR _ _ d a b | .maxR _ _ d a b =>
      reg e d && reg e a && reg e b
  | .addi _ d a i => reg e d && reg e a && simm i 33
  | .shlImm _ d a n | .shrImm _ d a n | .sarImm _ d a n | .rotImm _ d a n => reg e d && reg e a && n < 64
  | .clz _ d a | .popc _ d a | .mov _ d a => reg e d && reg e a
  | .cmp _ _ cond cd a b => cond < 6 && cd < 16 && reg e a && reg e b
  | .sel _ d a b cn => reg e d && reg e a && reg e b && cn < 16
  | .li _ d i => reg e d && simm i 39
  | .lih _ d i => reg e d && i < 2 ^ 25
  | .ext _ _ d a p l | .ins _ d a p l => reg e d && reg e a && p < 64 && l < 64 && p + l < 64
  -- class 0x1
  | .fadd _ t d a b | .fsub _ t d a b | .fmul _ t d a b | .fdiv _ t d a b | .fmin _ t d a b | .fmax _ t d a b =>
      (t == 1 || t == 4) && reg e d && reg e a && reg e b
  | .ffma _ t d a b c => (t == 1 || t == 4) && reg e d && reg e a && reg e b && reg e c
  | .fsqrt _ t d a | .fclass _ t d a => (t == 1 || t == 4) && reg e d && reg e a
  | .fcmp _ t cond cd a b => (t == 1 || t == 4) && cond < 8 && cd < 16 && reg e a && reg e b
  | .fcvt _ td ts d a => fcvtTypes td ts && reg e d && reg e a
  -- class 0x2
  | .ld _ t sc d a o | .st _ t sc d a o | .lda _ t sc d a o | .stl _ t sc d a o =>
      tMem.contains t && sc < 4 && reg e d && reg e a && simm o 21
  | .lds _ t sc d a o | .chkl _ t sc d a o =>
      tMem.contains t && sc < 4 && reg e d && d != 0 && reg e a && simm o 21
  | .pref _ tgt a o => tgt < 3 && reg e a && simm o 21
  | .amo _ t sc op d a b => op < 10 && amoType op t && sc < 4 && reg e d && reg e a && reg e b
  | .cas _ t sc cn d a b => (t == 0 || t == 7 || t == 10) && sc < 4 && cn < 16 && reg e d && reg e a && reg e b
  | .fence _ sc m => sc < 4 && 0 < m && m < 16
  | .smap _ d a b w => reg e d && reg e a && reg e b && w < 8
  | .sflush _ sc w _ => sc < 4 && w < 9
  | .cinv _ sc a b op => sc < 4 && reg e a && reg e b && op < 3
  -- class 0x3
  | .pbr _ bn i => bn < 8 && simm i 39
  | .pbrReg _ bn a => bn < 8 && reg e a
  | .br _ bn cn mode n => bn < 8 && cn < 16 && mode < 3 && (mode != 0 || cn == 0) && n < 7
  | .brl _ bn bl cn mode n => bn < 8 && bl < 8 && cn < 16 && mode < 3 && (mode != 0 || cn == 0) && n < 7
  | .loop h i a n => h.fl == 0 && reg e a && (i || a == 0) && n < 2 ^ 32
  | .lend h => h.fl == 0
  | .rdv _ m => 0 < m && m < 16 && Word.flag m e.num && (List.range 4).all (fun j => !Word.flag m j || Word.flag decl j)
  | .wfe _ | .nop _ | .retire _ => true
  | .sev _ a m => reg e a && m < 16
  | .pause _ n | .slk _ n => n < 65536
  | .bari _ g b a => reg e a && b < (if g then 256 else 64)
  | .bara _ g b | .barw _ g b => b < (if g then 256 else 64)
  | .spawn _ d a b w => reg e d && reg e a && reg e b && (w < 128 || w == 256)
  | .spawnPstart _ d a b | .spawnPdrain _ d a b => reg e d && reg e a && reg e b
  -- class 0x4
  | .trap _ c => c < 65536
  | .eret _ | .tlbs _ => true
  | .csrr _ d c => reg e d && c < 4096
  | .csrw _ a c => reg e a && c < 4096
  | .csrx _ d a c => reg e d && reg e a && c < 4096
  | .tlbi _ k d a b =>
      k < 4 && reg e d && reg e a && reg e b && (k == 0 || k == 2 || (a == 0 && b == 0)) && (k < 2 || d == 0)
  | .ctxsStop _ d a | .ctxsCheckpoint _ d a | .ctxl _ d a => reg e d && reg e a
  -- class 0x5
  | .vadd _ v d a b | .vsub _ v d a b | .vmul _ v d a b | .vtbi _ v d a b => vf tFloat v && sp d && sp a && sp b
  | .vfma _ v d a b => vf tFloat v && sp d && sp a && sp b
  | .vmin _ v d a b | .vmax _ v d a b => vf tFloatInt v && sp d && sp a && sp b
  | .vabs _ v d a | .vneg _ v d a => vf tSigned v && sp d && sp a
  | .vexp2 _ v d a | .vlog2 _ v d a | .vrcp _ v d a | .vrsq _ v d a => vf tFloat v && sp d && sp a
  | .vcmp _ v cond kd a b =>
      vf tFloatInt v && cond < 8 && (cond < 6 || v.t < 3) && kd < 16 && sp a && sp b
  | .vsel _ v d a b => vf tAll v && v.me && sp d && sp a && sp b
  | .viadd _ v d a b | .visub _ v d a b | .vimul _ v d a b | .vshl _ v d a b | .vshr _ v d a b =>
      vf tInt v && sp d && sp a && sp b
  | .vand _ v d a b | .vor _ v d a b | .vxor _ v d a b => vf tAll v && sp d && sp a && sp b
  | .vred _ v op d a => vf tFloatInt v && op < 4 && sp d && sp a
  | .vscan _ v op _ d a => vf tFloatInt v && op < 3 && sp d && sp a
  | .vany _ v cd ka | .vall _ v cd ka | .vpopc _ v cd ka => vf tAll v && cd < 16 && ka < 16
  | .vkop _ t op kd ka kb => tAll.contains t && op < 8 && kd < 16 && ka < 16 && kb < 16
  -- class 0x6
  | .vld _ v sc d aN o => vf tAll v && sc < 4 && sp d && aN < 16 && simm o 18
  | .vst _ v sc a aN o => vf tAll v && sc < 4 && sp a && aN < 16 && simm o 18
  | .vldx _ v sc d aN fI => vf tAll v && sc < 4 && sp d && aN < 16 && sp fI
  | .vstx _ v sc a aN fI => vf tAll v && sc < 4 && sp a && aN < 16 && sp fI
  | .vmov _ v d a => vf tAll v && sp d && sp a
  | .vbcast _ v d a l => vf tAll v && sp d && sp a && l < 2048
  | .vbcastAreg _ v d aN => vf tAll v && sp d && aN < 16
  | .viota _ v d i => vf tInt v && sp d && simm i 12
  | .vperm _ v d a b => vf tAll v && sp d && sp a && sp b
  | .vcmpr _ v d a ce aC => vf tAll v && v.me && sp d && sp a && aC < 16 && (ce || aC == 0)
  | .vxpnd _ v d a => vf tAll v && v.me && sp d && sp a
  | .vhist _ v d a p => vf [0, 9, 10] v && sp d && sp a && p < 32 && (v.t != 9 || p < 16)
  | .vradix _ v d a _ _ => vf tAll v && sp d && sp a
  | .vpack _ t _ f d a s => tFloat.contains t && f < 9 && sp d && sp a && sp s
  | .vunpk _ t f d a s => tFloat.contains t && f < 9 && sp d && sp a && sp s
  | .vscale _ f thr d s => f < 9 && thr < 33 && sp d && sp s
  | .vcvt _ _ p ts td me k d a => cvtOk td ts p && k < 16 && (me || k == 0) && sp d && sp a
  | .vamo _ v sc op d aN fI => vf [0, 1, 7, 10] v && op < 10 && vamoType op v.t && sc < 4 && sp d && aN < 16 && sp fI
  | .nest h wc opc bd ba bb le m x sD sA sB => h.stop && WellFormed.nest wc opc bd ba bb le m x sD sA sB
  -- class 0x7
  | .orient2 _ v _ _ d a | .orient3 _ v _ _ d a | .incirc _ v _ _ d a | .insph _ v _ _ d a | .segx _ v _ _ d a =>
      query v d a
  -- class 0x8
  | .mmt _ t fI ws mm => t < 2048 && sp fI && ws < 3 && mm < 64
  | .mmv _ t fI aW mm | .mmvHandle _ t fI aW mm => t < 2048 && sp fI && aW < 16 && mm < 8
  | .mldw _ hf sc aN aL o => hf < 2 && sc < 4 && aN < 16 && aL < 16 && simm o 18
  | .mbcw _ hf c p aN aL o => hf < 2 && c < 8 && p < 8 && aN < 16 && aL < 16 && simm o 18
  | .mzero _ t => t < 2048
  | .mdeq _ td cs rs _ d t c =>
      [0, 1, 2, 3, 5, 6, 7].contains td && sp d && t < 2048
        && sp c && (cs || rs || c == 0)
  | .mstat _ aD sl t => aD < 16 && sl < 2 && t < 2048 && (sl == 1 || t == 0)
  -- class 0x9
  | .xcopy _ sc _ en d a => sc < 4 && en < 256 && d < 16 && a < 16
  | .xgath _ sc c d aN fI => sc < 4 && c < 64 && sp d && aN < 16 && sp fI
  | .xscat _ sc c a aN fI => sc < 4 && c < 64 && sp a && aN < 16 && sp fI
  | .xfill _ sc d a b | .xdec _ sc d a b | .xchk _ sc _ d a b => sc < 4 && d < 16 && a < 16 && b < 16
  -- class 0xA
  | .gate _ v q km1 aB a => vf tFloat v && q < 4352 && km1 < 8 && aB < 16 && sp a
  | .eres _ d a c fm => reg e d && reg e a && c < 4 && fm < 3
  | .edisp _ d a b c => reg e d && reg e a && reg e b && c < 4
  | .edispClose _ d a => reg e d && reg e a
  | .epin _ d a c | .eunpin _ d a c => reg e d && reg e a && c < 4
  | .efetch _ d a c x | .eevict _ d a c x => reg e d && reg e a && c < 4 && x < 2
  | .epred _ a c x => reg e a && c < 4 && x < 2
  -- class 0xB
  | .qpush _ p a => p < 256 && reg e a
  | .qpushRow _ p r => e == .V && p < 256 && r < 2048
  | .qpop _ p ef cd d => p < 256 && cd < 16 && (ef || cd == 0) && reg e d
  | .qpopRow _ p ef cd r => e == .V && p < 256 && cd < 16 && (ef || cd == 0) && r < 2048
  | .qpeek _ p cd d => p < 256 && cd < 16 && reg e d
  | .qpeekRow _ p cd r => e == .V && p < 256 && cd < 16 && r < 2048
  | .qstat _ p d => p < 256 && reg e d
  | .qbind _ p m d a => p < 256 && m < 4 && reg e d && reg e a && (m != 0 || a == 0)
  -- class 0xC
  | .rcpdef _ id n a => id < 256 && n < 4 && reg e a
  | .rcpset _ id d => id < 256 && sp d
  | .rcpclr _ c d => c < 2048 && sp d
  -- step program (R350)
  | .sldc a b f => a < 16 && b < 16 && f < 4
  | .spen a p path => a < 16 && path < 16 && (p || a == 0)
  | .stemp | .stopk | .stopp | .sminp | .ssmax | .sabort | .send => true
  | .srng a n => a < 16 && n < 2 ^ 15
  | .sdraw d => d < 16
  | .smemb a | .semit a => a < 16
  | .scnt a b dp => a < 16 && b < 16 && dp < 16
  | .scommit a p => a < 16 && p < 16
  | .smov d a => d < 16 && a < 16
  | .smovImm d n => d < 16 && simm n 13
  | .smovLoad d a n => d < 16 && a < 16 && simm n 13
  | .sadd d a b => d < 16 && a < 16 && b < 16
  | .saddImm d a n => d < 16 && a < 16 && simm n 14
  | .scmp a b c => a < 16 && b < 16 && c < 6
  | .sbr _ o | .sjmp o => simm o 14
  -- events
  | .serviceEntry c | .issueStallLimit c _ => core c
  | .checkerError c => core c || (256 ≤ c && c < 400)
  | .weightSwap c _ => core c
  | .ctxCreate n | .ctxStart n | .ctxStop n | .ctxCheckpoint n | .ctxResume n | .ctxKill n | .ctxFree n
  | .ctxSaveComplete n | .faultQueueHeadWrite n _ | .dbgStop n _ | .dbgStopat n _ | .dbgRelease n _ => n < 64
  | .ctxBadCommand n c => n < 64 && (c == 0 || 7 < c)
  | .queOpen n | .queClose n | .queFree n | .queDropRead n => n < 4096
  | .queBadCommand n c => n < 4096 && (c == 0 || 3 < c)
  | .breakpointFire n b => n < 64 && b < 8
  | .xkeyWrite n k w _ => n < 64 && k < 16 && w < 8
  | .xkstWrite n k _ => n < 64 && k < 16
  | .modelValidWrite m _ | .modelUnloadComplete m => m < 255
  | .ccgPlace _ n => n < 64
  | .ccgBadCommand _ n c => n < 64 && 1 < c
  | .siteFreeze c s | .siteClear c s => c < 16 && s < 9
  | .errthrWrite c v => c < 16 && v < 65536
  | .correctedSoftError s | .uncorrectableSoftError s _ | .migrationComplete s => s < 144
  | .pwrQuiesce c _ | .pwrSave c _ | .pwrClkoff c _ | .pwrRailoff c _ | .pwrAbort c _ | .pwrWake c _
  | .clusterQuiesced c | .clusterSaveDone c | .clusterWakeDone c _ => c < 16
  | .pwrBadCommand c _ code => c < 16 && (code == 0 || 5 < code)
  | .mbcwSessionDissolve c ch => c < 16 && ch < 8
  | .lnkTrain p | .lnkFence p | .trainingDone p .. | .trainingTimeout p | .linkRecoveryEntry p | .recoveryDone p ..
  | .recoveryTimeout p | .uncorrectableFlitError p | .ideIntegrityFailure p | .surpriseDown p | .fenceComplete p
  | .linkResponse p _ | .ideKm p _ => p < 3
  | .peerLakeAccess p _ => p == 1 || p == 2
  | .smpUcfgWrite j _ | .smpDropRead j | .stepRequest j | .stepResultPush j => j < 4
  | .smpScfgWrite j s _ => j < 4 && s < 256
  | .fetchComplete n _ | .evictionDrainStart n | .evictionComplete n => n < 65536
  | .obsCntReadClear s i | .obsCntWrite s i _ => s < 145 && i < 64
  | .obsOvfClear s _ => s < 145
  | .registerWrite _ n _ => n == 4 || n == 8
  | .queryStepComplete _ | .slabComplete _ | .transferStepComplete _ | .xdecPush _ | .recipeReplay .. | .stageEpoch
  | .groupPlacement .. | .tlbCommand _ | .controlCoreSelfTest .. | .perstRelease | .hostLakeAccess _
  | .stashRemoteAccess .. | .decodeFault .. | .fetchFault .. => true

open WellFormed in
/-- The operand specifiers name operands that the instruction allows (R28, R36 check 6). -/
def Instr.operandsOk : Instr → Bool
  | .vadd _ _ d a b | .vsub _ _ d a b | .vmul _ _ d a b | .vtbi _ _ d a b | .vmin _ _ d a b | .vmax _ _ d a b
  | .vsel _ _ d a b | .viadd _ _ d a b | .visub _ _ d a b | .vimul _ _ d a b | .vshl _ _ d a b | .vshr _ _ d a b
  | .vand _ _ d a b | .vor _ _ d a b | .vxor _ _ d a b | .vperm _ _ d a b => dst d && src a && src b
  | .vfma _ _ d a b => row d && src a && src b
  | .vabs _ _ d a | .vneg _ _ d a | .vexp2 _ _ d a | .vlog2 _ _ d a | .vrcp _ _ d a | .vrsq _ _ d a
  | .vred _ _ _ d a | .vscan _ _ _ _ d a | .vmov _ _ d a | .vbcast _ _ d a _ | .vcmpr _ _ d a _ _ | .vxpnd _ _ d a
  | .vradix _ _ d a _ _ | .vcvt _ _ _ _ _ _ _ d a => dst d && src a
  | .vcmp _ _ _ _ a b => src a && src b
  | .vld _ _ _ d _ _ | .vbcastAreg _ _ d _ | .viota _ _ d _ => dst d
  | .vst _ _ _ a _ _ => src a
  | .vldx _ _ _ d _ i | .vscale _ _ _ d i => dst d && src i
  | .vstx _ _ _ a _ i => src a && src i
  | .vhist _ _ d a _ => row d && src a
  | .vpack _ _ _ _ d a s => dst d && src a && row s
  | .vunpk _ _ _ d a s => dst d && src a && src s
  | .vamo _ _ _ _ d _ i => row d && src i
  | .orient2 _ _ _ _ d a | .orient3 _ _ _ _ d a | .incirc _ _ _ _ d a | .insph _ _ _ _ d a | .segx _ _ _ _ d a =>
      dst d && src a
  | .mmt _ _ i _ _ | .mmv _ _ i _ _ | .mmvHandle _ _ i _ _ => src i && i != 0x8F8 && i != 0x8F9
  | .mdeq _ _ _ _ _ d _ c => dst d && d != 0x8F8 && d != 0x8F9 && src c && !(0x800 ≤ c && c < 0x900)
  | .xgath _ _ _ d _ i => dst d && src i
  | .xscat _ _ _ a _ i => src a && src i
  | .gate _ _ q _ _ a => q < 256 && src a
  | .rcpset _ _ d | .rcpclr _ _ d => dst d
  | _ => true

/-- The header of a stream instruction; none for an event and for a step-program word. -/
def Instr.hdr? : Instr → Option Hdr
  | .add h .. | .sub h .. | .addi h .. | .mul h .. | .mulh h .. | .div h .. | .rem h .. | .andR h .. | .orR h ..
  | .xorR h .. | .andnR h .. | .shl h .. | .shlImm h .. | .shr h .. | .shrImm h .. | .sar h .. | .sarImm h ..
  | .rot h .. | .rotImm h .. | .clz h .. | .popc h .. | .minR h .. | .maxR h .. | .cmp h .. | .sel h .. | .li h ..
  | .lih h .. | .mov h .. | .ext h .. | .ins h .. | .fadd h .. | .fsub h .. | .fmul h .. | .ffma h .. | .fdiv h ..
  | .fsqrt h .. | .fmin h .. | .fmax h .. | .fcmp h .. | .fcvt h .. | .fclass h .. | .ld h .. | .st h .. | .lda h ..
  | .stl h .. | .lds h .. | .chkl h .. | .pref h .. | .amo h .. | .cas h .. | .fence h .. | .smap h .. | .sflush h ..
  | .cinv h .. | .pbr h .. | .pbrReg h .. | .br h .. | .brl h .. | .loop h .. | .lend h | .rdv h .. | .wfe h
  | .sev h .. | .pause h .. | .nop h | .bari h .. | .bara h .. | .barw h .. | .spawn h .. | .spawnPstart h ..
  | .spawnPdrain h .. | .retire h | .slk h .. | .trap h .. | .eret h | .csrr h .. | .csrw h .. | .csrx h ..
  | .tlbi h .. | .tlbs h | .ctxsStop h .. | .ctxsCheckpoint h .. | .ctxl h .. | .vadd h .. | .vsub h .. | .vmul h ..
  | .vfma h .. | .vmin h .. | .vmax h .. | .vabs h .. | .vneg h .. | .vexp2 h .. | .vlog2 h .. | .vrcp h ..
  | .vrsq h .. | .vtbi h .. | .vcmp h .. | .vsel h .. | .viadd h .. | .visub h .. | .vimul h .. | .vand h ..
  | .vor h .. | .vxor h .. | .vshl h .. | .vshr h .. | .vred h .. | .vscan h .. | .vany h .. | .vall h ..
  | .vpopc h .. | .vkop h .. | .vld h .. | .vst h .. | .vldx h .. | .vstx h .. | .vmov h .. | .vbcast h ..
  | .vbcastAreg h .. | .viota h .. | .vperm h .. | .vcmpr h .. | .vxpnd h .. | .vhist h .. | .vradix h ..
  | .vpack h .. | .vunpk h .. | .vscale h .. | .vcvt h .. | .vamo h .. | .nest h .. | .orient2 h .. | .orient3 h ..
  | .incirc h .. | .insph h .. | .segx h .. | .mmt h .. | .mmv h .. | .mmvHandle h .. | .mldw h .. | .mbcw h ..
  | .mzero h .. | .mdeq h .. | .mstat h .. | .xcopy h .. | .xgath h .. | .xscat h .. | .xfill h .. | .xdec h ..
  | .xchk h .. | .gate h .. | .eres h .. | .edisp h .. | .edispClose h .. | .epin h .. | .eunpin h .. | .efetch h ..
  | .eevict h .. | .epred h .. | .qpush h .. | .qpushRow h .. | .qpop h .. | .qpopRow h .. | .qpeek h ..
  | .qpeekRow h .. | .qstat h .. | .qbind h .. | .rcpdef h .. | .rcpset h .. | .rcpclr h .. => some h
  | _ => none

/-- A well-formed instruction of a stream of engine `e` in a group that declares the streams `decl`. -/
def Instr.wf (e : Engine) (decl : Nat) (i : Instr) : Bool :=
  i.encOk e decl && i.operandsOk && (match i.hdr? with
    | some h => WellFormed.hdr e decl h
    | none => true)

end Sys2Proof
end

