-- ==== Sys2Proof/Decode.lean ====
section
/-!
DEFINITION. Decoding of instruction words (spec/02_word.md R21 to R37), of NEST forms (R32, R33) and of step-program
words (spec/18_sequence.md R350), the encoder, and the view of both that numbers bits as the opcode table does.
-/

namespace Sys2Proof
open Word

/-- The last opcode a class defines (R35); class 0xF has no undefined opcode of its own (R33). -/
def lastOpc : Nat → Nat
  | 0 => 0x19
  | 1 => 0x0A
  | 2 => 0x0C
  | 3 => 0x0F
  | 4 => 0x08
  | 5 => 0x1C
  | 6 => 0x10
  | 7 => 0x04
  | 8 => 0x06
  | 9 => 0x05
  | 0xA => 0x07
  | 0xB => 0x04
  | 0xC => 0x02
  | _ => 0x7F

/-- The engine runs some instruction of the class (R35, R36 check 2). -/
def classRuns (e : Engine) (cls : Nat) : Bool :=
  match e with
  | .S => [0, 1, 2, 3, 4, 0xA, 0xB, 0xC].contains cls
  | .V => [0, 3, 4, 5, 6, 7, 0xA, 0xB, 0xC, 0xF].contains cls
  | .M => [0, 3, 4, 8, 0xB].contains cls
  | .X => [0, 3, 4, 9, 0xB].contains cls

/-- The engine runs the defined opcode of a class that it runs at all (R35, R36 check 4). -/
def opcRuns (e : Engine) (cls opc : Nat) : Bool :=
  match e with
  | .S => (cls != 0xA || opc != 0) && (cls != 0xC || opc == 0)
  | .V =>
    (cls != 0 || [0, 1, 2, 0x0B, 0x11, 0x12, 0x13, 0x15, 0x17].contains opc) && (cls != 3 || opc != 0x0D)
      && (cls != 4 || opc == 2) && (cls != 0xA || opc == 0) && (cls != 0xB || opc != 4) && (cls != 0xC || opc != 0)
  | _ =>
    (cls != 0 || [0, 1, 2, 0x0B, 0x11, 0x12, 0x13, 0x15, 0x17].contains opc) && (cls != 3 || opc != 0x0D)
      && (cls != 4 || opc == 2) && (cls != 0xB || opc != 4)

/-- The header fields of a word (R21). -/
def hdrOf (w : Nat) : Hdr := ⟨flag w 63, fld w 50 2, fld w 47 3, fld w 45 2⟩

/-- The common m field of a vector word (R114). -/
def vfOf (w : Nat) : VField := ⟨fld w 5 4, flag w 4, fld w 0 4⟩

/-- What the operand fields of a word say: the instruction they spell and whether every field it does not use is zero.
`none`: no instruction of the opcode has these selector bits. -/
abbrev Spelled := Option (Instr × Bool)

section Classes
variable (w : Nat) (h : Hdr)

/-- Class 0x0 (R91). -/
def decodeInt (opc : Nat) : Spelled :=
  let fd := fld w 39 6
  let fa := fld w 33 6
  let fb := fld w 27 6
  let m := fld w 0 27
  let z := flag w 0
  let n := fld w 2 6
  let sh (r i : Instr) : Spelled :=
    if m == 0 then some (r, true) else some (i, fb == 0 && flag w 1 && m == 2 + 4 * n)
  match opc with
  | 0x00 => some (.add h fd fa fb, m == 0)
  | 0x01 => some (.sub h fd fa fb, m == 0)
  | 0x02 => some (.addi h fd fa (sext w 33), true)
  | 0x03 => some (.mul h fd fa fb, m == 0)
  | 0x04 => some (.mulh h z fd fa fb, m < 2)
  | 0x05 => some (.div h z fd fa fb, m < 2)
  | 0x06 => some (.rem h z fd fa fb, m < 2)
  | 0x07 => some (.andR h fd fa fb, m == 0)
  | 0x08 => some (.orR h fd fa fb, m == 0)
  | 0x09 => some (.xorR h fd fa fb, m == 0)
  | 0x0A => some (.andnR h fd fa fb, m == 0)
  | 0x0B => sh (.shl h fd fa fb) (.shlImm h fd fa n)
  | 0x0C => sh (.shr h fd fa fb) (.shrImm h fd fa n)
  | 0x0D => sh (.sar h fd fa fb) (.sarImm h fd fa n)
  | 0x0E => sh (.rot h fd fa fb) (.rotImm h fd fa n)
  | 0x0F => some (.clz h fd fa, fb == 0 && m == 0)
  | 0x10 => some (.popc h fd fa, fb == 0 && m == 0)
  | 0x11 => some (.minR h z fd fa fb, m < 2)
  | 0x12 => some (.maxR h z fd fa fb, m < 2)
  | 0x13 => some (.cmp h z (fld w 1 3) (fld w 4 4) fa fb, fd == 0 && m < 256)
  | 0x14 => some (.sel h fd fa fb (fld w 0 4), m < 16)
  | 0x15 => some (.li h fd (sext w 39), true)
  | 0x16 => some (.lih h fd (fld w 0 25), fld w 25 14 == 0)
  | 0x17 => some (.mov h fd fa, fb == 0 && m == 0)
  | 0x18 => some (.ext h z fd fa (fld w 1 6) (fld w 7 6), fb == 0 && m < 2 ^ 13)
  | 0x19 => some (.ins h fd fa (fld w 1 6) (fld w 7 6), fb == 0 && m < 2 ^ 13 && !z)
  | _ => none

/-- Class 0x1 (R94). -/
def decodeFp (opc : Nat) : Spelled :=
  let fd := fld w 39 6
  let fa := fld w 33 6
  let fb := fld w 27 6
  let m := fld w 0 27
  let t := fld w 0 4
  match opc with
  | 0x00 => some (.fadd h t fd fa fb, m < 16)
  | 0x01 => some (.fsub h t fd fa fb, m < 16)
  | 0x02 => some (.fmul h t fd fa fb, m < 16)
  | 0x03 => some (.ffma h t fd fa fb (fld w 4 6), m < 2 ^ 10)
  | 0x04 => some (.fdiv h t fd fa fb, m < 16)
  | 0x05 => some (.fsqrt h t fd fa, fb == 0 && m < 16)
  | 0x06 => some (.fmin h t fd fa fb, m < 16)
  | 0x07 => some (.fmax h t fd fa fb, m < 16)
  | 0x08 => some (.fcmp h t (fld w 4 3) (fld w 7 4) fa fb, fd == 0 && m < 2 ^ 11)
  | 0x09 => some (.fcvt h t (fld w 4 4) fd fa, fb == 0 && m < 256)
  | 0x0A => some (.fclass h t fd fa, fb == 0 && m < 16)
  | _ => none

/-- Class 0x2 (R100). -/
def decodeMem (opc : Nat) : Spelled :=
  let fd := fld w 39 6
  let fa := fld w 33 6
  let fb := fld w 27 6
  let m := fld w 0 27
  let t := fld w 0 4
  let sc := fld w 4 2
  let off := sext (w / 2 ^ 6) 21
  match opc with
  | 0x00 => some (.ld h t sc fd fa off, fb == 0)
  | 0x01 => some (.st h t sc fd fa off, fb == 0)
  | 0x02 => some (.lda h t sc fd fa off, fb == 0)
  | 0x03 => some (.stl h t sc fd fa off, fb == 0)
  | 0x04 => some (.lds h t sc fd fa off, fb == 0)
  | 0x05 => some (.chkl h t sc fd fa off, fb == 0)
  | 0x06 => some (.pref h (fld w 0 2) fa off, fd == 0 && fb == 0 && fld w 2 4 == 0)
  | 0x07 => some (.amo h t sc (fld w 6 4) fd fa fb, m < 2 ^ 10)
  | 0x08 => some (.cas h t sc (fld w 6 4) fd fa fb, m < 2 ^ 10)
  | 0x09 => some (.fence h sc t, fd == 0 && fa == 0 && fb == 0 && m < 64)
  | 0x0A => some (.smap h fd fa fb (fld w 0 3), m < 8)
  | 0x0B => some (.sflush h sc t (flag w 6), fd == 0 && fa == 0 && fb == 0 && m < 128)
  | 0x0C => some (.cinv h sc fa fb (fld w 0 2), fd == 0 && m < 64 && fld w 2 2 == 0)
  | _ => none

/-- Class 0x3 (R241). -/
def decodeControl (opc : Nat) : Spelled :=
  let fd := fld w 39 6
  let fa := fld w 33 6
  let fb := fld w 27 6
  let m := fld w 0 27
  let ops := fld w 0 45
  let g := flag w 8
  match opc with
  | 0x00 =>
    if flag w 42 then some (.pbrReg h (fld w 39 3) fa, fld w 43 2 == 0 && fld w 0 33 == 0)
    else some (.pbr h (fld w 39 3) (sext w 39), fld w 43 2 == 0)
  | 0x01 =>
    some (.br h (fld w 0 3) (fld w 3 4) (fld w 7 2) (fld w 9 3), fd == 0 && fa == 0 && fb == 0 && m < 2 ^ 12)
  | 0x02 =>
    some (.brl h (fld w 0 3) (fld w 12 3) (fld w 3 4) (fld w 7 2) (fld w 9 3),
      fd == 0 && fa == 0 && fb == 0 && m < 2 ^ 15)
  | 0x03 => some (.loop h (flag w 32) fa (fld w 0 32), fd == 0)
  | 0x04 => some (.lend h, ops == 0)
  | 0x05 => some (.rdv h (fld w 0 4), ops < 16)
  | 0x06 => some (.wfe h, ops == 0)
  | 0x07 => some (.sev h fa (fld w 0 4), fd == 0 && fb == 0 && m < 16)
  | 0x08 => some (.pause h (fld w 0 16), ops < 2 ^ 16)
  | 0x09 => some (.nop h, ops == 0)
  | 0x0A => some (.bari h g (fld w 0 8) fa, fd == 0 && fb == 0 && m < 512)
  | 0x0B => some (.bara h g (fld w 0 8), ops < 512)
  | 0x0C => some (.barw h g (fld w 0 8), ops < 512)
  | 0x0D =>
    let place := fld w 0 9
    match fld w 9 2 with
    | 0 => some (.spawn h fd fa fb place, m < 512)
    | 1 => some (.spawnPstart h fd fa fb, place == 0 && m < 2 ^ 11)
    | 2 => some (.spawnPdrain h fd fa fb, place == 0 && m < 2 ^ 11)
    | _ => none
  | 0x0E => some (.retire h, ops == 0)
  | 0x0F => some (.slk h (fld w 0 16), ops < 2 ^ 16)
  | _ => none

/-- Class 0x4 (R205, R322). -/
def decodeSystem (opc : Nat) : Spelled :=
  let fd := fld w 39 6
  let fa := fld w 33 6
  let fb := fld w 27 6
  let m := fld w 0 27
  let ops := fld w 0 45
  match opc with
  | 0x00 => some (.trap h (fld w 0 16), ops < 2 ^ 16)
  | 0x01 => some (.eret h, ops == 0)
  | 0x02 => some (.csrr h fd (fld w 0 12), fa == 0 && fb == 0 && m < 4096)
  | 0x03 => some (.csrw h fa (fld w 0 12), fd == 0 && fb == 0 && m < 4096)
  | 0x04 => some (.csrx h fd fa (fld w 0 12), fb == 0 && m < 4096)
  | 0x05 => some (.tlbi h (fld w 0 2) fd fa fb, m < 4)
  | 0x06 => some (.tlbs h, ops == 0)
  | 0x07 => if flag w 0 then some (.ctxsCheckpoint h fd fa, fb == 0 && m == 1)
    else some (.ctxsStop h fd fa, fb == 0 && m == 0)
  | 0x08 => some (.ctxl h fd fa, fb == 0 && m == 0)
  | _ => none

/-- Class 0x5 (R118). -/
def decodeVec (opc : Nat) : Spelled :=
  let v := vfOf w
  let d := fld w 33 12
  let a := fld w 21 12
  let b := fld w 9 12
  match opc with
  | 0x00 => some (.vadd h v d a b, true)
  | 0x01 => some (.vsub h v d a b, true)
  | 0x02 => some (.vmul h v d a b, true)
  | 0x03 => some (.vfma h v d a b, true)
  | 0x04 => some (.vmin h v d a b, true)
  | 0x05 => some (.vmax h v d a b, true)
  | 0x06 => some (.vabs h v d a, b == 0)
  | 0x07 => some (.vneg h v d a, b == 0)
  | 0x08 => some (.vexp2 h v d a, b == 0)
  | 0x09 => some (.vlog2 h v d a, b == 0)
  | 0x0A => some (.vrcp h v d a, b == 0)
  | 0x0B => some (.vrsq h v d a, b == 0)
  | 0x0C => some (.vtbi h v d a b, true)
  | 0x0D => some (.vcmp h v (fld w 37 3) (fld w 33 4) a b, fld w 40 5 == 0)
  | 0x0E => some (.vsel h v d a b, true)
  | 0x0F => some (.viadd h v d a b, true)
  | 0x10 => some (.visub h v d a b, true)
  | 0x11 => some (.vimul h v d a b, true)
  | 0x12 => some (.vand h v d a b, true)
  | 0x13 => some (.vor h v d a b, true)
  | 0x14 => some (.vxor h v d a b, true)
  | 0x15 => some (.vshl h v d a b, true)
  | 0x16 => some (.vshr h v d a b, true)
  | 0x17 => some (.vred h v (fld w 9 2) d a, fld w 11 10 == 0)
  | 0x18 => some (.vscan h v (fld w 9 2) (flag w 11) d a, fld w 12 9 == 0)
  | 0x19 => some (.vany h v (fld w 33 4) (fld w 21 4), d < 16 && a < 16 && b == 0)
  | 0x1A => some (.vall h v (fld w 33 4) (fld w 21 4), d < 16 && a < 16 && b == 0)
  | 0x1B => some (.vpopc h v (fld w 33 4) (fld w 21 4), d < 16 && a < 16 && b == 0)
  | 0x1C => some (.vkop h v.t (fld w 0 3) (fld w 33 4) (fld w 21 4) (fld w 9 4),
      d < 16 && a < 16 && b < 16 && fld w 3 2 == 0)
  | _ => none

/-- Class 0x6 (R129). -/
def decodeData (opc : Nat) : Spelled :=
  let v := vfOf w
  let d := fld w 33 12
  let a := fld w 21 12
  let b := fld w 9 12
  let aN := fld w 29 4
  let off := sext (w / 2 ^ 9) 18
  match opc with
  | 0x00 => some (.vld h v (fld w 27 2) d aN off, true)
  | 0x01 => some (.vst h v (fld w 27 2) d aN off, true)
  | 0x02 => some (.vldx h v (fld w 21 2) d aN b, fld w 23 6 == 0)
  | 0x03 => some (.vstx h v (fld w 21 2) d aN b, fld w 23 6 == 0)
  | 0x04 => some (.vmov h v d a, b == 0)
  | 0x05 =>
    if flag w 20 then some (.vbcastAreg h v d (fld w 9 4), a == 0 && fld w 13 7 == 0)
    else some (.vbcast h v d a (fld w 9 11), true)
  | 0x06 => some (.viota h v d (sext (w / 2 ^ 9) 12), a == 0)
  | 0x07 => some (.vperm h v d a b, true)
  | 0x08 => some (.vcmpr h v d a (flag w 13) (fld w 9 4), fld w 14 7 == 0)
  | 0x09 => some (.vxpnd h v d a, b == 0)
  | 0x0A => some (.vhist h v d a (fld w 9 5), fld w 14 7 == 0)
  | 0x0B => some (.vradix h v d a (flag w 9) (flag w 10), fld w 11 10 == 0)
  | 0x0C => some (.vpack h v.t (flag w 4) (fld w 0 4) d a b, true)
  | 0x0D => some (.vunpk h v.t (fld w 0 4) d a b, !flag w 4)
  | 0x0E => some (.vscale h (fld w 9 4) (fld w 13 6) d a, fld w 19 2 == 0 && fld w 0 9 == 0)
  | 0x0F => some (.vcvt h (flag w 20) (fld w 17 3) (fld w 13 4) (fld w 9 4) v.me v.k d a, v.t == 0)
  | 0x10 => some (.vamo h v (fld w 21 2) (fld w 23 4) d aN b, fld w 27 2 == 0)
  | _ => none

/-- Class 0x7 (R329). -/
def decodeQuery (opc : Nat) : Spelled :=
  let v := vfOf w
  let sos := flag w 20
  let tnf := flag w 19
  let d := fld w 33 12
  let a := fld w 21 12
  let z := fld w 9 10 == 0
  match opc with
  | 0x00 => some (.orient2 h v sos tnf d a, z)
  | 0x01 => some (.orient3 h v sos tnf d a, z)
  | 0x02 => some (.incirc h v sos tnf d a, z)
  | 0x03 => some (.insph h v sos tnf d a, z)
  | 0x04 => some (.segx h v sos tnf d a, z)
  | _ => none

/-- Class 0x8 (R159). -/
def decodeMatrix (opc : Nat) : Spelled :=
  let d := fld w 33 12
  let a := fld w 21 12
  let b := fld w 9 12
  let aN := fld w 29 4
  match opc with
  | 0x00 => some (.mmt h d a (fld w 19 2) (fld w 9 6), fld w 15 4 == 0 && fld w 0 9 == 0)
  | 0x01 =>
    let z := fld w 12 4 == 0 && fld w 0 9 == 0
    if flag w 16 then some (.mmvHandle h d (fld w 17 12) aN (fld w 9 3), z)
    else some (.mmv h d (fld w 17 12) aN (fld w 9 3), z)
  | 0x02 =>
    some (.mldw h (fld w 33 1) (fld w 27 2) aN (fld w 41 4) (sext (w / 2 ^ 9) 18), fld w 34 7 == 0 && fld w 0 9 == 0)
  | 0x03 =>
    some (.mbcw h (fld w 33 1) (fld w 38 3) (fld w 35 3) aN (fld w 41 4) (sext (w / 2 ^ 9) 18),
      fld w 34 1 == 0 && fld w 27 2 == 0 && fld w 0 9 == 0)
  | 0x04 => some (.mzero h d, a == 0 && b == 0 && fld w 0 9 == 0)
  | 0x05 => some (.mdeq h (fld w 5 4) (flag w 4) (flag w 3) (flag w 2) d a b, fld w 0 2 == 0)
  | 0x06 => some (.mstat h (fld w 33 4) (fld w 0 2) a, d < 16 && b == 0 && fld w 0 9 < 4)
  | _ => none

/-- Class 0x9 (R275). -/
def decodeTransfer (opc : Nat) : Spelled :=
  let fd := fld w 39 6
  let fa := fld w 33 6
  let fb := fld w 27 6
  let m := fld w 0 27
  let d := fld w 33 12
  let b := fld w 9 12
  let aN := fld w 29 4
  let sc := fld w 4 2
  match opc with
  | 0x00 => some (.xcopy h (fld w 9 2) (flag w 8) (fld w 0 8) fd fa, fb == 0 && m < 2 ^ 11)
  | 0x01 => some (.xgath h (fld w 27 2) (fld w 21 6) d aN b, fld w 0 9 == 0)
  | 0x02 => some (.xscat h (fld w 27 2) (fld w 21 6) d aN b, fld w 0 9 == 0)
  | 0x03 => some (.xfill h sc fd fa fb, m < 64 && fld w 0 4 == 0)
  | 0x04 => some (.xdec h sc fd fa fb, m < 64 && fld w 0 4 == 0)
  | 0x05 => some (.xchk h sc (flag w 6) fd fa fb, m < 128 && fld w 0 4 == 0)
  | _ => none

/-- Class 0xA (R306). A GATE whose destination is no port spells port 256, which is no port. -/
def decodeExpert (opc : Nat) : Spelled :=
  let fd := fld w 39 6
  let fa := fld w 33 6
  let fb := fld w 27 6
  let m := fld w 0 27
  let c := fld w 0 2
  match opc with
  | 0x00 => some (.gate h (vfOf w) (if fld w 41 4 = 8 then fld w 33 8 else 256 + fld w 33 12) (fld w 18 3) (fld w 14 4) (fld w 21 12), fld w 9 5 == 0)
  | 0x01 => some (.eres h fd fa c (fld w 2 2), fb == 0 && m < 16)
  | 0x02 => if flag w 2 then some (.edispClose h fd fa, fb == 0 && m == 4) else some (.edisp h fd fa fb c, m < 4)
  | 0x03 => some (.epin h fd fa c, fb == 0 && m < 4)
  | 0x04 => some (.eunpin h fd fa c, fb == 0 && m < 4)
  | 0x05 => some (.efetch h fd fa c (fld w 2 1), fb == 0 && m < 8)
  | 0x06 => some (.eevict h fd fa c (fld w 2 1), fb == 0 && m < 8)
  | 0x07 => some (.epred h fa c (fld w 2 1), fd == 0 && fb == 0 && m < 8)
  | _ => none

/-- Class 0xB (R226). -/
def decodeQueue (e : Engine) (opc : Nat) : Spelled :=
  let fd := fld w 39 6
  let fa := fld w 33 6
  let fb := fld w 27 6
  let port := fld w 0 8
  let r := flag w 8
  let vR := fld w 9 12
  let ef := flag w 21
  let cd := fld w 22 4
  let top := fld w 26 1 == 0 && fb == 0
  let rz := vR == 0
  let row := e == .V && vR < 2048
  match opc with
  | 0x00 =>
    if r then some (.qpushRow h port vR, top && row && fd == 0 && fa == 0 && cd == 0 && !ef)
    else some (.qpush h port fa, top && rz && fd == 0 && cd == 0 && !ef)
  | 0x01 =>
    if r then some (.qpopRow h port ef cd vR, top && row && fd == 0 && fa == 0)
    else some (.qpop h port ef cd fd, top && rz && fa == 0)
  | 0x02 =>
    if r then some (.qpeekRow h port cd vR, top && row && fd == 0 && fa == 0 && !ef)
    else some (.qpeek h port cd fd, top && rz && fa == 0 && !ef)
  | 0x03 => some (.qstat h port fd, top && rz && fa == 0 && !ef && !r && cd == 0)
  | 0x04 => some (.qbind h port (fld w 22 2) fd fa, top && rz && !ef && !r && fld w 24 2 == 0)
  | _ => none

/-- Class 0xC (R57). -/
def decodeRecipe (opc : Nat) : Spelled :=
  match opc with
  | 0x00 => some (.rcpdef h (fld w 0 8) (fld w 8 2) (fld w 33 6),
      fld w 39 6 == 0 && fld w 27 6 == 0 && fld w 10 17 == 0)
  | 0x01 => some (.rcpset h (fld w 9 8) (fld w 33 12), fld w 21 12 == 0 && fld w 17 4 == 0 && fld w 0 9 == 0)
  | 0x02 => some (.rcpclr h (fld w 9 11) (fld w 33 12), fld w 21 12 == 0 && fld w 20 1 == 0 && fld w 0 9 == 0)
  | _ => none

end Classes

/-- What a word of a class spells. -/
def spell (e : Engine) (w : Nat) : Spelled :=
  let h := hdrOf w
  let opc := fld w 52 7
  match fld w 59 4 with
  | 0x0 => decodeInt w h opc
  | 0x1 => decodeFp w h opc
  | 0x2 => decodeMem w h opc
  | 0x3 => decodeControl w h opc
  | 0x4 => decodeSystem w h opc
  | 0x5 => decodeVec w h opc
  | 0x6 => decodeData w h opc
  | 0x7 => decodeQuery w h opc
  | 0x8 => decodeMatrix w h opc
  | 0x9 => decodeTransfer w h opc
  | 0xA => decodeExpert w h opc
  | 0xB => decodeQueue w h e opc
  | 0xC => decodeRecipe w h opc
  | _ => none

/-- Checks 5 and 6 of R36 on what a word spells: the unused bits and every encoding rule (0x02), then the operands (0x04). -/
def checked (e : Engine) (decl : Nat) (x : Spelled) : Except Nat Instr :=
  match x with
  | none => .error 2
  | some (i, zero) =>
    if !(zero && i.encOk e decl && (match i.hdr? with
        | some h => WellFormed.hdr e decl h
        | none => true)) then .error 2
    else if !i.operandsOk then .error 4
    else .ok i

/-- Decoding of one word that is no NEST prefix, with the word-level checks of R36 in their order. The error is the cause
code. -/
def decodeWord (e : Engine) (decl w : Nat) : Except Nat Instr :=
  let cls := fld w 59 4
  let opc := fld w 52 7
  if cls == 0xD || cls == 0xE then .error 1
  else if !classRuns e cls then .error 3
  else if lastOpc cls < opc then .error 1
  else if !opcRuns e cls opc then .error 3
  else if cls == 0xA && e == .V && !(fld w 41 4 == 8) then
    match checked e decl (spell e w) with
    | .error 2 => .error 2
    | _ => .error 4
  else checked e decl (spell e w)

/-- Five 5-bit fields, level 0 lowest. -/
def fiveOf (w : Nat) : Five := ⟨fld w 0 5, fld w 5 5, fld w 10 5, fld w 15 5, fld w 20 5⟩

/-- What four words of a NEST form spell (R32). -/
def spellNest (w0 w1 w2 w3 : Nat) : Spelled :=
  some (.nest (hdrOf w0) (flag w0 44) (fld w0 52 7) (fld w0 40 4) (fld w0 36 4) (fld w0 32 4) (fld w0 29 3) (fld w0 0 9)
      ⟨fld w1 0 16, fld w1 16 16, fld w1 32 16, fld w1 48 16, fld w2 48 16⟩ (fiveOf w2) (fiveOf w3) (fiveOf (w3 / 2 ^ 25)),
    fld w0 9 20 == 0 && fld w2 25 23 == 0 && fld w3 50 14 == 0)

/-- Decoding of a NEST form (R33): class 0xF, V stream only. -/
def decodeNest (e : Engine) (decl w0 w1 w2 w3 : Nat) : Except Nat Instr :=
  if e != .V then .error 3 else checked e decl (spellNest w0 w1 w2 w3)

/-- Whether a word is a NEST prefix. -/
def isNest (w : Nat) : Bool := fld w 59 4 == 0xF

/-- Decoding of a step-program word (R350); `none` where the step ends with status ILLEGAL. -/
def decodeStep (w : Nat) : Option Instr :=
  let d := fld w 23 4
  let a := fld w 19 4
  let b := fld w 15 4
  let n := fld w 0 15
  let x : Spelled :=
    match fld w 27 5 with
    | 0x00 => some (.sldc a b (fld w 0 2), d == 0 && n < 4)
    | 0x01 => some (.spen a (flag w 4) (fld w 0 4), d == 0 && b == 0 && n < 32)
    | 0x02 => some (.stemp, fld w 0 27 == 0)
    | 0x03 => some (.stopk, fld w 0 27 == 0)
    | 0x04 => some (.stopp, fld w 0 27 == 0)
    | 0x05 => some (.sminp, fld w 0 27 == 0)
    | 0x06 => some (.ssmax, fld w 0 27 == 0)
    | 0x07 => some (.srng a n, d == 0 && b == 0)
    | 0x08 => some (.sdraw d, fld w 0 23 == 0)
    | 0x09 => some (.smemb a, d == 0 && b == 0 && n == 0)
    | 0x0A => some (.scnt a b (fld w 0 4), d == 0 && n < 16)
    | 0x0B => some (.scommit a (fld w 0 4), d == 0 && b == 0 && n < 16)
    | 0x0C => some (.sabort, fld w 0 27 == 0)
    | 0x0D => some (.semit a, d == 0 && b == 0 && n == 0)
    | 0x0E =>
      match fld w 13 2 with
      | 0 => some (.smov d a, b == 0 && n == 0)
      | 1 => some (.smovImm d (sext w 13), a == 0 && b == 0)
      | 2 => some (.smovLoad d a (sext w 13), b == 0)
      | _ => none
    | 0x0F => if flag w 14 then some (.saddImm d a (sext w 14), b == 0) else some (.sadd d a b, n == 0)
    | 0x10 => some (.scmp a b (fld w 0 3), d == 0 && n < 8)
    | 0x11 => some (.sbr (flag w 14) (sext w 14), d == 0 && a == 0 && b == 0)
    | 0x12 => some (.sjmp (sext w 14), d == 0 && a == 0 && b == 0 && n < 2 ^ 14)
    | 0x13 => some (.send, fld w 0 27 == 0)
    | _ => none
  match x with
  | some (i, true) => if i.encOk .S 1 then some i else none
  | _ => none

/-! ### The encoder -/

/-- A word from its class, opcode, header and operand bits (R21). -/
def wordOf (h : Hdr) (cls opc ops : Nat) : Nat :=
  bit h.stop * 2 ^ 63 + cls * 2 ^ 59 + opc * 2 ^ 52 + h.fl * 2 ^ 50 + h.cm * 2 ^ 47 + h.pt * 2 ^ 45 + ops

/-- Layout S3 (R30). -/
def opsS3 (fd fa fb m : Nat) : Nat := fd * 2 ^ 39 + fa * 2 ^ 33 + fb * 2 ^ 27 + m

/-- Layout V3 (R30); V2I has its immediate in the place of fB. -/
def opsV3 (fD fA fB m : Nat) : Nat := fD * 2 ^ 33 + fA * 2 ^ 21 + fB * 2 ^ 9 + m

/-- Layout VM (R30): the 20-bit immediate field as a number. -/
def opsVM (fD aN imm m : Nat) : Nat := fD * 2 ^ 33 + aN * 2 ^ 29 + imm * 2 ^ 9 + m

/-- The m field of R114. -/
def mOf (v : VField) : Nat := v.t * 32 + bit v.me * 16 + v.k

/-- The 20-bit immediate of VLD, VST, MLDW and MBCW: scope and signed offset. -/
def scOff (sc : Nat) (off : Int) : Nat := sc * 2 ^ 18 + ofInt off 18

def encFive (s : Five) : Nat := s.l0 + s.l1 * 2 ^ 5 + s.l2 * 2 ^ 10 + s.l3 * 2 ^ 15 + s.l4 * 2 ^ 20

/-- The m field of a shift by an immediate (R91). -/
def mShift (n : Nat) : Nat := 2 + n * 4

/-- A step-program word (R350). -/
def stepWord (op d a b n : Nat) : Nat := op * 2 ^ 27 + d * 2 ^ 23 + a * 2 ^ 19 + b * 2 ^ 15 + n

/-- The words of a well-formed instruction, first word first: one 64-bit word, four for a NEST form, one 32-bit word for a
step-program instruction, none for an event. -/
def encode : Instr → List Nat
  | .add h d a b => [wordOf h 0 0x00 (opsS3 d a b 0)]
  | .sub h d a b => [wordOf h 0 0x01 (opsS3 d a b 0)]
  | .addi h d a i => [wordOf h 0 0x02 (d * 2 ^ 39 + a * 2 ^ 33 + ofInt i 33)]
  | .mul h d a b => [wordOf h 0 0x03 (opsS3 d a b 0)]
  | .mulh h z d a b => [wordOf h 0 0x04 (opsS3 d a b (bit z))]
  | .div h z d a b => [wordOf h 0 0x05 (opsS3 d a b (bit z))]
  | .rem h z d a b => [wordOf h 0 0x06 (opsS3 d a b (bit z))]
  | .andR h d a b => [wordOf h 0 0x07 (opsS3 d a b 0)]
  | .orR h d a b => [wordOf h 0 0x08 (opsS3 d a b 0)]
  | .xorR h d a b => [wordOf h 0 0x09 (opsS3 d a b 0)]
  | .andnR h d a b => [wordOf h 0 0x0A (opsS3 d a b 0)]
  | .shl h d a b => [wordOf h 0 0x0B (opsS3 d a b 0)]
  | .shlImm h d a n => [wordOf h 0 0x0B (opsS3 d a 0 (mShift n))]
  | .shr h d a b => [wordOf h 0 0x0C (opsS3 d a b 0)]
  | .shrImm h d a n => [wordOf h 0 0x0C (opsS3 d a 0 (mShift n))]
  | .sar h d a b => [wordOf h 0 0x0D (opsS3 d a b 0)]
  | .sarImm h d a n => [wordOf h 0 0x0D (opsS3 d a 0 (mShift n))]
  | .rot h d a b => [wordOf h 0 0x0E (opsS3 d a b 0)]
  | .rotImm h d a n => [wordOf h 0 0x0E (opsS3 d a 0 (mShift n))]
  | .clz h d a => [wordOf h 0 0x0F (opsS3 d a 0 0)]
  | .popc h d a => [wordOf h 0 0x10 (opsS3 d a 0 0)]
  | .minR h z d a b => [wordOf h 0 0x11 (opsS3 d a b (bit z))]
  | .maxR h z d a b => [wordOf h 0 0x12 (opsS3 d a b (bit z))]
  | .cmp h z c cd a b => [wordOf h 0 0x13 (opsS3 0 a b (bit z + c * 2 + cd * 16))]
  | .sel h d a b cn => [wordOf h 0 0x14 (opsS3 d a b cn)]
  | .li h d i => [wordOf h 0 0x15 (d * 2 ^ 39 + ofInt i 39)]
  | .lih h d i => [wordOf h 0 0x16 (d * 2 ^ 39 + i)]
  | .mov h d a => [wordOf h 0 0x17 (opsS3 d a 0 0)]
  | .ext h z d a p l => [wordOf h 0 0x18 (opsS3 d a 0 (bit z + p * 2 + l * 128))]
  | .ins h d a p l => [wordOf h 0 0x19 (opsS3 d a 0 (p * 2 + l * 128))]
  | .fadd h t d a b => [wordOf h 1 0x00 (opsS3 d a b t)]
  | .fsub h t d a b => [wordOf h 1 0x01 (opsS3 d a b t)]
  | .fmul h t d a b => [wordOf h 1 0x02 (opsS3 d a b t)]
  | .ffma h t d a b c => [wordOf h 1 0x03 (opsS3 d a b (t + c * 16))]
  | .fdiv h t d a b => [wordOf h 1 0x04 (opsS3 d a b t)]
  | .fsqrt h t d a => [wordOf h 1 0x05 (opsS3 d a 0 t)]
  | .fmin h t d a b => [wordOf h 1 0x06 (opsS3 d a b t)]
  | .fmax h t d a b => [wordOf h 1 0x07 (opsS3 d a b t)]
  | .fcmp h t c cd a b => [wordOf h 1 0x08 (opsS3 0 a b (t + c * 16 + cd * 128))]
  | .fcvt h td ts d a => [wordOf h 1 0x09 (opsS3 d a 0 (td + ts * 16))]
  | .fclass h t d a => [wordOf h 1 0x0A (opsS3 d a 0 t)]
  | .ld h t sc d a o => [wordOf h 2 0x00 (opsS3 d a 0 (ofInt o 21 * 64 + sc * 16 + t))]
  | .st h t sc d a o => [wordOf h 2 0x01 (opsS3 d a 0 (ofInt o 21 * 64 + sc * 16 + t))]
  | .lda h t sc d a o => [wordOf h 2 0x02 (opsS3 d a 0 (ofInt o 21 * 64 + sc * 16 + t))]
  | .stl h t sc d a o => [wordOf h 2 0x03 (opsS3 d a 0 (ofInt o 21 * 64 + sc * 16 + t))]
  | .lds h t sc d a o => [wordOf h 2 0x04 (opsS3 d a 0 (ofInt o 21 * 64 + sc * 16 + t))]
  | .chkl h t sc d a o => [wordOf h 2 0x05 (opsS3 d a 0 (ofInt o 21 * 64 + sc * 16 + t))]
  | .pref h tgt a o => [wordOf h 2 0x06 (opsS3 0 a 0 (ofInt o 21 * 64 + tgt))]
  | .amo h t sc op d a b => [wordOf h 2 0x07 (opsS3 d a b (op * 64 + sc * 16 + t))]
  | .cas h t sc cn d a b => [wordOf h 2 0x08 (opsS3 d a b (cn * 64 + sc * 16 + t))]
  | .fence h sc m => [wordOf h 2 0x09 (sc * 16 + m)]
  | .smap h d a b w => [wordOf h 2 0x0A (opsS3 d a b w)]
  | .sflush h sc w inv => [wordOf h 2 0x0B (bit inv * 64 + sc * 16 + w)]
  | .cinv h sc a b op => [wordOf h 2 0x0C (opsS3 0 a b (sc * 16 + op))]
  | .pbr h bn i => [wordOf h 3 0x00 (bn * 2 ^ 39 + ofInt i 39)]
  | .pbrReg h bn a => [wordOf h 3 0x00 (2 ^ 42 + bn * 2 ^ 39 + a * 2 ^ 33)]
  | .br h bn cn mode n => [wordOf h 3 0x01 (bn + cn * 8 + mode * 128 + n * 512)]
  | .brl h bn bl cn mode n => [wordOf h 3 0x02 (bn + cn * 8 + mode * 128 + n * 512 + bl * 4096)]
  | .loop h i a n => [wordOf h 3 0x03 (a * 2 ^ 33 + bit i * 2 ^ 32 + n)]
  | .lend h => [wordOf h 3 0x04 0]
  | .rdv h m => [wordOf h 3 0x05 m]
  | .wfe h => [wordOf h 3 0x06 0]
  | .sev h a m => [wordOf h 3 0x07 (a * 2 ^ 33 + m)]
  | .pause h n => [wordOf h 3 0x08 n]
  | .nop h => [wordOf h 3 0x09 0]
  | .bari h g b a => [wordOf h 3 0x0A (a * 2 ^ 33 + bit g * 256 + b)]
  | .bara h g b => [wordOf h 3 0x0B (bit g * 256 + b)]
  | .barw h g b => [wordOf h 3 0x0C (bit g * 256 + b)]
  | .spawn h d a b w => [wordOf h 3 0x0D (opsS3 d a b w)]
  | .spawnPstart h d a b => [wordOf h 3 0x0D (opsS3 d a b 512)]
  | .spawnPdrain h d a b => [wordOf h 3 0x0D (opsS3 d a b 1024)]
  | .retire h => [wordOf h 3 0x0E 0]
  | .slk h n => [wordOf h 3 0x0F n]
  | .trap h c => [wordOf h 4 0x00 c]
  | .eret h => [wordOf h 4 0x01 0]
  | .csrr h d c => [wordOf h 4 0x02 (opsS3 d 0 0 c)]
  | .csrw h a c => [wordOf h 4 0x03 (opsS3 0 a 0 c)]
  | .csrx h d a c => [wordOf h 4 0x04 (opsS3 d a 0 c)]
  | .tlbi h k d a b => [wordOf h 4 0x05 (opsS3 d a b k)]
  | .tlbs h => [wordOf h 4 0x06 0]
  | .ctxsStop h d a => [wordOf h 4 0x07 (opsS3 d a 0 0)]
  | .ctxsCheckpoint h d a => [wordOf h 4 0x07 (opsS3 d a 0 1)]
  | .ctxl h d a => [wordOf h 4 0x08 (opsS3 d a 0 0)]
  | .vadd h v d a b => [wordOf h 5 0x00 (opsV3 d a b (mOf v))]
  | .vsub h v d a b => [wordOf h 5 0x01 (opsV3 d a b (mOf v))]
  | .vmul h v d a b => [wordOf h 5 0x02 (opsV3 d a b (mOf v))]
  | .vfma h v d a b => [wordOf h 5 0x03 (opsV3 d a b (mOf v))]
  | .vmin h v d a b => [wordOf h 5 0x04 (opsV3 d a b (mOf v))]
  | .vmax h v d a b => [wordOf h 5 0x05 (opsV3 d a b (mOf v))]
  | .vabs h v d a => [wordOf h 5 0x06 (opsV3 d a 0 (mOf v))]
  | .vneg h v d a => [wordOf h 5 0x07 (opsV3 d a 0 (mOf v))]
  | .vexp2 h v d a => [wordOf h 5 0x08 (opsV3 d a 0 (mOf v))]
  | .vlog2 h v d a => [wordOf h 5 0x09 (opsV3 d a 0 (mOf v))]
  | .vrcp h v d a => [wordOf h 5 0x0A (opsV3 d a 0 (mOf v))]
  | .vrsq h v d a => [wordOf h 5 0x0B (opsV3 d a 0 (mOf v))]
  | .vtbi h v d a b => [wordOf h 5 0x0C (opsV3 d a b (mOf v))]
  | .vcmp h v c kd a b => [wordOf h 5 0x0D (opsV3 (c * 16 + kd) a b (mOf v))]
  | .vsel h v d a b => [wordOf h 5 0x0E (opsV3 d a b (mOf v))]
  | .viadd h v d a b => [wordOf h 5 0x0F (opsV3 d a b (mOf v))]
  | .visub h v d a b => [wordOf h 5 0x10 (opsV3 d a b (mOf v))]
  | .vimul h v d a b => [wordOf h 5 0x11 (opsV3 d a b (mOf v))]
  | .vand h v d a b => [wordOf h 5 0x12 (opsV3 d a b (mOf v))]
  | .vor h v d a b => [wordOf h 5 0x13 (opsV3 d a b (mOf v))]
  | .vxor h v d a b => [wordOf h 5 0x14 (opsV3 d a b (mOf v))]
  | .vshl h v d a b => [wordOf h 5 0x15 (opsV3 d a b (mOf v))]
  | .vshr h v d a b => [wordOf h 5 0x16 (opsV3 d a b (mOf v))]
  | .vred h v op d a => [wordOf h 5 0x17 (opsV3 d a op (mOf v))]
  | .vscan h v op x d a => [wordOf h 5 0x18 (opsV3 d a (bit x * 4 + op) (mOf v))]
  | .vany h v cd ka => [wordOf h 5 0x19 (opsV3 cd ka 0 (mOf v))]
  | .vall h v cd ka => [wordOf h 5 0x1A (opsV3 cd ka 0 (mOf v))]
  | .vpopc h v ad ka => [wordOf h 5 0x1B (opsV3 ad ka 0 (mOf v))]
  | .vkop h t op kd ka kb => [wordOf h 5 0x1C (opsV3 kd ka kb (t * 32 + op))]
  | .vld h v sc d aN o => [wordOf h 6 0x00 (opsVM d aN (scOff sc o) (mOf v))]
  | .vst h v sc a aN o => [wordOf h 6 0x01 (opsVM a aN (scOff sc o) (mOf v))]
  | .vldx h v sc d aN i => [wordOf h 6 0x02 (opsVM d aN (sc * 2 ^ 12 + i) (mOf v))]
  | .vstx h v sc a aN i => [wordOf h 6 0x03 (opsVM a aN (sc * 2 ^ 12 + i) (mOf v))]
  | .vmov h v d a => [wordOf h 6 0x04 (opsV3 d a 0 (mOf v))]
  | .vbcast h v d a l => [wordOf h 6 0x05 (opsV3 d a l (mOf v))]
  | .vbcastAreg h v d aN => [wordOf h 6 0x05 (opsV3 d 0 (2 ^ 11 + aN) (mOf v))]
  | .viota h v d i => [wordOf h 6 0x06 (opsV3 d 0 (ofInt i 12) (mOf v))]
  | .vperm h v d a b => [wordOf h 6 0x07 (opsV3 d a b (mOf v))]
  | .vcmpr h v d a ce aC => [wordOf h 6 0x08 (opsV3 d a (bit ce * 16 + aC) (mOf v))]
  | .vxpnd h v d a => [wordOf h 6 0x09 (opsV3 d a 0 (mOf v))]
  | .vhist h v d a p => [wordOf h 6 0x0A (opsV3 d a p (mOf v))]
  | .vradix h v d a inv desc => [wordOf h 6 0x0B (opsV3 d a (bit desc * 2 + bit inv) (mOf v))]
  | .vpack h t sr f d a s => [wordOf h 6 0x0C (opsV3 d a s (t * 32 + bit sr * 16 + f))]
  | .vunpk h t f d a s => [wordOf h 6 0x0D (opsV3 d a s (t * 32 + f))]
  | .vscale h f thr d s => [wordOf h 6 0x0E (opsV3 d s (thr * 16 + f) 0)]
  | .vcvt h sr p ts td me k d a =>
    [wordOf h 6 0x0F (opsV3 d a (bit sr * 2 ^ 11 + p * 2 ^ 8 + ts * 16 + td) (bit me * 16 + k))]
  | .vamo h v sc op d aN i => [wordOf h 6 0x10 (opsVM d aN (op * 2 ^ 14 + sc * 2 ^ 12 + i) (mOf v))]
  | .nest h wc opc bd ba bb e m x sD sA sB =>
    [wordOf h 0xF opc (bit wc * 2 ^ 44 + bd * 2 ^ 40 + ba * 2 ^ 36 + bb * 2 ^ 32 + e * 2 ^ 29 + m),
     x.l0 + x.l1 * 2 ^ 16 + x.l2 * 2 ^ 32 + x.l3 * 2 ^ 48,
     x.l4 * 2 ^ 48 + encFive sD,
     encFive sB * 2 ^ 25 + encFive sA]
  | .orient2 h v s t d a => [wordOf h 7 0x00 (opsV3 d a (bit s * 2 ^ 11 + bit t * 2 ^ 10) (mOf v))]
  | .orient3 h v s t d a => [wordOf h 7 0x01 (opsV3 d a (bit s * 2 ^ 11 + bit t * 2 ^ 10) (mOf v))]
  | .incirc h v s t d a => [wordOf h 7 0x02 (opsV3 d a (bit s * 2 ^ 11 + bit t * 2 ^ 10) (mOf v))]
  | .insph h v s t d a => [wordOf h 7 0x03 (opsV3 d a (bit s * 2 ^ 11 + bit t * 2 ^ 10) (mOf v))]
  | .segx h v s t d a => [wordOf h 7 0x04 (opsV3 d a (bit s * 2 ^ 11 + bit t * 2 ^ 10) (mOf v))]
  | .mmt h t i ws mm => [wordOf h 8 0x00 (opsV3 t i (ws * 2 ^ 10 + mm) 0)]
  | .mmv h t i aW mm => [wordOf h 8 0x01 (opsVM t aW (i * 2 ^ 8 + mm) 0)]
  | .mmvHandle h t i aW mm => [wordOf h 8 0x01 (opsVM t aW (i * 2 ^ 8 + 2 ^ 7 + mm) 0)]
  | .mldw h hf sc aN aL o => [wordOf h 8 0x02 (opsVM (aL * 2 ^ 8 + hf) aN (scOff sc o) 0)]
  | .mbcw h hf c p aN aL o => [wordOf h 8 0x03 (opsVM (aL * 2 ^ 8 + c * 2 ^ 5 + p * 4 + hf) aN (scOff 0 o) 0)]
  | .mzero h t => [wordOf h 8 0x04 (opsV3 t 0 0 0)]
  | .mdeq h td cs rs acc d t c => [wordOf h 8 0x05 (opsV3 d t c (td * 32 + bit cs * 16 + bit rs * 8 + bit acc * 4))]
  | .mstat h aD s t => [wordOf h 8 0x06 (opsV3 aD t 0 s)]
  | .xcopy h sc sr en d a => [wordOf h 9 0x00 (opsS3 d a 0 (sc * 512 + bit sr * 256 + en))]
  | .xgath h sc c d aN i => [wordOf h 9 0x01 (opsVM d aN (sc * 2 ^ 18 + c * 2 ^ 12 + i) 0)]
  | .xscat h sc c a aN i => [wordOf h 9 0x02 (opsVM a aN (sc * 2 ^ 18 + c * 2 ^ 12 + i) 0)]
  | .xfill h sc d a b => [wordOf h 9 0x03 (opsS3 d a b (sc * 16))]
  | .xdec h sc d a b => [wordOf h 9 0x04 (opsS3 d a b (sc * 16))]
  | .xchk h sc ct d a b => [wordOf h 9 0x05 (opsS3 d a b (bit ct * 64 + sc * 16))]
  | .gate h v q km1 aB a => [wordOf h 0xA 0x00 (opsV3 (0x800 + q) a (km1 * 2 ^ 9 + aB * 2 ^ 5) (mOf v))]
  | .eres h d a c f => [wordOf h 0xA 0x01 (opsS3 d a 0 (f * 4 + c))]
  | .edisp h d a b c => [wordOf h 0xA 0x02 (opsS3 d a b c)]
  | .edispClose h d a => [wordOf h 0xA 0x02 (opsS3 d a 0 4)]
  | .epin h d a c => [wordOf h 0xA 0x03 (opsS3 d a 0 c)]
  | .eunpin h d a c => [wordOf h 0xA 0x04 (opsS3 d a 0 c)]
  | .efetch h d a c x => [wordOf h 0xA 0x05 (opsS3 d a 0 (x * 4 + c))]
  | .eevict h d a c x => [wordOf h 0xA 0x06 (opsS3 d a 0 (x * 4 + c))]
  | .epred h a c x => [wordOf h 0xA 0x07 (opsS3 0 a 0 (x * 4 + c))]
  | .qpush h p a => [wordOf h 0xB 0x00 (opsS3 0 a 0 p)]
  | .qpushRow h p r => [wordOf h 0xB 0x00 (opsS3 0 0 0 (r * 512 + 256 + p))]
  | .qpop h p e cd d => [wordOf h 0xB 0x01 (opsS3 d 0 0 (cd * 2 ^ 22 + bit e * 2 ^ 21 + p))]
  | .qpopRow h p e cd r => [wordOf h 0xB 0x01 (opsS3 0 0 0 (cd * 2 ^ 22 + bit e * 2 ^ 21 + r * 512 + 256 + p))]
  | .qpeek h p cd d => [wordOf h 0xB 0x02 (opsS3 d 0 0 (cd * 2 ^ 22 + p))]
  | .qpeekRow h p cd r => [wordOf h 0xB 0x02 (opsS3 0 0 0 (cd * 2 ^ 22 + r * 512 + 256 + p))]
  | .qstat h p d => [wordOf h 0xB 0x03 (opsS3 d 0 0 p)]
  | .qbind h p m d a => [wordOf h 0xB 0x04 (opsS3 d a 0 (m * 2 ^ 22 + p))]
  | .rcpdef h id n a => [wordOf h 0xC 0x00 (opsS3 0 a 0 (n * 256 + id))]
  | .rcpset h id d => [wordOf h 0xC 0x01 (opsV3 d 0 id 0)]
  | .rcpclr h c d => [wordOf h 0xC 0x02 (opsV3 d 0 c 0)]
  | .sldc a b f => [stepWord 0x00 0 a b f]
  | .spen a p path => [stepWord 0x01 0 a 0 (bit p * 16 + path)]
  | .stemp => [stepWord 0x02 0 0 0 0]
  | .stopk => [stepWord 0x03 0 0 0 0]
  | .stopp => [stepWord 0x04 0 0 0 0]
  | .sminp => [stepWord 0x05 0 0 0 0]
  | .ssmax => [stepWord 0x06 0 0 0 0]
  | .srng a n => [stepWord 0x07 0 a 0 n]
  | .sdraw d => [stepWord 0x08 d 0 0 0]
  | .smemb a => [stepWord 0x09 0 a 0 0]
  | .scnt a b dp => [stepWord 0x0A 0 a b dp]
  | .scommit a p => [stepWord 0x0B 0 a 0 p]
  | .sabort => [stepWord 0x0C 0 0 0 0]
  | .semit a => [stepWord 0x0D 0 a 0 0]
  | .smov d a => [stepWord 0x0E d a 0 0]
  | .smovImm d n => [stepWord 0x0E d 0 0 (2 ^ 13 + ofInt n 13)]
  | .smovLoad d a n => [stepWord 0x0E d a 0 (2 * 2 ^ 13 + ofInt n 13)]
  | .sadd d a b => [stepWord 0x0F d a b 0]
  | .saddImm d a n => [stepWord 0x0F d a 0 (2 ^ 14 + ofInt n 14)]
  | .scmp a b c => [stepWord 0x10 0 a b c]
  | .sbr v o => [stepWord 0x11 0 0 0 (bit v * 2 ^ 14 + ofInt o 14)]
  | .sjmp o => [stepWord 0x12 0 0 0 (ofInt o 14)]
  | .send => [stepWord 0x13 0 0 0 0]
  | _ => []

/-- The first engine of the list whose decoder accepts the word, in a group that declares all four streams. -/
def decodeAny (w : Nat) : List Engine → Option (Engine × Instr)
  | [] => none
  | e :: es =>
    match decodeWord e 15 w with
    | .ok i => some (e, i)
    | .error _ => decodeAny w es

/-- The instruction that the decoder reads from a word numbered as the opcode table numbers it: 32 bits for a
step-program word, 64 for an instruction word (read for the first of S, V, M and X that runs it), 256 for a NEST form. -/
def decodeTableWord (nbits w : Nat) : Option Instr :=
  if nbits == 32 then (if w < 2 ^ 32 then decodeStep w else none)
  else if nbits == 64 then
    if isNest (w % 2 ^ 64) then none else (decodeAny w [.S, .V, .M, .X]).map (·.2)
  else if nbits == 256 then
    if isNest (w % 2 ^ 64) then
      (decodeNest .V 15 (fld w 0 64) (fld w 64 64) (fld w 128 64) (fld w 192 64)).toOption
    else none
  else none

end Sys2Proof
end

