-- ==== Sys2Proof/Config.lean ====
section
/-!
DEFINITION. What an implementation fixes and the free values: constants without a body, so that nothing can prove a value
of one. A free value that must differ from use to use is applied to the counter `fresh` of the state.
-/

namespace Sys2Proof.Config

/-- A value the manual leaves open, fresh for each use (the counter of the state is the argument). Log 16. -/
opaque freeWord : Nat → Word

/-- A byte read from a line whose Lake channel is mapped out: "its data is gone", and the line reads poisoned (R20). Log 31. -/
opaque lostByte : Nat → Byte

/-- The occupancy of the target unit sampled at a dispatch of the Pass, in 1/256 (R164). Log 17. -/
opaque occupancy : Nat → BitVec 8

/-- ML-DSA-87 verification (R14, R17): key, message, signature. The manual names the algorithm and gives no text of it.
Log 7. -/
opaque mldsaVerify : Nat → List Byte → Nat → Bool

/-- An ML-DSA-87 signature under the module identity key (R15, R18), fresh for each use. Log 7. -/
opaque mldsaSign : Nat → List Byte → Nat

/-- The identity public key that the ROM derives from the SRAM PUF at each boot (R16). Log 7. -/
opaque derivedKey : Nat

/-- The SHA3-512 of the service public key that the mask ROM holds (R17). Log 7. -/
opaque serviceKeyHash : Nat

/-- The mask ROM's own measurement (R11, R16). Log 7. -/
opaque romMeasurement : Nat

/-- The SHA3-512 of the factory trim block of this module (R14, R16). Log 7. -/
opaque trimHash : Nat

/-- The signature of the record that a module leaves the factory with (R13). Log 7. -/
opaque factorySignature : Nat

/-- SITE_TEMP t LIMIT: "fixed", with no figure (R396). Log 11. -/
opaque tripLimit : Nat → BitVec 16

/-- SITE_RAIL r NOM: "fixed", with no figure (R396). Log 11. -/
opaque railNominal : Nat → BitVec 16

end Sys2Proof.Config
end

