-- ==== Sys2Proof/Machine/State.lean ====
section
/-!
DEFINITION. The state of the A4 as plain data: the module and its records (`Mod`), and the device that the streams and the
host act on (`Dev`). Registers, tables and memories are lists of key and value pairs in one canonical form.
-/

namespace Sys2Proof.Machine

/-- Sparse data by number: keys strictly rising. What an unlisted key reads as is said where the table is read. -/
abbrev Map (α : Type) := List (Nat × α)

/-- Bytes by address: addresses strictly rising, no byte equal to what an unlisted address reads as (0, log 3). -/
abbrev Memory := List Host.Cell

/-- A scalar or address register with its poison bit (R47, R87); also a queue word (R213). -/
structure Reg where
  v : Word := 0
  p : Bool := false
  deriving DecidableEq, Repr

/-- A condition register with its poison bit (R47, R87). -/
structure CReg where
  v : Bool := false
  p : Bool := false
  deriving DecidableEq, Repr

/-- A lane-mask register with its poison bit (R47, R116). -/
structure KReg where
  v : MaskBits := 0
  p : Bool := false
  deriving DecidableEq, Repr

/-- The recipe state of a row (R64). A row that a replay is rebuilding is DROPPED until the replay completes. -/
inductive RowTag where
  | live
  | tagged (id : Nat)
  | dropped (id : Nat)
  deriving DecidableEq, Repr

/-- A register row: its bits, its poison bit, its saturation mark (R163), its recipe state and whether the image has it as it is
(R42, R51, R64, R211). -/
structure Row where
  v : RowBits := 0
  p : Bool := false
  sat : Bool := false
  tag : RowTag := .live
  /-- Written since the group's last save (R211). -/
  dirty : Bool := false
  /-- An uncorrectable error stands in its entry of the tag table (R63). -/
  bad : Bool := false
  deriving DecidableEq, Repr

/-- A row of data on its own: a queue entry, a staged operand (R49, R213). -/
structure RowData where
  v : RowBits := 0
  p : Bool := false
  deriving DecidableEq, Repr

/-- One recipe-table entry (R52, R58); `bad` says that an uncorrectable error stands in it (R63). -/
structure Recipe where
  valid : Bool := false
  words : List Nat := []
  p : Bool := false
  bad : Bool := false
  deriving DecidableEq, Repr

/-- One active loop of a stream (R247). -/
structure Loop where
  start : Word
  remaining : Word
  iter : Word
  deriving DecidableEq, Repr

/-- A taken branch whose transfer is pending (R244, R245). `link` names the register that takes the address after the second delay
group when it is reached, where a BRL could not read that far at its issue. -/
structure Transfer where
  target : Word
  left : Nat
  exits : Nat
  link : Option Nat := none
  deriving DecidableEq, Repr

/-- The arrival record of a stream (R264). -/
structure Arrival where
  g : Bool
  b : Nat
  cluster : Nat
  phase : Nat
  deriving DecidableEq, Repr

/-- A cached leaf (R316, R320): ASID, level, the page's first virtual address, its physical address, its rights. -/
structure Leaf where
  asid : Nat
  size : Nat
  va : Nat
  pa : Nat
  r : Bool
  w : Bool
  x : Bool
  cw : Bool
  /-- A translation of the residency window, made by the residency unit (R296, R320). -/
  win : Bool := false
  /-- Held by an access, and removed from the TLBs since (R321, R324). -/
  gone : Bool := false
  deriving DecidableEq, Repr

/-- What an access does (R101). -/
inductive Acc where
  | load | store | atomic | fetch
  /-- An advanced load or a lane load, refused in the MMIO window (R101 check 6, R130). -/
  | advanced
  /-- A lane store, refused in the MMIO window (R130). -/
  | laneStore
  deriving DecidableEq, Repr

/-- A translation that an access has taken and holds (R321): the address of its instruction, what it does, its virtual address, the
leaf. -/
structure Held where
  pc : Word
  acc : Acc
  va : Nat
  leaf : Leaf
  deriving DecidableEq, Repr

/-- Who makes an access: a stream at its head group, a step of the operation in progress of a stream, the MBCW in progress of a group,
the service stream of a core, the step of a sampler unit. -/
inductive Waiter where
  | stream (key : Nat) (e : Engine)
  | op (key : Nat) (e : Engine)
  | load (key : Nat)
  | service (core : Nat)
  | unit (j : Nat)
  deriving DecidableEq, Repr

/-- An access that waits to be performed (R368, R384, R385): whose it is, the port it needs (none: it waits for a migration), the lines
it asks for, those of them that have been answered, and the translations it holds (R321). -/
structure AccWait where
  by_ : Waiter
  port : Option Nat
  lines : List Nat
  got : List Nat := []
  held : List Held := []
  deriving DecidableEq, Repr

/-- A hoist-guard entry (R104). A write to any byte of its line removes it, which stands for the stamp. -/
structure Hoist where
  reg : Nat
  ea : Nat
  t : Nat
  sc : Nat
  line : Nat
  deriving DecidableEq, Repr

/-- An instruction that has issued and not retired, with its staging and restart state (R171, R273, R148, R341). What the
numbered fields hold is said where each family starts it. -/
structure LongOp where
  ins : Instr
  word : Nat
  pc : Word
  step : Nat
  n : List Nat
  regs : List Reg
  rows : List RowData
  mask : KReg
  p : Bool
  /-- Slots reserved in pool queues and not yet filled: the queue and how many. -/
  res : List (Nat × Nat)
  /-- The bytes that a NEST form has stored clean so far, a mask for each line (R177). -/
  clean : Map Nat := []
  deriving DecidableEq, Repr

/-- What holds a stream at its next issue group (R239). -/
inductive Wait where
  | none
  /-- Tokens: the FIFOs that the head group consumes from, and how many of each (R261, R393). -/
  | token (needs : List (Nat × Nat) := [])
  | queue (port : Nat)
  | barrier
  | event
  | rendezvous (mask : Nat)
  /-- A dropped row; the rows a RCPCLR has cleared before it (R60, R63). -/
  | replay (row : Nat) (cleared : List Nat)
  /-- A row that is to be written whole and whose granule is lent (R62, R63). -/
  | granule (row : Nat)
  | busy
  /-- A copy whose fetch or eviction must end first; the number is the model's identifier of the expert (R299). -/
  | copy (expert : Nat)
  /-- Lines asked of a port (R384, R385), with the translations that the access holds (R321). -/
  | link (port : Nat) (lines : List Nat) (held : List Held := [])
  /-- An access held while a site of the cluster migrates (R368), with the translations that it holds (R321). -/
  | peer (held : List Held := [])
  | session (c : Nat)
  | swap
  deriving DecidableEq, Repr

/-- One stream of a group (R47, R237, R240 to R249, R259, R264, R270, R272, R391). -/
structure Stream where
  declared : Bool := false
  retired : Bool := false
  pc : Word := 0
  r : Map Reg := []
  c : Map CReg := []
  b : Map Word := []
  k : Map KReg := []
  loops : List Loop := []
  pend : Option Transfer := none
  skip : Option (Nat × Word) := none
  rdv : Option Nat := none
  rdvGo : Bool := false
  event : Bool := false
  arrival : Option Arrival := none
  slack : Nat := 0
  yieldUntil : Nat := 0
  position : Nat := 0
  /-- One more than the cycle of the last issue; 0 before the first (R389). -/
  issuedAt : Nat := 0
  wait : Wait := .none
  waitSince : Nat := 0
  /-- The word of the instruction that waits. -/
  waitWord : Nat := 0
  op : Option LongOp := none
  /-- What has issued and not retired beside `op`: an MBCW in the loader unit of M (R157, R168), or a NEST form of V (R148). -/
  load : Option LongOp := none
  resumeStep : Nat := 0
  /-- The address of the word that faulted last (R207). -/
  resumeAt : Word := 0
  /-- The group at the PC is the rest of one that has issued: a RETIRE that waits for the operations of its own group (R250, R391). -/
  rest : Bool := false
  hoist : List Hoist := []
  /-- The words in the decoded queue that the model looks at (R201, R321), by their addresses: those of the head group while it waits, and
  in service mode those that were fetched before it. No invalidation reaches them. -/
  decoded : List (Word × Nat) := []
  deriving DecidableEq, Repr

/-- The view of a group (R45). -/
structure View where
  vbase : Nat := 0
  trows : Nat := 16
  etype : Nat := 1
  deriving DecidableEq, Repr

/-- A binding of a port (R225): the queue, its mode (1 pop, 2 push, 3 both), and the round of the queue it was made in. -/
structure Binding where
  queue : Nat
  mode : Nat
  round : Nat
  deriving DecidableEq, Repr

/-- A stash entry (R179): the physical line it was filled from, and whether it is DIRTY. An absent entry is UNTOUCHED. -/
structure StashEntry where
  phys : Nat
  dirty : Bool
  lru : Nat
  /-- What the translation that it holds since its fill allows (R316, R321): loads, and stores. -/
  r : Bool := true
  w : Bool := true
  /-- The logical times at which the entry was filled or renewed, and at which its lease ends (R182). -/
  filled : Nat := 0
  lease : Nat := 0
  deriving DecidableEq, Repr

/-- A weight half (R156): its bytes, the poison of its lines, whether it was loaded since the last save, and whether the image has
ever taken it (R211). -/
structure Half where
  bytes : Memory := []
  p : List Nat := []
  dirty : Bool := false
  saved : Bool := false
  deriving DecidableEq, Repr

/-- The states of a group (R240). -/
inductive GState where
  | pending | running | held | suspended
  deriving DecidableEq, Repr

/-- A service entry that waits for the S engine (R200). -/
structure Pending where
  key : Nat
  stream : Engine
  cause : Nat
  pc : Word
  step : Word
  record : Nat
  seq : Nat
  /-- The place of the record in the order in which records were written (R200). -/
  order : Nat
  /-- Discarded, because the core had no handler (R204). -/
  lost : Bool
  deriving DecidableEq, Repr

/-- The group CSRs as they stood before the S stream wrote one in a cycle (R71, R81, R208): the cycle, one more than its number, and
whether a counter was written in it. -/
structure OldCsr where
  at_ : Nat := 0
  xval : Nat := 0
  srkey : Word := 0
  srctrV : Word := 0
  srctrX : Word := 0
  thresh : Nat := 0
  wroteV : Bool := false
  wroteX : Bool := false
  deriving DecidableEq, Repr

/-- What has happened to a group in one cycle, given as one more than its number: tokens pushed and taken by FIFO (R261, R263), and rows
written, retagged or read (R64). -/
structure CycleLog where
  at_ : Nat := 0
  pushed : Map Nat := []
  taken : Map Nat := []
  rows : List Nat := []
  deriving DecidableEq, Repr

/-- A group of a context (R240). -/
structure Group where
  state : GState := .pending
  heldBy : Option Nat := none
  /-- One more than the cycle in which a fault last held the group (R198). -/
  heldAt : Nat := 0
  /-- Streams of a held group whose operation in progress has still to complete the step it is in (R198, R393). -/
  toStep : List Engine := []
  /-- What has happened to it in the present cycle. -/
  cyc : CycleLog := {}
  /-- Service entries of the group's records that no ERET has ended (R200, R204). -/
  entries : List Pending := []
  stopped : Bool := false
  core : Nat := 0xFF
  slot : Nat := 0
  pin : Nat := 256
  kernel : Nat := 0
  arg : Reg := {}
  stage : Option (Nat × Nat) := none
  marked : Bool := false
  markedAt : Nat := 0
  /-- When the group was first requested, and when its present request was queued (R257, R258). -/
  age : Nat := 0
  queued : Nat := 0
  /-- When the group was first placed, and when it was last placed (R256, R258). -/
  placed : Option Nat := none
  placedAt : Nat := 0
  /-- The last cycle in which the group did not wait on its empty input port, and the last such cycle before the epoch of that one;
  each one more than its number (R258). -/
  notIdle : Nat := 0
  notIdleBefore : Nat := 0
  /-- When a stream of the group last issued, and when it last became RUNNING (R258). -/
  lastIssue : Nat := 0
  runSince : Nat := 0
  saved : Bool := false
  /-- The control area of its image as it was last written or read (R211). -/
  control : Memory := []
  rowsN : Nat := 0
  recipesN : Nat := 0
  /-- Granules of the window that are lent to other groups (R62). -/
  lent : List Nat := []
  view : View := {}
  viewNext : View := {}
  rows : Map Row := []
  recipes : Map Recipe := []
  fflags : Nat := 0
  sflags : Nat := 0
  /-- The flags raised in a cycle, one more than its number: they end at 1 whatever a CSRW clears in it (R80, R89). -/
  raisedAt : Nat := 0
  raisedF : Nat := 0
  raisedS : Nat := 0
  old : OldCsr := {}
  xval : Nat := 0
  srkey : Word := 0
  srctrV : Word := 0
  srctrX : Word := 0
  thresh : Nat := 0xC0
  tokens : Map Nat := []
  tokenRes : Map Nat := []
  ports : Map Binding := []
  q248 : List Reg := []
  q249 : List RowData := []
  q252 : List Word := []
  q252lost : Bool := false
  windows : Map (Nat × Nat) := []
  stash : Map StashEntry := []
  wb0 : Half := {}
  wb1 : Half := {}
  /-- What MSTAT reports of the last MMV (R166). -/
  mmv : Nat := 0
  /-- The identifiers chosen by the last GATE of the V stream (R305). -/
  lastTop : List Nat := []
  stopAt : Option (List Nat) := none
  exempt : List Engine := []
  streamS : Stream := {}
  streamV : Stream := {}
  streamM : Stream := {}
  streamX : Stream := {}
  deriving DecidableEq, Repr

/-- A verified kernel: a copy of everything verification read (R233). -/
structure Kernel where
  base : Nat := 0
  streams : Nat := 0
  regs : Nat := 0
  rcpn : Nat := 0
  view : View := {}
  entries : List Nat := []
  queues : List (Nat × Nat) := []
  recipes : Map Recipe := []
  slacks : List (Nat × Nat × Nat) := []
  code : Nat := 0
  refs : Nat := 0
  retired : Bool := false
  lru : Nat := 0
  deriving DecidableEq, Repr

/-- One stage of a pipeline (R253, R255, R256). -/
structure Stage where
  kernel : Nat
  lo : Nat
  hi : Nat
  inq : Option (Nat × Nat) := none
  outq : List (Nat × Nat) := []
  inPort : Nat := 256
  idle : Nat := 0
  deriving DecidableEq, Repr

/-- A pipeline that is RUNNING or DRAINING (R254); an absent one is FREE. -/
structure Pipeline where
  draining : Bool := false
  /-- The index of the group that drained it, while that group is there. -/
  drainedBy : Option Nat := none
  arg : Reg := {}
  stages : List Stage := []
  deriving DecidableEq, Repr

/-- A fault record before it is laid out in memory (R196). -/
structure FaultRec where
  cause : Nat := 0
  stream : Nat := 0
  replay : Bool := false
  poison : Bool := false
  killed : Bool := false
  group : Nat := 0xFFFF
  lcore : Nat := 0xFF
  asid : Nat := 0
  pc : Word := 0
  addr : Word := 0
  step : Word := 0
  pline : Nat := 0
  pkind : Nat := 0
  seq : Nat := 0
  time : Nat := 0
  word : Nat := 0
  /-- The resume PC that entry puts into COR_SEPC (R200, R246). -/
  resume : Word := 0
  /-- Whether the record asks for a service entry (R197). -/
  entry : Bool := false
  deriving DecidableEq, Repr

/-- A fault that an instruction raises, with the fields of its record. -/
structure Trap where
  cause : Nat
  addr : Word := 0
  step : Nat := 0
  replay : Bool := false
  poison : Bool := false
  pline : Nat := 0
  pkind : Nat := 0
  /-- The failing word is not the instruction at hand (R246): PC, word and resume PC of the record. -/
  pc : Option Word := none
  word : Option Nat := none
  resume : Option Word := none
  /-- The other stream that faults with this one (R249). -/
  other : Option Engine := none
  /-- The counters of TLB misses and walks as the faulting access has left them (R320). -/
  seen : Option (List Nat) := none
  deriving DecidableEq, Repr

/-- The states of a context (R192). -/
inductive CtxState where
  | free | created | running | faulted | saving | saved | killed
  deriving DecidableEq, Repr

/-- A transfer key slot (R279). -/
structure XKey where
  words : Map Word := []
  valid : Bool := false
  deriving DecidableEq, Repr

/-- A breakpoint (R392). -/
structure Breakpoint where
  val : Word := 0
  en : Bool := false
  mode : Bool := false
  strm : Nat := 0
  gall : Bool := false
  group : Nat := 0
  count : Nat := 0
  seen : Nat := 0
  deriving DecidableEq, Repr

/-- A context slot: its block, its records, its tables and its debug block (R192, R297, R301, R233, R254, R392). -/
structure Ctx where
  key : Nat := 0
  asid : Nat := 0
  prio : Nat := 0
  maxgrp : Nat := 0
  clumask : Nat := 0
  maxq : Nat := 0
  fqBase : Nat := 0
  fqSize : Nat := 0
  head : Nat := 0
  tail : Nat := 0
  img : Nat := 0
  ptbr : Nat := 0
  killcause : Nat := 0
  cmdst : Nat := 0
  state : CtxState := .free
  /-- One more than the cycle in which the context last became FAULTED (R195). -/
  faultedAt : Nat := 0
  /-- The bases that failed their verification in a cycle, with the outcome, and one more than the cycle (R235). -/
  refused : List (Nat × Trap × Nat) := []
  /-- The command that is running: STOP or CHECKPOINT (R193). -/
  running : Option Nat := none
  seq : Nat := 0
  waiting : List FaultRec := []
  xkeys : Map XKey := []
  resPol : Nat := 0
  resBudget : Nat := 0
  resTq : Nat := 2 ^ 8
  pins : Map Nat := []
  kernels : Map Kernel := []
  kernelNext : Nat := 0
  pipes : Map Pipeline := []
  dbgStat : Nat := 0
  dbgGroup : Nat := 0
  dbgPos : Map Nat := []
  breaks : Map Breakpoint := []
  saves : Nat := 0
  deriving DecidableEq, Repr

/-- The states of a pool queue (R215). -/
inductive QState where
  | free | opened | closed | broken
  deriving DecidableEq, Repr

/-- A queue entry: a word, or a row with its bits (R213). -/
structure Entry where
  v : RowBits := 0
  p : Bool := false
  deriving DecidableEq, Repr

/-- A pool queue (R215, R217); `round` counts its openings, so that a binding of an earlier round is stale. -/
structure Queue where
  kind : Nat := 0
  logd : Nat := 0
  wide : Bool := false
  own : Nat := 0
  pctx : Nat := 0
  cctx : Nat := 0
  base : Nat := 0
  cmdst : Nat := 0
  drop : Nat := 0
  state : QState := .free
  entries : List Entry := []
  reserved : Nat := 0
  round : Nat := 0
  deriving DecidableEq, Repr

/-- The states of a barrier (R265). -/
inductive BState where
  | idle | armed | counting | released
  deriving DecidableEq, Repr

/-- A barrier (R264). -/
structure Barrier where
  state : BState := .idle
  own : Nat := 0
  tgt : Nat := 0
  rem : Nat := 0
  phase : Nat := 0
  deriving DecidableEq, Repr

/-- A cached table entry (R320): ASID, the level of the table it names, the span's first address, the table. -/
structure WalkEntry where
  asid : Nat
  lvl : Nat
  va : Nat
  table : Nat
  deriving DecidableEq, Repr

/-- A line held in an L1 data cache (R178, R182): when it was filled or renewed, and where its lease ends. `kept` marks the copy of a line
whose channel has been mapped out since (R20). -/
structure L1Line where
  line : Nat
  filled : Nat
  lease : Nat
  kept : Bool := false
  deriving DecidableEq, Repr

/-- A logical core or control core: its service state, its TLB and its weight buffer (R156, R200, R203, R257, R320). -/
structure Core where
  slots : Map Nat := []
  sepc : Word := 0
  nest : Nat := 0
  gslot : Nat := 0
  held : Bool := false
  strm : Nat := 0
  cause : Nat := 0
  srec : Word := 0
  svec : Word := 0
  svcwm : Nat := 0
  sscr : Word := 0
  sstep : Word := 0
  svflags : Nat := 0
  service : Bool := false
  serving : Option Nat := none
  sepcWritten : Bool := false
  /-- The registers as they stood at the service entry, for an entry that is made again (R366): vector, watermark, scratch,
  flags. -/
  atEntry : Word × Nat × Word × Nat := (0, 0, 0, 0)
  /-- COR_SEPC and COR_SSTEP as they stood at the service entry (R366). -/
  entrySepc : Word := 0
  entrySstep : Word := 0
  /-- Service code has saved the context of the group that it serves (R209). -/
  ctxsOwn : Bool := false
  /-- One more than the cycle in which a CSRW last wrote COR_SVEC, and COR_SVCWM (R204). -/
  svecAt : Nat := 0
  svcwmAt : Nat := 0
  /-- One more than the cycle of the last issue of each engine, by its number (R238). -/
  engAt : Map Nat := []
  /-- Of each stream, by slot and engine: the credits that are left to it in the round of its engine, where it has spent one (R238). -/
  credits : Map Nat := []
  /-- Of each stream, by slot and engine: one more than the first of the cycles up to the last in which it was ready and did not issue (R238). -/
  readySince : Map Nat := []
  /-- The lines of the L1 data cache, the one used last first (R178, R182). -/
  l1 : List L1Line := []
  /-- A control core that has met a freeze trigger and tests itself (R372). -/
  frozen : Bool := false
  svc : Stream := {}
  pending : List Pending := []
  tlb : List Leaf := []
  /-- A nested fault has stopped the service stream; the site freezes in the next cycle (R202, R365). -/
  halted : Bool := false
  /-- The group whose halves are in the array's buffer (R156). -/
  weights : Option Nat := none
  deriving DecidableEq, Repr

/-- One that has joined a session: its group and its half (R168). -/
structure Joiner where
  key : Nat
  half : Nat
  deriving DecidableEq, Repr

/-- A session of an MBCW channel (R168): context, address, length and participants. A count of 0 keeps the channel for the
group of its joiner, which has not opened its session yet. -/
structure Session where
  ctx : Nat
  ea : Nat
  len : Nat
  count : Nat
  joined : List Joiner
  deriving DecidableEq, Repr

/-- The power states of a cluster (R373). -/
inductive PState where
  | active | quiescing | quiesced | saving | saved | retained | gated | waking
  deriving DecidableEq, Repr

/-- A cluster (R182, R363, R373). -/
structure Cluster where
  lease : Nat := 0x100
  errthr : Nat := 64
  barriers : Map Barrier := []
  tlb2 : List Leaf := []
  walks : List WalkEntry := []
  sessions : Map Session := []
  power : PState := .active
  pwrCmdst : Nat := 0
  /-- A power command, or a wake as code 16, that waits for migrations of the cluster (R371). -/
  pwrNext : Option Nat := none
  wcause : Nat := 0
  rbase : Nat := 0
  ctime : Nat := 0
  since : Nat := 0
  abortWhenSaved : Bool := false
  deriving DecidableEq, Repr

/-- The states of a site, by their codes (R364). -/
inductive SState where
  | healthy | spare | mappedOut | suspect | frozen | migrating | retained | gated
  deriving DecidableEq, Repr

/-- A physical site (R363). -/
structure Site where
  state : SState := .healthy
  prev : SState := .healthy
  corr : Nat := 0
  cmdst : Nat := 0
  lcore : Nat := 0xFF
  /-- The spare that takes the state of a MIGRATING site; 255 when there is none. -/
  dest : Nat := 255
  deriving DecidableEq, Repr

/-- What one cycle, given as one more than its number, has added to each counter of a block, the counters that have been written in
it, and those that have carried in it (R387). -/
structure CountLog where
  at_ : Nat := 0
  added : Map Nat := []
  written : List Nat := []
  carried : List Nat := []
  /-- The overflow register before the cycle. -/
  ovf : Word := 0
  deriving DecidableEq, Repr

/-- A counter block (R386, R388). -/
structure Counters where
  vals : Map Nat := []
  ovf : Word := 0
  log : CountLog := {}
  /-- Counter 0 has been written in the cycle up to which it has been brought: that cycle does not count (R387). -/
  skip : Bool := false
  deriving DecidableEq, Repr

/-- The states of a copy's tag entry (R299). -/
inductive CopyState where
  | fetching | resident | evicting | faulted
  deriving DecidableEq, Repr

/-- A tag entry of the residency unit: one copy of an expert (R295, R299). A copy whose state is `resident` is ABSENT when it is
in no tier above Plain and its home is Plain, RESIDENT-LAKE, RESIDENT-POND, or PINNED with pins in Pond. -/
structure Copy where
  id : Nat := 0
  copy : Nat := 0
  state : CopyState := .resident
  /-- The tier a fetch moves the copy to: 0 Lake, 1 Pond. -/
  target : Nat := 0
  pins : Nat := 0
  cls : Nat := 0
  last : Nat := 0
  /-- Frames held: Pond frames by number, Lake pool frames by 4 KiB page. -/
  pond : List Nat := []
  lake : List Nat := []
  /-- Whether its data is in Pond, and in the Lake pool. -/
  inPond : Bool := false
  inLake : Bool := false
  /-- From the record (R294): home, size, checksum, format byte, extra value, copies, substitute and its factor. -/
  home : Nat := 0
  size : Nat := 0
  crc : Nat := 0
  fmt : Nat := 0
  xv : Nat := 0
  ncopy : Nat := 1
  sv : Bool := false
  subx : Nat := 0
  sfac : Nat := 0
  /-- Groups whose handle-form MMV has issued and not retired (R303). -/
  holders : List Nat := []
  /-- Token queues by number, with their contexts (R302). -/
  queues : Map Nat := []
  /-- The class of the fetch that runs or waits for frames: 2 or 3 for a prefetch or a demand of EDISP; see R300. -/
  fcls : Nat := 0
  /-- An eviction: its drain has begun; it goes on to the home state, which a FAULTED copy stays FAULTED until (R299). -/
  drain : Bool := false
  toHome : Bool := false
  /-- A demand for a tier that waits for the end of a drain (R299). -/
  again : Option Nat := none
  /-- A refetch that runs: 0 from Lake, 1 from Plain (R299, R285). -/
  refetch : Option Nat := none
  /-- One more than the cycle in which a fetch began to wait for frames; 0 when it does not. -/
  wait : Nat := 0
  /-- When the fetch began, for the estimate of R304. -/
  since : Nat := 0
  deriving DecidableEq, Repr

/-- A model slot (R293). -/
structure Model where
  etbase : Nat := 0
  laym1 : Nat := 0
  expm1 : Nat := 0
  busy : Bool := false
  valid : Bool := false
  ctxmask : Word := 0
  deriving DecidableEq, Repr

/-- A predictor entry (R305): the tag and up to four successors with their confidence. -/
structure Pred where
  tag : Nat
  succ : List (Nat × Nat)
  deriving DecidableEq, Repr

/-- The residency unit (R292 to R312). -/
structure Residency where
  rate : Nat := 4
  lakeRate : Nat := 0x400
  plainRate : Nat := 0x80
  lpool : Nat := 0
  lpoolN : Nat := 0
  models : Map Model := []
  copies : Map Copy := []
  preds : Map Pred := []
  deriving DecidableEq, Repr

/-- A shadow entry of a sequence context (R356). -/
structure Shadow where
  token : Nat
  mask : Nat
  depth : Nat
  deriving DecidableEq, Repr

/-- A sequence context of a sampler unit (R346). -/
structure Seq where
  valid : Bool := false
  own : Nat := 0
  resq : Nat := 0
  seqid : Nat := 0
  seed : Word := 0
  pos : Word := 0
  topp : Nat := 0x3F800000
  temp : Nat := 0x3F800000
  minp : Nat := 0
  topk : Nat := 0
  freq : Nat := 0
  pres : Nat := 0
  rep : Nat := 0x3F800000
  fallback : Nat := 0
  pbase : Nat := 0
  last : Nat := 0
  shadow : List Shadow := []
  deriving DecidableEq, Repr

/-- A step of a sampler unit while it runs, or while its result words wait (R347, R349). -/
structure StepRun where
  seq : Nat := 0
  /-- The sequence context as it was staged when the step began. -/
  params : Seq := {}
  /-- The status, once the step has ended. -/
  ended : Option Nat := none
  /-- The sequence context has taken the step's changes; `out` holds the words still to be pushed. -/
  committed : Bool := false
  pc : Int := 0
  count : Nat := 0
  g : Map Reg := []
  flag : Bool := false
  list : List (Nat × Nat) := []
  prob : Bool := false
  listP : Bool := false
  posn : Word := 0
  draw : Nat := 0
  emits : List Nat := []
  counts : List Nat := []
  shadow : List Shadow := []
  out : List Word := []
  killed : Bool := false
  /-- Where the poison of a register comes from: 2 a line, 3 the request entry (R359); the first poisoned line that was read. -/
  kinds : Map Nat := []
  pline : Option Nat := none
  deriving DecidableEq, Repr

/-- A sampler unit (R344). -/
structure Sampler where
  en : Bool := false
  rq : Nat := 0
  drop : Nat := 0
  steps : Nat := 0
  last : Nat := 0
  prog : Map Nat := []
  progLate : Map Nat := []
  seqs : Map Seq := []
  /-- Writes to registers of a sequence that wait for its step to end (R346): sequence, register offset, value. -/
  late : List (Nat × Nat × Word) := []
  run : Option StepRun := none
  deriving DecidableEq, Repr

/-- The states of a link port (R382). -/
inductive LState where
  | down | training | up | degraded | recovering | fenced
  deriving DecidableEq, Repr

/-- A host decoder (R378, R382). -/
structure Decoder where
  base : Nat := 0
  size : Nat := 0
  en : Bool := false
  hbase : Nat := 0
  deriving DecidableEq, Repr

/-- A link port (R382). -/
structure Link where
  state : LState := .down
  losses : Nat := 0
  fcause : Nat := 0
  ide : Bool := false
  flit : Nat := 0
  rate : Nat := 0
  width : Nat := 0
  allow68 : Bool := true
  win : Nat := 0
  decoders : Map Decoder := []
  keys : List Word := []
  /-- Lines of the host whose data is held here (R378). -/
  lines : List Nat := []
  /-- Those of them that are dirty. -/
  dirty : List Nat := []
  /-- Lake lines that the host holds modified or exclusive, and shared (R378). -/
  lent : List Nat := []
  shared : List Nat := []
  /-- When the host last made use of each of those Lake lines: the order of the snoop filter (R378). -/
  lastUse : Map Nat := []
  /-- Lines asked for and not yet answered (R385), with the line that the far side is asked for (R379, R381). -/
  asked : Map Nat := []
  everUp : Bool := false
  deriving DecidableEq, Repr

/-- A control-core placement register block (R342). -/
structure Place where
  kbase : Word := 0
  arg : Word := 0
  busy : Bool := false
  st : Nat := 0
  ctx : Nat := 0
  deriving DecidableEq, Repr

/-- A mailbox (R343): its entries and the context recorded in it. -/
structure Mailbox where
  ctx : Option Nat := none
  entries : List Reg := []
  deriving DecidableEq, Repr

/-- Which stream or unit the next `exec` acts for: the model's own field (log 13). -/
structure Cur where
  core : Nat := 0
  eng : Engine := .S
  svc : Bool := false
  key : Nat := 0
  unit : Nat := 0
  /-- The address and the word of the instruction, and of its group's first word. -/
  pc : Word := 0
  group : Word := 0
  word : Nat := 0
  /-- The address after the issue group (R247). -/
  next : Word := 0
  /-- The address after the second issue group that follows, and whether the groups up to there could be read (R244). -/
  link : Word := 0
  linkRead : Bool := true
  /-- Which part of that agent acts: the stream or service stream itself, a step of the stream's operation or of its MBCW, or a sampler
  unit. -/
  step : Bool := false
  load : Bool := false
  sampler : Bool := false
  /-- The translations that the instruction has taken so far (R321). -/
  took : List Held := []
  /-- Rows that earlier words of the same issue group wrote (R59). -/
  wrote : List Nat := []
  /-- Entries that words of the same issue group took, by queue (R220). -/
  popped : List (Nat × Nat) := []
  deriving DecidableEq, Repr

/-- What the last instruction did: the model's own field (log 13). -/
inductive Verdict where
  | done
  | waiting (w : Wait)
  | trapped (t : Trap)
  deriving DecidableEq, Repr

/-- Lifetime counts that the management core keeps for the panel (R396). -/
structure Lifetime where
  corr : Nat := 0
  uncorr : Nat := 0
  poison : Nat := 0
  block : Nat := 0
  deriving DecidableEq, Repr

/-- What streams have shared in one cycle, given as one more than its number: the units that have served a stream, by unit and stream, and
how many entries each queue has taken in (R220, R266, R299, R340), and the stash banks used. -/
structure CycleUse where
  at_ : Nat := 0
  served : List (Nat × Nat) := []
  pushed : Map Nat := []
  /-- Stash banks that have served an access, by core and bank (R180). -/
  banks : List Nat := []
  deriving DecidableEq, Repr

/-- The device: everything that streams, host accesses and events act on. -/
structure Dev where
  time : Nat := 0
  mem : Memory := []
  poisoned : List Nat := []
  sptbr : Nat := 0
  tlba : Word := 0
  tlbl : Word := 0
  /-- The command of MOD_TLBC still drains (R325). -/
  tlbBusy : Bool := false
  tlbStatus : Nat := 0
  tlbKind : Nat := 0
  tlbAsid : Nat := 0
  fccg : Place := {}
  tccg : Place := {}
  barriers : Map Barrier := []
  q250 : Mailbox := {}
  q251 : Mailbox := {}
  queues : Map Queue := []
  ctxs : Map Ctx := []
  groups : Map Group := []
  cores : Map Core := []
  clusters : Map Cluster := []
  sites : Map Site := []
  lcores : Map Nat := []
  lakeMask : Word := 0
  nvmeMask : Nat := 0
  counters : Map Counters := []
  mcounters : Counters := {}
  /-- The time up to which counter 0 of every site has been brought (R388). -/
  clockMark : Nat := 0
  lifetime : Lifetime := {}
  res : Residency := {}
  samplers : Map Sampler := []
  links : Map Link := []
  /-- Epochs that the stage scheduler has evaluated, by the number after the last one (R256). -/
  epochDone : Nat := 0
  /-- Records written so far: their order (R200). -/
  records : Nat := 0
  /-- Uses of table entries so far: the order that least recently used goes by (R180, R233, R320). -/
  uses : Nat := 0
  /-- The logical clocks of the streams (R182). -/
  clocks : Map Nat := []
  /-- The logical time of the last write of each line, and of the latest end of a lease granted on it (R182). -/
  leases : Map (Nat × Nat) := []
  /-- The accesses that wait to be performed (R368, R384, R385). -/
  waits : List AccWait := []
  /-- The stream that each shared unit has served last, by the numbers of both (R220, R266, R299, R340). -/
  winners : Map Nat := []
  /-- What streams have shared in the present cycle. -/
  use : CycleUse := {}
  /-- CINV op 2 of the present cycle: context, first address and the address after the last; the kernels retire when the cycle ends
  (R235). -/
  retiring : List (Nat × Nat × Nat) := []
  cur : Cur := {}
  verdict : Verdict := .done
  fresh : Nat := 0
  deriving DecidableEq, Repr

/-- The life of the module (R10). -/
inductive Life where
  | off | romBoot | config | attest | ready | degraded | sealedOff
  deriving DecidableEq, Repr

/-- A configuration record (R13). -/
structure Record where
  magic : Nat := 0
  version : Nat := 0
  seq : Nat := 0
  minimum : Nat := 0
  sites : List Nat := []
  map : List Nat := []
  lakeMask : Nat := 0
  nvmeMask : Nat := 0
  trimHash : Nat := 0
  pubKey : Nat := 0
  sig : Nat := 0
  deriving DecidableEq, Repr

/-- The response of the last ROM command (R19). -/
structure Response where
  status : Nat
  bytes : List Byte
  deriving DecidableEq, Repr

/-- What the panel holds beside the registers it reflects (R396). -/
structure Panel where
  temps : List Int := []
  rails : List Nat := []
  now : Nat := 0
  peak : Nat := 0
  wear : Nat := 0
  seconds : Nat := 0
  /-- The registers as the last sample took them: offset in 8-byte registers, value. -/
  regs : Map Word := []
  deriving DecidableEq, Repr

/-- The module: its life, its records and what the mask ROM holds (R10 to R20). -/
structure Mod where
  life : Life := .romBoot
  sealCause : Nat := 0
  copyB : Bool := false
  copyA : Record := {}
  copyBRec : Record := {}
  active : Record := {}
  inForce : Bool := false
  slot0 : Nat := 0
  slot1 : Nat := 0
  slot2 : Nat := 0
  slot3 : Nat := 0
  image : List Byte := []
  runImage : List Byte := []
  response : Option Response := none
  test : Option SelfTest := none
  panel : Panel := {}
  /-- Plain: flash bytes (R294). -/
  flash : Memory := []
  deriving DecidableEq, Repr

/-- One move of the schedule: cycles that pass before it, and which agent moves (log 1). -/
inductive Doing where
  | event (i : Instr)
  | issue (core slot : Nat) (e : Engine)
  | service (core : Nat)
  | sampler (j : Nat)
  deriving DecidableEq, Repr

/-- A move of the schedule. -/
structure Move where
  dt : Nat
  what : Doing
  deriving DecidableEq, Repr

/-- The whole machine. -/
structure State where
  mod : Mod
  dev : Dev
  agenda : List Move
  deriving DecidableEq, Repr

/-- Why the whole machine could stop. Every fault of the spec is taken by the device itself and is a next state. -/
inductive Fault where
  /-- Raised by no meaning: reserved for a state outside the spec. Safe: a stop proves nothing about the hardware. -/
  | impossible
  deriving DecidableEq, Repr

/-- Why a step has no meaning. -/
inductive Refusal where
  /-- Raised by an arm of `exec` whose instruction has no meaning yet. Safe: nothing is claimed of it. -/
  | notModelled (mnemonic : String)
  deriving DecidableEq, Repr

/-- The factory state of site `n` (R362): site 8 of each cluster is SPARE. -/
def factorySites : List Nat := (List.range 144).map (fun n => if n % 9 = 8 then 1 else 0)

/-- The factory map of logical cores to sites (R362). -/
def factoryMap : List Nat := (List.range 128).map (fun n => 9 * (n / 8) + n % 8)

/-- The record that a module leaves the factory with in copy A (R13, R362): it carries the hash of its trim block and its own
public key; the sequence number 1 and the minimum 0 are the model's (log 10). -/
def factoryRecord : Record :=
  { magic := 0x4B434647, version := 1, seq := 1, minimum := 0, sites := factorySites, map := factoryMap, lakeMask := 0,
    nvmeMask := 0, trimHash := Config.trimHash, pubKey := Config.derivedKey, sig := Config.factorySignature }

/-- The device right after reset: every register at the reset value of its table, nothing placed, nothing listed. -/
def Dev.reset : Dev := {}

/-- The module right after reset (R10 to R12): ROM-BOOT, with the ROM measured into slot 0. -/
def Mod.reset : Mod := { copyA := factoryRecord, slot0 := Config.romMeasurement }

/-- The machine right after reset. -/
def State.reset : State := { mod := Mod.reset, dev := Dev.reset, agenda := [] }

end Sys2Proof.Machine
end

