-- ==== Sys2Proof/Machine/Data.lean ====
section
/-!
DEFINITION. Operations on the plain data of the state: tables by number, sets of numbers, bytes of memory and bit fields.
-/

/-- A member put before the first one that it must not follow. -/
def List.insertWith {α : Type} (le : α → α → Bool) (x : α) : List α → List α
  | [] => [x]
  | y :: ys => if le x y then x :: y :: ys else y :: List.insertWith le x ys

/-- A list in order; members that are equal in the order keep theirs. -/
def List.sortWith {α : Type} (xs : List α) (le : α → α → Bool) : List α := xs.foldr (List.insertWith le) []

namespace Sys2Proof.Machine

/-- What a table holds at a key; `d` where nothing is listed. -/
def Map.get {α : Type} (d : α) : Map α → Nat → α
  | [], _ => d
  | (k, v) :: m, n => if n = k then v else Map.get d m n

/-- Whether a key is listed, and what it holds. -/
def Map.find {α : Type} : Map α → Nat → Option α
  | [], _ => none
  | (k, v) :: m, n => if n = k then some v else Map.find m n

/-- A table with a key removed. -/
def Map.del {α : Type} (m : Map α) (n : Nat) : Map α := m.filter (fun e => e.1 != n)

/-- A pair put in its place by key. -/
def Map.ins {α : Type} (n : Nat) (v : α) : Map α → Map α
  | [] => [(n, v)]
  | (k, w) :: m => if n < k then (n, v) :: (k, w) :: m else (k, w) :: Map.ins n v m

/-- A table with a key set. -/
def Map.set {α : Type} (m : Map α) (n : Nat) (v : α) : Map α := Map.ins n v (Map.del m n)

/-- A table with the entry at a key changed; `d` where nothing is listed. -/
def Map.upd {α : Type} (d : α) (m : Map α) (n : Nat) (f : α → α) : Map α := Map.set m n (f (Map.get d m n))

/-- A table with every value changed. -/
def Map.mapV {α : Type} (f : α → α) (m : Map α) : Map α := m.map (fun e => (e.1, f e.2))

/-- The keys of a table. -/
def Map.keys {α : Type} (m : Map α) : List Nat := m.map (·.1)

/-- The lowest number below the bound that no key holds. -/
def Map.fresh {α : Type} (m : Map α) (bound : Nat) : Option Nat := (List.range bound).find? (fun n => (Map.find m n).isNone)

/-- Keys strictly rising. -/
abbrev Map.sorted {α : Type} (m : Map α) : Prop := List.Pairwise (fun a b => a.1 < b.1) m

/-- A set of numbers, strictly rising, with a member put in. -/
def insertNat (n : Nat) : List Nat → List Nat
  | [] => [n]
  | k :: m => if n < k then n :: k :: m else if n = k then k :: m else k :: insertNat n m

/-- A set of numbers with a member taken out. -/
def eraseNat (n : Nat) (m : List Nat) : List Nat := m.filter (· != n)

/-- The byte at an address: 0 where memory lists none (log 3). -/
def Memory.byte (m : Memory) (a : Nat) : Byte := Map.get 0 m a

/-- Memory with one byte written. -/
def Memory.put (m : Memory) (a : Nat) (b : Byte) : Memory := if b = 0 then Map.del m a else Map.set m a b

/-- The canonical form: addresses strictly rising, no listed byte equal to the 0 that an unlisted address reads as. -/
abbrev Memory.wf (m : Memory) : Prop := Map.sorted m ∧ ∀ c ∈ m, c.2 ≠ 0

/-- `n` bytes from an address, little-endian (R6). -/
def Memory.read (m : Memory) (a : Nat) : Nat → Nat
  | 0 => 0
  | n + 1 => (m.byte a).toNat + 256 * Memory.read m (a + 1) n

/-- `n` bytes from an address as a list. -/
def Memory.bytes (m : Memory) (a n : Nat) : List Byte := (List.range n).map (fun i => m.byte (a + i))

/-- Memory with the low `n` bytes of a value written at an address, little-endian (R6). -/
def Memory.write (m : Memory) (a : Nat) : Nat → Nat → Memory
  | 0, _ => m
  | n + 1, v => Memory.write (m.put a (BitVec.ofNat 8 v)) (a + 1) n (v / 256)

/-- Memory with a list of bytes written at an address. -/
def Memory.writeBytes (m : Memory) (a : Nat) : List Byte → Memory
  | [] => m
  | b :: bs => Memory.writeBytes (m.put a b) (a + 1) bs

/-- The listed bytes of a range, by their offset in it. -/
def Memory.slice (m : Memory) (a n : Nat) : Memory := (m.filter (fun c => a ≤ c.1 && c.1 < a + n)).map (fun c => (c.1 - a, c.2))

/-- Memory with a range replaced by the listed bytes of another one, by their offset in it. -/
def Memory.paste (m : Memory) (a n : Nat) (x : Memory) : Memory :=
  (x.filter (fun c => c.1 < n)).foldl (fun m c => m.put (a + c.1) c.2) (m.filter (fun c => c.1 < a || a + n ≤ c.1))

/-- The 64-byte line of an address (R177). -/
def lineOf (a : Nat) : Nat := a / 64

/-- The field `[lo+n-1:lo]` of a word replaced. -/
def setFld (w lo n v : Nat) : Nat := w - Word.fld w lo n * 2 ^ lo + v % 2 ^ n * 2 ^ lo

/-- A natural number as bytes, lowest first. -/
def toBytes : Nat → Nat → List Byte
  | 0, _ => []
  | n + 1, v => BitVec.ofNat 8 v :: toBytes n (v / 256)

/-- Bytes as a natural number, lowest first. -/
def ofBytes : List Byte → Nat
  | [] => 0
  | b :: bs => b.toNat + 256 * ofBytes bs

/-- A sum over a list. -/
def sumOf {α : Type} (f : α → Nat) : List α → Nat
  | [] => 0
  | x :: xs => f x + sumOf f xs

/-- Whether a 54-bit address is canonical: bits [63:54] all equal to bit 53 (R101 check 1). -/
def canonical (a : Nat) : Bool := Word.fld a 53 11 == 0 || Word.fld a 53 11 == 0x7FF

end Sys2Proof.Machine
end

