-- ==== Sys2Proof/Machine/Ops.lean ====
section
/-!
DEFINITION. The named operations over the state: the stream that `cur` names and its registers, poison, tokens, counters,
fault records, taking a fault, killing a context, entering and leaving service mode, and the issue of one instruction.
-/

namespace Sys2Proof.Machine
open Word

/-- Why an instruction gives no result now: it waits, or it raises a fault. -/
inductive Stop where
  | wait (w : Wait)
  | trap (t : Trap)
  deriving DecidableEq, Repr

/-- The result of a meaning: a new device, or a stop that leaves the device as it was. -/
abbrev Res (α : Type) := Except Stop α

/-- A fault with a cause and an address field. -/
def trap {α : Type} (cause addr : Nat) : Res α := .error (.trap { cause := cause, addr := BitVec.ofNat 64 addr })

/-- A fault when a condition holds. -/
def trapIf (b : Bool) (cause addr : Nat) : Res Unit := if b then trap cause addr else .ok ()

/-- A poison commit by a register (R87, R174, R196): cause 0x10 with PKIND 1. -/
def commitReg {α : Type} (addr : Nat) : Res α :=
  .error (.trap { cause := 0x10, addr := BitVec.ofNat 64 addr, poison := true, pkind := 1 })

/-- A poison commit by a memory line (R174, R196): PKIND 2. -/
def commitLine {α : Type} (addr line : Nat) : Res α :=
  .error (.trap { cause := 0x10, addr := BitVec.ofNat 64 addr, poison := true, pkind := 2, pline := line })

/-- A poison commit by a queue entry (R222, R196): PKIND 3. -/
def commitEntry {α : Type} (addr : Nat) : Res α :=
  .error (.trap { cause := 0x10, addr := BitVec.ofNat 64 addr, poison := true, pkind := 3 })

/-- A wait that takes nothing (R26, R223). -/
def waitFor {α : Type} (w : Wait) : Res α := .error (.wait w)

/-- Whether an instruction is a NEST form. -/
def isNestForm : Instr → Bool
  | .nest .. => true
  | _ => false

/-! ### Groups, contexts, cores -/

/-- The number of a group: its context and its index in it. -/
def keyOf (ctx idx : Nat) : Nat := ctx * 65536 + idx

/-- The context of a group number. -/
def ctxOf (key : Nat) : Nat := key / 65536

/-- The index of a group number in its context. -/
def idxOf (key : Nat) : Nat := key % 65536

/-- The stream of an engine. -/
def Group.stream (g : Group) : Engine → Stream
  | .S => g.streamS
  | .V => g.streamV
  | .M => g.streamM
  | .X => g.streamX

/-- A group with the stream of an engine replaced. -/
def Group.setStream (g : Group) (e : Engine) (x : Stream) : Group :=
  match e with
  | .S => { g with streamS := x }
  | .V => { g with streamV := x }
  | .M => { g with streamM := x }
  | .X => { g with streamX := x }

/-- The four engines in order. -/
def engines : List Engine := [.S, .V, .M, .X]

/-- The bytes of a value of a type code (R31, R44); 8 for code 0, the 8 bytes of a scalar access (R100). -/
def typeBytes (t : Nat) : Nat :=
  match t with
  | 1 | 7 | 0xA => 4
  | 2 | 3 | 6 | 9 => 2
  | 5 | 8 => 1
  | _ => 8

namespace Dev

/-- The context slot with a number. -/
def ctx (d : Dev) (n : Nat) : Ctx := Map.get {} d.ctxs n

def setCtx (d : Dev) (n : Nat) (c : Ctx) : Dev := { d with ctxs := Map.set d.ctxs n c }

/-- The group with a number. -/
def group (d : Dev) (key : Nat) : Group := Map.get {} d.groups key

def setGroup (d : Dev) (key : Nat) (g : Group) : Dev := { d with groups := Map.set d.groups key g }

/-- The logical or control core with a number. -/
def core (d : Dev) (n : Nat) : Core := Map.get {} d.cores n

def setCore (d : Dev) (n : Nat) (c : Core) : Dev := { d with cores := Map.set d.cores n c }

def cluster (d : Dev) (n : Nat) : Cluster := Map.get {} d.clusters n

def setCluster (d : Dev) (n : Nat) (c : Cluster) : Dev := { d with clusters := Map.set d.clusters n c }

def queue (d : Dev) (n : Nat) : Queue := Map.get {} d.queues n

def setQueue (d : Dev) (n : Nat) (q : Queue) : Dev := { d with queues := Map.set d.queues n q }

def link (d : Dev) (p : Nat) : Link := Map.get {} d.links p

def setLink (d : Dev) (p : Nat) (l : Link) : Dev := { d with links := Map.set d.links p l }

/-- The group that `cur` names. -/
def grp (d : Dev) : Group := d.group d.cur.key

def setGrp (d : Dev) (g : Group) : Dev := d.setGroup d.cur.key g

/-- The context of the group that `cur` names. -/
def myCtx (d : Dev) : Nat := ctxOf d.cur.key

/-- The stream that `cur` names: a stream of the group, or the service stream of the core. -/
def stm (d : Dev) : Stream := if d.cur.svc then (d.core d.cur.core).svc else d.grp.stream d.cur.eng

def setStm (d : Dev) (x : Stream) : Dev :=
  if d.cur.svc then d.setCore d.cur.core { d.core d.cur.core with svc := x } else d.setGrp (d.grp.setStream d.cur.eng x)

/-- Whether register 0 of the stream is s0, which reads zero and discards writes (R29). -/
def zeroReg (d : Dev) : Bool := d.cur.eng == .S

/-- Register `n` of the stream: s0 to s63, or a0 to a15 (R29, R47). -/
def reg (d : Dev) (n : Nat) : Reg := if d.zeroReg && n == 0 then {} else Map.get {} d.stm.r n

/-- A register written; a write to s0 is discarded, and a hoist-guard entry of the register goes (R29, R104). -/
def setReg (d : Dev) (n : Nat) (r : Reg) : Dev :=
  if d.zeroReg && n == 0 then d
  else d.setStm { d.stm with r := Map.set d.stm.r n r, hoist := d.stm.hoist.filter (·.reg != n) }

/-- Condition register `n` of the stream. -/
def creg (d : Dev) (n : Nat) : CReg := Map.get {} d.stm.c n

def setCreg (d : Dev) (n : Nat) (c : CReg) : Dev := d.setStm { d.stm with c := Map.set d.stm.c n c }

/-- Branch register `n` of the stream. -/
def breg (d : Dev) (n : Nat) : Word := Map.get 0 d.stm.b n

def setBreg (d : Dev) (n : Nat) (v : Word) : Dev := d.setStm { d.stm with b := Map.set d.stm.b n v }

/-- Lane-mask register `n` of the stream. -/
def kreg (d : Dev) (n : Nat) : KReg := Map.get {} d.stm.k n

def setKreg (d : Dev) (n : Nat) (k : KReg) : Dev := d.setStm { d.stm with k := Map.set d.stm.k n k }

/-! ### Sites and counters -/

/-- What a site is before the record says otherwise (R362). -/
def siteDefault (s : Nat) : Site :=
  if s % 9 = 8 then { state := .spare } else { state := .healthy, lcore := 8 * (s / 9) + s % 9 }

/-- The cluster of a core; 16 for the pair of control cores. -/
def clusterOf (core : Nat) : Nat := if core < 128 then core / 8 else 16

/-- The site that carries a logical core; 255 where none does (R362). A core the map does not list is carried by its
factory site. -/
def siteOf (d : Dev) (core : Nat) : Nat := Map.get (if core < 128 then 9 * (core / 8) + core % 8 else 255) d.lcores core

/-- The sites of a cluster. -/
def sitesOf (c : Nat) : List Nat := (List.range 9).map (fun i => 9 * c + i)

/-- A physical site. -/
def site (d : Dev) (s : Nat) : Site := Map.get (siteDefault s) d.sites s

/-- Whether a logical core is ABSENT (R369). -/
def isAbsent (d : Dev) (core : Nat) : Bool := d.siteOf core = 255

/-- Whether the site of a logical core runs (R364, R366); a control core runs while it does not test itself (R372). -/
def siteRuns (d : Dev) (core : Nat) : Bool :=
  if 128 ≤ core then !(d.core core).frozen
  else !d.isAbsent core && ((d.site (d.siteOf core)).state == .healthy || (d.site (d.siteOf core)).state == .suspect)

/-- What a cycle has added to the counters of a block and written to them so far (R387). -/
def countLog (c : Counters) (now : Nat) : CountLog := if c.log.at_ = now + 1 then c.log else { at_ := now + 1, ovf := c.ovf }

/-- A 48-bit counter increased in a cycle, with its overflow bit (R386, R387); not where the counter has been written in that
cycle. -/
def bump (now : Nat) (c : Counters) (i n : Nat) : Counters :=
  let l := countLog c now
  if l.written.contains i then c
  else
    let v := Map.get 0 c.vals i + n
    { c with
      vals := Map.set c.vals i (v % 2 ^ 48), ovf := if v < 2 ^ 48 then c.ovf else c.ovf ||| BitVec.ofNat 64 (2 ^ i)
      log := { l with added := Map.upd 0 l.added i (· + n), carried := if v < 2 ^ 48 then l.carried else insertNat i l.carried } }

/-- Counter `i` of the site that carries a core increased (R388). -/
def countOn (d : Dev) (core i n : Nat) : Dev :=
  let s := d.siteOf core
  if n = 0 || s = 255 then d else { d with counters := Map.upd {} d.counters s (bump d.time · i n) }

/-- Counter `i` of the site that carries the core of `cur` increased (R388). -/
def count (d : Dev) (i : Nat) (n : Nat := 1) : Dev := d.countOn d.cur.core i n

/-- The counters of TLB misses and walks of the site of `cur` (R320, R388). -/
def missCounts (d : Dev) : List Nat :=
  [37, 38, 39].map (Map.get 0 (Map.get {} d.counters (d.siteOf d.cur.core)).vals)

/-- The misses and walks of an access that faulted counted (R320). -/
def countSeen (d : Dev) (seen : Option (List Nat)) : Dev :=
  match seen with
  | none => d
  | some vs => ([37, 38, 39].zip (vs.zip d.missCounts)).foldl (fun d e => d.count e.1 ((e.2.1 + 2 ^ 48 - e.2.2) % 2 ^ 48)) d

/-- A module-wide counter increased (R388). -/
def mcount (d : Dev) (i : Nat) : Dev := { d with mcounters := bump d.time d.mcounters i 1 }

/-- A free value and the device that has used it up. -/
def free (d : Dev) : Word × Dev := (Config.freeWord d.fresh, { d with fresh := d.fresh + 1 })

/-- A counter as a read in a cycle sees it: before the additions of that cycle (R387). -/
def countSeenIn (c : Counters) (now i : Nat) : Nat := (Map.get 0 c.vals i + 2 ^ 48 - Map.get 0 (countLog c now).added i % 2 ^ 48) % 2 ^ 48

/-- A counter left at a value by an access of a cycle, with its overflow bit as before the cycle (R387). -/
def countPut (c : Counters) (now i v : Nat) : Counters :=
  let l := countLog c now
  let mask : Word := BitVec.ofNat 64 (2 ^ i)
  { c with
    vals := Map.set c.vals i v, ovf := (c.ovf &&& ~~~mask) ||| (l.ovf &&& mask)
    log := { l with carried := l.carried.filter (· != i) } }

/-- A read that clears leaves the addition of the cycle alone (R387), beside the half of the counter that it does not read. -/
def countCleared (c : Counters) (now i : Nat) (keep : Nat := 0) : Counters :=
  countPut c now i ((keep + Map.get 0 (countLog c now).added i) % 2 ^ 48)

/-- A write: the addition of the cycle is discarded (R387). -/
def countWritten (c : Counters) (now i v : Nat) : Counters :=
  let c := countPut c now i v
  { c with log := { c.log with added := Map.del c.log.added i, written := insertNat i c.log.written } }

/-- Overflow bits cleared, but for those of counters that carry in the cycle (R387). -/
def ovfCleared (c : Counters) (now : Nat) (v : Word) : Counters :=
  { c with ovf := (c.ovf &&& ~~~v) ||| BitVec.ofNat 64 (sumOf (2 ^ ·) (countLog c now).carried) }

/-! ### Floating-point flags of the S stream -/

/-- A group that has raised flags in a cycle: COR_FFLAGS bits and COR_SFLAGS bits (R80, R89). -/
def noteFlags (g : Group) (now f s : Nat) : Group :=
  if g.raisedAt = now + 1 then { g with raisedF := g.raisedF ||| f, raisedS := g.raisedS ||| s }
  else { g with raisedAt := now + 1, raisedF := f, raisedS := s }

/-- The group CSRs that an instruction of the V, M or X stream stages in a cycle (R208): those from before a write of the S stream in
that cycle. -/
def asStaged (g : Group) (now : Nat) : Group :=
  if g.old.at_ = now + 1 then
    { g with xval := g.old.xval, srkey := g.old.srkey, srctrV := g.old.srctrV, srctrX := g.old.srctrX, thresh := g.old.thresh }
  else g

/-- Sticky flags raised by an instruction of the S stream: to COR_SFLAGS, or in service mode to COR_SVFLAGS (R89). -/
def raiseS (d : Dev) (fl : Nat) : Dev :=
  if d.cur.svc then
    let c := d.core d.cur.core
    d.setCore d.cur.core { c with svflags := c.svflags ||| fl }
  else d.setGrp (noteFlags { d.grp with sflags := d.grp.sflags ||| fl } d.time 0 fl)

/-! ### Physical memory by lines -/

/-- Whether a line lies on a Lake channel that is mapped out (R20): the channel of address `pa` is pa[17:12]. -/
def lostLine (d : Dev) (line : Nat) : Bool := d.lakeMask != 0 && line < 0x300000000 && flag d.lakeMask.toNat (fld line 6 6)

/-- The place of the copy of a lost line that a stash or an L1 still holds (R20): a line of its own, beyond every physical address, by
the holder and the line. -/
def keptLine (holder line : Nat) : Nat := 2 ^ 64 + holder * 2 ^ 34 + line

/-- The physical line of a line or of the kept copy of one (R20). -/
def realLine (line : Nat) : Nat := if 2 ^ 64 ≤ line then line % 2 ^ 34 else line

/-- The holder of a copy in the L1 of a core, among the groups whose stash entries are the other holders. -/
def l1Holder (core : Nat) : Nat := 2 ^ 24 + core

/-- Whether a line reads as poisoned (R20, R177). -/
def linePoisoned (d : Dev) (line : Nat) : Bool := d.poisoned.contains line || d.lostLine line

/-- `n` bytes of memory from a physical address. -/
def lds (d : Dev) (a n : Nat) : List Byte :=
  if d.lakeMask = 0 then d.mem.bytes a n
  else (List.range n).map (fun i => if d.lostLine (lineOf (a + i)) then Config.lostByte (a + i) else d.mem.byte (a + i))

/-- `n` bytes of memory from a physical address as a number, little-endian (R6). -/
def ld (d : Dev) (a n : Nat) : Nat := if d.lakeMask = 0 then d.mem.read a n else ofBytes (d.lds a n)

/-- The bytes put into memory; those of lost lines are discarded (R20). -/
def putBytes (d : Dev) (a : Nat) (bs : List Byte) : Memory :=
  if d.lakeMask = 0 then d.mem.writeBytes a bs
  else ((List.range bs.length).zip bs).foldl
    (fun m e => if d.lostLine (lineOf (a + e.1)) then m else m.put (a + e.1) e.2) d.mem

def setLinePoison (d : Dev) (line : Nat) (p : Bool) : Dev :=
  { d with poisoned := if p then insertNat line d.poisoned else eraseNat line d.poisoned }

/-- Whether any line of a byte range is poisoned. -/
def rangePoisoned (d : Dev) (a n : Nat) : Bool :=
  n != 0 && (List.range (lineOf (a + n - 1) - lineOf a + 1)).any (fun i => d.linePoisoned (lineOf a + i))

/-- Hoist-guard entries of a line go: the line's stamp moves past theirs (R104). -/
def staleHoist (d : Dev) (l0 l1 : Nat) : Dev :=
  let keep (x : Stream) : Stream := { x with hoist := x.hoist.filter (fun h => h.line < l0 || l1 < h.line) }
  { d with
    groups := Map.mapV (fun g => if g.streamS.hoist.isEmpty then g else { g with streamS := keep g.streamS }) d.groups,
    cores := Map.mapV (fun c => if c.svc.hoist.isEmpty then c else { c with svc := keep c.svc }) d.cores }

/-- The lines of a range on which a lease has been granted dated by a write, after every such lease (R182). -/
def dateLines (l0 l1 : Nat) (m : Map (Nat × Nat)) : Map (Nat × Nat) :=
  m.map (fun e => if l0 ≤ e.1 && e.1 ≤ l1 then (e.1, (max e.2.1 (e.2.2 + 1), e.2.2)) else e)

/-- Bytes stored at a physical address by one instruction (R177): poison is set by a poisoned value, and cleared where the
instruction writes a whole line with clean data. -/
def storeBytes (d : Dev) (a : Nat) (bs : List Byte) (p : Bool) : Dev :=
  let n := bs.length
  if n = 0 then d
  else
    let l0 := lineOf a
    let l1 := lineOf (a + n - 1)
    let full (l : Nat) : Bool := a ≤ 64 * l && 64 * l + 64 ≤ a + n
    let po := (List.range (l1 - l0 + 1)).foldl
      (fun po i => if p then insertNat (l0 + i) po else if full (l0 + i) then eraseNat (l0 + i) po else po) d.poisoned
    { d.staleHoist l0 l1 with mem := d.putBytes a bs, poisoned := po, leases := dateLines l0 l1 d.leases }

/-- Lines that a write covers whole: the host holds no copy of them any more, and what it held is not needed (R378). -/
def takeBack (d : Dev) (a n : Nat) : Dev :=
  let l := d.link 0
  if l.lent.isEmpty && l.shared.isEmpty then d
  else
    let keep (x : Nat) : Bool := !(a ≤ 64 * x && 64 * x + 64 ≤ a + n)
    d.setLink 0 { l with lent := l.lent.filter keep, shared := l.shared.filter keep, lastUse := l.lastUse.filter (fun e => keep e.1) }

/-- A value of `n` bytes stored at a physical address. -/
def store (d : Dev) (a n v : Nat) (p : Bool) : Dev := d.storeBytes a (toBytes n v) p

/-! ### Killing a context (R212) -/

end Dev

/-- The operations in progress of a stream. -/
def Stream.longs (x : Stream) : List LongOp := x.op.toList ++ x.load.toList

/-- The group that an access belongs to. -/
def Waiter.group? : Waiter → Option Nat
  | .stream k _ => some k
  | .op k _ => some k
  | .load k => some k
  | _ => none

/-- Whether an instruction of a stream has issued and not retired. -/
def Stream.busy (x : Stream) : Bool := x.op.isSome || x.load.isSome

/-- The requests that a sampler unit had queued are no more: what a write of SMP_POS waited for (R346). -/
def Sampler.unqueue (u : Sampler) : Sampler := { u with late := u.late.filter (fun e => (u.run.map (·.seq)) == some e.1) }

namespace Dev

/-- Who makes the accesses of the instruction at hand. -/
def me (d : Dev) : Waiter :=
  if d.cur.sampler then .unit d.cur.unit
  else if d.cur.svc then .service d.cur.core
  else if d.cur.load then .load d.cur.key
  else if d.cur.step then .op d.cur.key d.cur.eng
  else .stream d.cur.key d.cur.eng

/-- The accesses of a waiter that wait. -/
def waitsOf (d : Dev) (w : Waiter) : List AccWait := d.waits.filter (·.by_ == w)

/-- The lines that have been answered to a waiter (R381, R385). -/
def gotLines (d : Dev) (w : Waiter) : List Nat := (d.waitsOf w).flatMap (·.got)

/-- A waiter waits for no access any more. -/
def endWaits (d : Dev) (w : Waiter) : Dev := if d.waits.isEmpty then d else { d with waits := d.waits.filter (·.by_ != w) }

/-- Reserved queue slots of an abandoned operation given back. -/
def releaseRes (d : Dev) (o : LongOp) : Dev :=
  o.res.foldl (fun d (q, n) => d.setQueue q { d.queue q with reserved := (d.queue q).reserved - n }) d

/-- The operations of a group abandoned: their queue slots return (R212, R223). -/
def releaseOps (d : Dev) (key : Nat) : Dev :=
  engines.foldl (fun d e =>
    match ((d.group key).stream e).op with
    | some o => d.releaseRes o
    | none => d) d

/-- A group leaves the MBCW sessions that it has joined; a session without participants is over (R168). -/
def leaveSessions (d : Dev) (key : Nat) : Dev :=
  if d.clusters.all (fun e => e.2.sessions.isEmpty) then d
  else
    let out (x : Session) : Session := { x with joined := x.joined.filter (fun j => j.key != key) }
    { d with clusters := Map.mapV (fun (c : Cluster) =>
      { c with sessions := (Map.mapV out c.sessions).filter (fun e => !e.2.joined.isEmpty) }) d.clusters }

/-- A group leaves its core slot; its service entries that wait there go. -/
def leaveCore (d0 : Dev) (key : Nat) : Dev :=
  let d := d0.leaveSessions key
  let d := if d.waits.isEmpty then d else { d with waits := d.waits.filter (fun w => Waiter.group? w.by_ != some key) }
  let g := d.group key
  let c := d.core g.core
  if g.core = 0xFF then d
  else d.setCore g.core { c with
    slots := c.slots.filter (·.2 != key), credits := c.credits.filter (fun x => x.1 / 4 != g.slot),
    readySince := c.readySince.filter (fun x => x.1 / 4 != g.slot), pending := c.pending.filter (·.key != key),
    weights := if c.weights == some key then none else c.weights }

/-- Reservations in a queue forgotten by the operations that hold them. -/
def forgetRes (g : Group) (n : Nat) : Group :=
  let keep (x : Stream) : Stream :=
    { x with op := x.op.map (fun (o : LongOp) => { o with res := o.res.filter (fun r => r.1 != n) }) }
  { g with streamS := keep g.streamS, streamV := keep g.streamV, streamM := keep g.streamM, streamX := keep g.streamX }

/-- A queue becomes FREE: its entries go and every binding to it is stale (R217, R219); a sampler unit that pops it stops
(R345), and a copy has it no more (R302). -/
def releaseQueue (d : Dev) (n : Nat) : Dev :=
  let q := d.queue n
  let d := d.setQueue n { q with state := .free, entries := [], reserved := 0, round := q.round + 1 }
  let off (s : Sampler) : Sampler := if s.rq = n then { s.unqueue with en := false } else s
  let d := { d with groups := Map.mapV (forgetRes · n) d.groups, samplers := Map.mapV off d.samplers }
  if q.kind = 3 then
    { d with res := { d.res with
      copies := Map.mapV (fun (c : Copy) => { c with queues := c.queues.filter (fun e => e.1 != n) }) d.res.copies } }
  else d

/-- The residency unit frees a token queue that is CLOSED and empty and to which no port is bound (R302). -/
def reapQueue (d : Dev) (n : Nat) : Dev :=
  let q := d.queue n
  let bound (g : Group) : Bool := g.ports.any (fun p => p.2.queue == n && p.2.round == q.round)
  if q.kind = 3 && q.state = .closed && q.entries.isEmpty && !d.groups.any (fun e => bound e.2) then d.releaseQueue n else d

/-- The holds of a group on copies end (R303). -/
def dropHolds (d : Dev) (key : Nat) : Dev :=
  if d.res.copies.all (fun e => !e.2.holders.contains key) then d
  else { d with res := { d.res with
    copies := Map.mapV (fun (c : Copy) => { c with holders := c.holders.filter (· != key) }) d.res.copies } }

/-- What names a group by its index forgets it when the group ends: a pipeline that it drained (R254) and the service entry that a
waiting record asks for. -/
def forgetIndex (d : Dev) (key : Nat) : Dev :=
  let c := d.ctx (ctxOf key)
  let i := idxOf key
  if c.pipes.isEmpty && c.waiting.isEmpty then d
  else d.setCtx (ctxOf key) { c with
    pipes := Map.mapV (fun (x : Pipeline) => if x.drainedBy = some i then { x with drainedBy := none } else x) c.pipes,
    waiting := c.waiting.map (fun (r : FaultRec) => if r.group = i then { r with entry := false } else r) }

/-- A group ends: its window, tags, recipes, tokens and slot go (R64, R212, R250). -/
def removeGroup (d : Dev) (key : Nat) : Dev :=
  let qs := (d.group key).ports.map (fun p => p.2.queue)
  let d := (((d.releaseOps key).leaveCore key).dropHolds key).forgetIndex key
  qs.foldl reapQueue { d with groups := Map.del d.groups key }

/-- A fault record as the 64 bytes of R196. -/
def recordBytes (r : FaultRec) : List Byte :=
  toBytes 8 (r.cause + r.stream * 2 ^ 8 + bit r.replay * 2 ^ 10 + bit r.poison * 2 ^ 11 + bit r.killed * 2 ^ 12
      + r.group * 2 ^ 16 + r.lcore * 2 ^ 32 + r.asid * 2 ^ 48)
    ++ toBytes 8 r.pc.toNat ++ toBytes 8 r.addr.toNat ++ toBytes 8 r.step.toNat
    ++ toBytes 8 (if r.poison then r.pline % 2 ^ 46 * 2 ^ 6 + r.pkind else 0)
    ++ toBytes 8 r.seq ++ toBytes 8 r.time ++ toBytes 8 r.word

/-- The capacity of a fault queue (R192). -/
def fqCap (c : Ctx) : Nat := 16 * 2 ^ c.fqSize

/-- Whether a fault queue is full (R192). -/
def fqFull (c : Ctx) : Bool := (c.tail + 1) % fqCap c == c.head

/-- A record written at TAIL, and the service entry it asks for queued (R196, R200, R204). -/
def writeRecord (d : Dev) (n : Nat) (r : FaultRec) : Dev :=
  let c := d.ctx n
  let a := c.fqBase * 4096 + 64 * c.tail
  let d := ((d.takeBack a 64).storeBytes a (recordBytes r) false).setCtx n { c with tail := (c.tail + 1) % fqCap c }
  let key := keyOf n r.group
  if r.entry then
    match Map.find d.groups key with
    | some g =>
      let k := d.core g.core
      let lost := g.core != 0xFF && k.svec == 0
      let e : Pending := ⟨key, Engine.ofNum r.stream, r.cause, r.resume, r.step, a, r.seq, d.records, lost⟩
      let d := { d.setGroup key { g with entries := g.entries ++ [e] } with records := d.records + 1 }
      if g.core = 0xFF || lost then d else d.setCore g.core { k with pending := k.pending ++ [e] }
    | none => d
  else d

/-- Waiting records written in order while slots are free (R199). The list bounds the recursion. -/
def drainRecords (d : Dev) (n : Nat) : List FaultRec → Dev
  | [] =>
    let c := d.ctx n
    d.setCtx n { c with waiting := [], state := if c.state = .faulted then .running else c.state }
  | r :: rs =>
    if fqFull (d.ctx n) then d.setCtx n { d.ctx n with waiting := r :: rs }
    else (d.writeRecord n r).drainRecords n rs

/-- A record of a context that is not killed: written, or waiting behind a full queue (R195, R199). -/
def emitRecord (d : Dev) (n : Nat) (r : FaultRec) : Dev :=
  let c := d.ctx n
  if c.state = .killed then d
  else
    let r := { r with seq := c.seq, asid := c.asid, time := d.time }
    let d := d.setCtx n { c with seq := (c.seq + 1) % 2 ^ 64 }
    if c.waiting.isEmpty && !fqFull c then d.writeRecord n r
    else
      let c := d.ctx n
      let now := c.state = .running
      d.setCtx n { c with
        waiting := c.waiting ++ [r], state := if now then .faulted else c.state, faultedAt := if now then d.time + 1 else c.faultedAt }

/-- The queues of which a killed context is the producer or the consumer break (R217). -/
def breakQueues (d : Dev) (n : Nat) : Dev :=
  let brk (q : Queue) : Queue :=
    if (q.state = .opened || q.state = .closed) && (q.pctx = n || q.cctx = n) then { q with state := .broken } else q
  { d with queues := Map.mapV brk d.queues }

/-- The sampler steps of a killed context end at their next instruction (R359). -/
def killSteps (d : Dev) (n : Nat) : Dev :=
  let mark (r : StepRun) : StepRun := if r.params.own = n then { r with killed := true } else r
  { d with samplers := Map.mapV (fun s => { s with run := s.run.map mark }) d.samplers }

/-- The group that a core serves in service mode stays until ERET (R212). -/
def beingServed (d : Dev) (key : Nat) : Bool :=
  let g := d.group key
  let c := d.core g.core
  g.core != 0xFF && c.service && c.serving == some key

/-- Killing of a context (R179, R212): its groups end, its waiting records go, its queues break, the killing record is made. The group of
an entry being served stays until ERET, without stash and windows. -/
def killContext (d : Dev) (n cause : Nat) (r : Option FaultRec) : Dev :=
  let c := d.ctx n
  if c.state = .free || c.state = .killed then d
  else
    let keys := (Map.keys d.groups).filter (fun k => ctxOf k == n)
    let d := keys.foldl (fun d k =>
      if d.beingServed k then
        let d := { d with waits := d.waits.filter (fun w => Waiter.group? w.by_ != some k) }
        ((d.releaseOps k).dropHolds k).setGroup k { d.group k with state := .held, entries := [], stash := [], windows := [] }
      else d.removeGroup k) d
    let c := d.ctx n
    let d := (d.breakQueues n).killSteps n
    let d := { d with
      clusters := Map.mapV (fun cl => { cl with sessions := cl.sessions.filter (fun e => e.2.ctx != n) }) d.clusters }
    let d := d.setCtx n { c with
      state := .killed, killcause := cause, waiting := [], running := none, pipes := [],
      cmdst := if c.running.isSome then 0 else c.cmdst,
      dbgStat := if c.dbgStat = 1 then 3 else c.dbgStat,
      kernels := Map.mapV (fun (v : Kernel) => { v with refs := 0 }) c.kernels }
    match r with
    | none => d
    | some r =>
      let c := d.ctx n
      let r := { r with seq := c.seq, asid := c.asid, time := d.time, killed := true, entry := false }
      let d := d.setCtx n { c with seq := (c.seq + 1) % 2 ^ 64 }
      if fqFull c then d.setCtx n { d.ctx n with waiting := [r] } else d.writeRecord n r

/-- A poison commit counts in the module counter and in the lifetime count of the panel (R388, R396). -/
def countCommit (d : Dev) : Dev :=
  { d.mcount 6 with lifetime := { d.lifetime with poison := min 0xFFFF (d.lifetime.poison + 1) } }

/-! ### Taking a fault -/

/-- A nested service fault (R202): the cause goes to NEST and service starts again at the vector; a second one halts the
engine and makes the core SUSPECT; its site freezes in the next cycle (R365). -/
def nestedFault (d0 : Dev) (t : Trap) : Dev :=
  let d := d0.endWaits d0.me
  let c := d.core d.cur.core
  if c.nest = 0 then
    d.setCore d.cur.core { c with
      nest := t.cause, svc := { c.svc with pc := c.svec, op := none, pend := none, loops := [], skip := none, hoist := [], decoded := [] } }
  else
    let s := d.siteOf d.cur.core
    let d := d.setCore d.cur.core { c with halted := true, svc := { c.svc with retired := true } }
    if s = 255 then d
    else { d with sites := Map.upd (siteDefault s) d.sites s (fun x => { x with state := .suspect }) }

/-- The fault record of a trap of the stream that `cur` names (R196). -/
def recordOf (d : Dev) (t : Trap) (e : Engine) : FaultRec :=
  let pc := t.pc.getD (if e = d.cur.eng then d.cur.group else (d.grp.stream e).pc)
  { cause := t.cause, stream := e.num, replay := t.replay, poison := t.poison, group := idxOf d.cur.key, lcore := d.cur.core,
    pc := pc, addr := t.addr, step := BitVec.ofNat 64 t.step, pline := realLine t.pline, pkind := t.pkind,
    word := t.word.getD (if e = d.cur.eng then d.cur.word else (d.grp.stream e).waitWord),
    resume := t.resume.getD (if t.cause = 0x20 then pc + 8 else pc), entry := true }

/-- A fault of a stream of a group (R197, R198): a record is made, and the group is HELD, or its context is killed by
causes 0x10 and 0x30. What has issued in its other streams, and in this one beside the instruction at fault, completes the step it
is in. A TRAP in a delay group counts as that group (R206, R245). -/
def groupFault (d : Dev) (t : Trap) (e : Engine) : Dev :=
  let n := d.myCtx
  let r := d.recordOf t e
  if t.cause = 0x10 || t.cause = 0x30 then
    let d := if t.cause = 0x10 then d.countCommit else d
    d.killContext n t.cause (some r)
  else
    let g := d.grp
    let x := g.stream e
    let pend := if t.cause = 0x20 then x.pend.map (fun p => { p with left := p.left - 1 }) else x.pend
    let busy := engines.filter (fun f => ((g.stream f).op.map (fun o => f != e || !d.cur.step || o.pc != d.cur.pc)).getD false)
    let d := d.setGrp ({ g with
        state := .held, heldBy := some t.cause, heldAt := d.time + 1
        toStep := if g.state == GState.running then busy else g.toStep.filter busy.contains }.setStream e
      { x with
        resumeStep := t.step, resumeAt := d.cur.pc, hoist := [], wait := .none, decoded := [], rdv := none, pc := t.resume.getD x.pc
        pend := pend })
    (d.endWaits d.me).emitRecord n r

/-- TAKING A FAULT, the one operation behind every cause of R197: in service mode the nested fault of R202, otherwise the
record, the hold and the service entry (R196 to R200), or the kill (R212). -/
def takeFault (d0 : Dev) (t : Trap) : Dev :=
  let d := d0.countSeen t.seen
  if d.cur.svc then d.nestedFault t
  else
    match t.other with
    | none => d.groupFault t d.cur.eng
    | some e =>
      let mask := ((d.grp.stream e).rdv).getD 0
      let t2 : Trap := { t with other := none, addr := BitVec.ofNat 64 mask, pc := some (d.grp.stream e).pc }
      if e.num < d.cur.eng.num then (d.groupFault t2 e).groupFault t d.cur.eng
      else (d.groupFault t d.cur.eng).groupFault t2 e

/-- A word as a canonical address that is 8-byte aligned (R47). -/
def asTarget (v : Word) : Word := BitVec.ofInt 64 (sext (v.toNat / 8 * 8) 54)

/-- The transfer of a taken branch after a group that was pending before it (R244); the stream's PC stands after the group, and the link
takes that address in the form of R47. -/
def afterDelay (x : Stream) (pend : Option Transfer) : Stream :=
  match pend with
  | none => x
  | some t =>
    let link := (x.pend.map (·.link)).getD t.link
    if 1 < t.left then { x with pend := some { t with left := t.left - 1, link := link } }
    else
      let b := match link with
        | some r => Map.set x.b r (asTarget x.pc)
        | none => x.b
      { x with pend := none, b := b, pc := t.target, loops := x.loops.drop t.exits }

/-! ### Service mode -/

/-- The entry that a core takes next (R200): the order in which the records were written, which within a context is SEQ order. -/
def nextEntry : List Pending → Option Pending
  | [] => none
  | e :: es => some (es.foldl (fun b x => if x.order < b.order then x else b) e)

/-- A service entry discarded on a core without a handler (R204). -/
def loseEntry (d : Dev) (n : Nat) (e : Pending) : Dev :=
  let c := d.core n
  let d := d.setCore n { c with pending := c.pending.erase e }
  match Map.find d.groups e.key with
  | some g => d.setGroup e.key { g with entries := g.entries.map (fun x => if x = e then { x with lost := true } else x) }
  | none => d

/-- Whether the group being served is still resident and its context not killed (R207). -/
def servedGroup (d : Dev) (n : Nat) : Option Nat :=
  let c := d.core n
  match c.serving with
  | none => none
  | some k =>
    match Map.find d.groups k with
    | some g => if g.core = n && (d.ctx (ctxOf k)).state != .killed then some k else none
    | none => none

/-- The held instruction of a stream abandoned by a write to COR_SEPC (R207, R245, R262): its staging, its reservations and a
pending transfer go. `own` says which operation in progress is the held instruction. -/
def abandon (d : Dev) (key : Nat) (e : Engine) (own : LongOp → Bool) : Dev :=
  let x := (d.group key).stream e
  let drop (d : Dev) (o : LongOp) : Dev :=
    let d := d.releaseRes o
    let d := if x.op = some o && e = .M then d.dropHolds key else d
    match o.ins.hdr? with
    | some h =>
      if h.pt = 0 then d
      else d.setGroup key { d.group key with tokenRes := Map.upd 0 (d.group key).tokenRes (3 * e.num + (h.pt - 1)) (· - 1) }
    | none => d
  let d := (x.longs.filter own).foldl drop d
  d.setGroup key ((d.group key).setStream e
    { x with op := x.op.filter (!own ·), load := x.load.filter (!own ·), pend := none, resumeStep := 0, skip := none, decoded := [] })

/-- Whether an operation in progress of a stream is the instruction that a service entry is for (R207). -/
def opHeld (g : Group) (e : Engine) (o : LongOp) : Bool :=
  match g.entries.find? (fun p => p.stream == e) with
  | some p => o.pc == p.pc
  | none => false

/-- An operation in progress of a group that was held and is released: an MMT that takes its weights from q249 stopped as if it were
pre-empted, and stages its accumulator anew (R288). -/
def releasedOp (o : LongOp) : LongOp :=
  match o.ins with
  | .mmt _ _ _ 2 _ => { o with n := o.n.set 7 0 }
  | _ => o

end Dev

/-- A group that leaves a hold: what its M stream had in progress goes on (R288). -/
def Group.release (g : Group) : Group := { g with streamM := { g.streamM with op := g.streamM.op.map Dev.releasedOp } }

namespace Dev

/-- Service mode ends on a core (R207). -/
def leaveService (d : Dev) (n : Nat) : Dev :=
  let c := d.core n
  d.setCore n { c with
    nest := 0, held := false, service := false, serving := none, sepcWritten := false, ctxsOwn := false, svc := { c.svc with hoist := [] } }

/-- The held group released by ERET (R199, R207): the stream goes on at COR_SEPC; an operation in progress at step COR_SSTEP. Every
stream is released but one that has a fault of its own still to be served (log 50); the group stays held while a record of it
waits (R199) or has met no handler (R204), and while a debugger has stopped it (R393). A group that its own service code has had
saved is saved held, and its entry keeps what service has written (R209). A step other than the record's is kept for an instruction
without steps, which then retires at once. -/
def releaseHeld (d : Dev) (n k : Nat) : Dev :=
  let c := d.core n
  let e := Engine.ofNum c.strm
  let g := d.group k
  let x := g.stream e
  let own := x.longs.any (opHeld g e)
  let at_ (o : LongOp) : LongOp := if opHeld g e o then { o with step := c.sstep.toNat } else o
  let pc := if own && !c.sepcWritten then x.pc else c.sepc
  let step := if c.sepcWritten || own || c.sstep.toNat = x.resumeStep then 0 else c.sstep.toNat
  let y : Stream := { x with pc := pc, resumeStep := step, hoist := [], decoded := [], op := x.op.map at_, load := x.load.map at_ }
  let y := if (y.pend.map (·.left)) = some 0 then afterDelay y y.pend else y
  let keeps := g.exempt.filter (fun f => f != e || !c.sepcWritten)
  let h := { g.setStream e y with
    entries := g.entries.filter (fun p => p.stream != e)
    exempt := if c.cause = 0x21 && !c.sepcWritten && !keeps.contains e then keeps ++ [e] else keeps }
  let waits := (d.ctx (ctxOf k)).waiting.any (fun r => r.entry && r.group == idxOf k)
  if (d.ctx (ctxOf k)).state = .saving && c.ctxsOwn then
    d.setGroup k { g with entries := g.entries.map (fun p => if p.stream = e then { p with pc := c.sepc, step := c.sstep } else p) }
  else if h.entries.any (·.lost) || waits then d.setGroup k h
  else d.setGroup k { h.release with state := if g.stopped then g.state else .running, heldBy := none, toStep := [] }

/-- RETURN FROM SERVICE (R207): the held group is released, and service mode ends. -/
def returnService (d : Dev) (n : Nat) : Dev :=
  let c := d.core n
  match d.servedGroup n with
  | none =>
    match c.serving with
    | some k => (if (Map.find d.groups k).isSome && (d.ctx (ctxOf k)).state == .killed then d.removeGroup k else d).leaveService n
    | none => d.leaveService n
  | some k => (if c.held then d.releaseHeld n k else d).leaveService n

/-! ### Tokens (R22, R260 to R262) -/

/-- The FIFO from the stream's engine to its `j`-th other engine. -/
def fifoTo (e : Engine) (j : Nat) : Nat := 3 * e.num + j

/-- The FIFO from the `j`-th other engine to the stream's engine (R260). -/
def fifoFrom (e : Engine) (j : Nat) : Nat :=
  let p := e.other j
  3 * p.num + (if e.num < p.num then e.num else e.num - 1)

/-- What has happened to a group in the present cycle. -/
def today (g : Group) (now : Nat) : CycleLog := if g.cyc.at_ = now + 1 then g.cyc else { at_ := now + 1 }

/-- The tokens of a FIFO that can be consumed in a cycle: those pushed in it cannot (R261). -/
def readyTokens (g : Group) (now f : Nat) : Nat := Map.get 0 g.tokens f - Map.get 0 (today g now).pushed f

/-- The tokens that a FIFO held at the start of a cycle (R263). -/
def startTokens (g : Group) (now f : Nat) : Nat := readyTokens g now f + Map.get 0 (today g now).taken f

/-- Rows of a group noted as written, retagged or read in the present cycle (R64). -/
def touchRows (d : Dev) (key : Nat) (rs : List Nat) : Dev :=
  match Map.find d.groups key with
  | some g =>
    let c := today g d.time
    if rs.isEmpty then d else d.setGroup key { g with cyc := { c with rows := rs.foldl (fun m r => insertNat r m) c.rows } }
  | none => d

/-- Whether the group has the tokens that CM consumes and a free place for the one that PT produces (R26, R261). A consumer
whose producer has retired faults on an empty FIFO (R250). Service code has no FIFOs (log 33). -/
def tokensReady (d : Dev) (h : Hdr) : Res Unit := do
  if d.cur.svc || (h.cm = 0 && h.pt = 0) then pure ()
  else
    let g := d.grp
    let e := d.cur.eng
    let lack := (List.range 3).filter (fun j => flag h.cm j && readyTokens g d.time (fifoFrom e j) == 0)
    match lack.find? (fun j => (g.stream (e.other j)).retired && Map.get 0 g.tokens (fifoFrom e j) == 0) with
    | some j => trap 0x19 (e.other j).num
    | none =>
      if !lack.isEmpty then waitFor (.token (((List.range 3).filter (flag h.cm ·)).map (fun j => (fifoFrom e j, 1))))
      else if h.pt != 0 && 32 ≤ Map.get 0 g.tokens (fifoTo e (h.pt - 1)) + Map.get 0 g.tokenRes (fifoTo e (h.pt - 1)) then
        waitFor (.token [])
      else pure ()

/-! ### Units that streams share (R220, R266, R299, R340) -/

/-- The stream that `cur` names, as a number in the order of core, resident group slot and stream; the service stream of a core and a
sampler unit come after. -/
def whoNum (d : Dev) : Nat :=
  if d.cur.sampler then 2 ^ 40 + d.cur.unit
  else if d.cur.svc then d.cur.core * 2 ^ 16 + 2 ^ 15
  else d.cur.core * 2 ^ 16 + d.grp.slot * 4 + d.cur.eng.num

/-- What streams have shared in the present cycle. -/
def useNow (d : Dev) : CycleUse := if d.use.at_ = d.time + 1 then d.use else { at_ := d.time + 1 }

/-- A unit serves the stream that `cur` names. -/
def serve (d : Dev) (unit : Nat) : Dev :=
  { d with use := { d.useNow with served := d.useNow.served ++ [(unit, d.whoNum)] }, winners := Map.set d.winners unit d.whoNum }

/-- Whether a unit has served another stream in the present cycle. -/
def servesOther (d : Dev) (unit : Nat) : Bool := d.useNow.served.any (fun e => e.1 == unit && e.2 != d.whoNum)

/-- The units of a barrier, of a copy and of the query engine of a core; those of queues are 8 times the number of a queue, and 1 more
for its tail. -/
def barUnit (g : Bool) (cluster b : Nat) : Nat := 2 ^ 48 + (if g then 2 ^ 16 else cluster * 64) + b
def copyUnit (e : Nat) : Nat := 2 ^ 49 + e
def queryUnit (core : Nat) : Nat := 2 ^ 50 + core

/-- The stream that `cur` names, as a number of its logical clock. -/
def clockId (d : Dev) : Nat := if d.cur.svc then 2 ^ 40 + d.cur.core else 4 * d.cur.key + d.cur.eng.num

/-- The logical clock of the stream (R182). -/
def logical (d : Dev) : Nat := Map.get 0 d.clocks d.clockId

/-- The logical clock advances to a time, and by one at least (R182). -/
def advance (d : Dev) (t : Nat := 0) : Dev := { d with clocks := Map.set d.clocks d.clockId (max d.logical t + 1) }

/-- A store takes a logical time after every lease granted on its lines (R182); the write itself dates them (`storeBytes`). -/
def storeTime (d : Dev) (pa n : Nat) : Dev :=
  let ls := (List.range (lineOf (pa + n - 1) - lineOf pa + 1)).map (lineOf pa + ·)
  d.advance (ls.foldl (fun t l => max t (Map.get (0, 0) d.leases l).2) 0)

/-- The logical time of a write that its own copy of a line makes now (R182). -/
def ownTime (d : Dev) (line : Nat) : Nat :=
  let (w, r) := Map.get (0, 0) d.leases line
  max w (r + 1)

/-- A lease granted on a line (R182): when its copy is filled, and where the lease ends. -/
def grant (d : Dev) (line : Nat) : Nat × Nat × Dev :=
  let (w, r) := Map.get (0, 0) d.leases line
  let t := max d.logical w
  let e := t + (d.cluster (clusterOf d.cur.core)).lease
  (t, e, { d with leases := Map.set d.leases line (w, max r e) })

/-- The tokens that CM names taken (R261), at a later logical time (R182). -/
def takeTokens (d0 : Dev) (cm : Nat) : Dev :=
  if cm = 0 then d0
  else
    let d := d0.advance
    let g := d.grp
    let e := d.cur.eng
    let each (f : Nat → Nat) (t : Map Nat) (j : Nat) : Map Nat := if flag cm j then Map.upd 0 t (fifoFrom e j) f else t
    let c := today g d.time
    d.setGrp { g with
      tokens := (List.range 3).foldl (each (· - 1)) g.tokens, cyc := { c with taken := (List.range 3).foldl (each (· + 1)) c.taken } }

/-- A token put into a FIFO of a group, where it can be consumed from the next cycle on (R261). -/
def putToken (g : Group) (now f : Nat) : Group :=
  let c := today g now
  { g with tokens := Map.upd 0 g.tokens f (· + 1), cyc := { c with pushed := Map.upd 0 c.pushed f (· + 1) } }

/-- A token pushed into the FIFO that PT names (R261). -/
def pushToken (d : Dev) (pt : Nat) : Dev :=
  if pt = 0 then d else d.setGrp (putToken d.grp d.time (fifoTo d.cur.eng (pt - 1)))

/-- A place reserved in the FIFO that PT names, for an instruction that retires later (R261). -/
def reserveToken (d : Dev) (pt : Nat) : Dev :=
  if pt = 0 then d else d.setGrp { d.grp with tokenRes := Map.upd 0 d.grp.tokenRes (fifoTo d.cur.eng (pt - 1)) (· + 1) }

/-- The reserved place of a retiring instruction filled (R261). -/
def fillToken (d : Dev) (pt : Nat) : Dev :=
  if pt = 0 then d
  else
    let f := fifoTo d.cur.eng (pt - 1)
    d.setGrp (putToken { d.grp with tokenRes := Map.upd 0 d.grp.tokenRes f (· - 1) } d.time f)

/-! ### Issue of one instruction -/

/-- FL: whether the instruction is suppressed on this iteration of the innermost loop (R27). -/
def suppressed (d : Dev) (h : Hdr) : Bool :=
  match d.stm.loops with
  | [] => false
  | l :: _ => (h.fl == 1 && l.iter != 1) || (h.fl == 2 && l.remaining != 1)

/-- The end of issue: the consumed tokens are taken; the produced token is pushed when the instruction has retired, or its
place is reserved when it began an operation that runs on (R22, R261). A group that the instruction itself has ended has no
tokens left. -/
def settle (d : Dev) (h : Hdr) (long : Bool) : Dev :=
  if d.cur.svc || (h.cm = 0 && h.pt = 0) || (Map.find d.groups d.cur.key).isNone then d
  else
    let d := d.takeTokens h.cm
    if long then d.reserveToken h.pt else d.pushToken h.pt

/-- Whether an instruction that issued at the first device has begun an operation that runs on in the second. -/
def began (d d' : Dev) : Bool :=
  !d.cur.svc && ((d.stm.op.isNone && d'.stm.op.isSome) || (d.stm.load.isNone && d'.stm.load.isSome))

/-- One instruction of the stream that `cur` names: nothing when FL suppresses it, else its effect with its tokens. -/
def issue (h : Hdr) (body : Dev → Res Dev) (d : Dev) : Res Dev :=
  if d.suppressed h then .ok d
  else do
    d.tokensReady h
    let d' ← body d
    pure (d'.settle h (began d d'))

/-- The host decoder that claims a physical address (R379). -/
def hostClaim (d : Dev) (pa : Nat) : Option Nat :=
  (List.range 8).find? (fun n =>
    let x := Map.get {} (d.link 0).decoders n
    x.en && x.base * 2 ^ 28 ≤ pa && pa < (x.base + x.size) * 2 ^ 28
      && 0x100000000000 ≤ x.base * 2 ^ 28 && (x.base + x.size) * 2 ^ 28 ≤ 0x200000000000)

/-- The address by which the far side of a port knows a physical address: of the host range what its decoder makes of it (R379), of a
peer window the offset in the peer's Lake (R381), and a Lake address itself (R378). -/
def farAddress (d : Dev) (pa : Nat) : Nat :=
  if pa < 0x100000000000 then pa
  else if pa < 0x200000000000 then
    match d.hostClaim pa with
    | some n =>
      let x := Map.get {} (d.link 0).decoders n
      x.hbase * 2 ^ 28 + pa - x.base * 2 ^ 28
    | none => pa
  else (pa - 0x200000000000) % 2 ^ 40

/-- Lines asked of a port (R379, R381, R385), each once until it has been answered. -/
def askLines (d : Dev) (p : Nat) (ls : List Nat) : Dev :=
  if ls.isEmpty then d
  else d.setLink p { d.link p with
    asked := ls.foldl (fun m n => if (Map.find m n).isSome then m else Map.set m n (d.farAddress (64 * n) / 64)) (d.link p).asked }

/-- An access of the instruction at hand that waits to be performed (R368, R385): what has been answered to it stays. -/
def holdAccess (d : Dev) (port : Option Nat) (ls : List Nat) (hs : List Held) : Dev :=
  { d with waits := d.waits.filter (·.by_ != d.me) ++ [⟨d.me, port, ls, d.gotLines d.me, hs⟩] }

/-- The access of the instruction at hand as a wait leaves it: its lines asked for, its translations held (R321). -/
def keepAccess (d : Dev) (w : Wait) : Dev :=
  match w with
  | .link p ls hs => (d.holdAccess (some p) ls hs).askLines p ls
  | .peer hs => d.holdAccess none [] hs
  | _ => d.endWaits d.me

/-- A wait without the translations of its access, which `Dev.waits` keeps. -/
def bareWait : Wait → Wait
  | .link p ls _ => .link p ls
  | .peer _ => .peer
  | w => w

/-- A stream marked as waiting (R239), with its access if that is what waits. -/
def applyWait (d : Dev) (w : Wait) : Dev :=
  let x := d.stm
  let mask := match w with
    | .rendezvous m => some m
    | _ => x.rdv
  let d := (d.setStm { x with
    wait := bareWait w, waitWord := d.cur.word, waitSince := if x.wait = bareWait w then x.waitSince else d.time
    rdv := mask }).keepAccess w
  match w with
  | .replay _ cleared =>
    if cleared.isEmpty then d
    else d.setGrp { d.grp with rows := cleared.foldl (fun m r => Map.upd {} m r (fun x => { x with tag := .live })) d.grp.rows }
  | _ => d

end Dev

/-- The answer of a meaning: the next state with its verdict. A wait and a fault are next states too. -/
def conclude (s : State) (r : Res Dev) : Host.Outcome State Fault Refusal :=
  match r with
  | .ok d => .next { s with dev := { d with verdict := .done } }
  | .error (.wait w) => .next { s with dev := { s.dev.applyWait w with verdict := .waiting w } }
  | .error (.trap t) => .next { s with dev := { s.dev.takeFault t with verdict := .trapped t } }

/-- A stream instruction whose effect stays in the device. -/
def stream (h : Hdr) (body : Dev → Res Dev) (s : State) : Host.Outcome State Fault Refusal :=
  conclude s (s.dev.issue h body)

/-- A stream instruction that may read registers of the module through the MMIO window (R7). -/
def streamM (h : Hdr) (body : Mod → Dev → Res Dev) (s : State) : Host.Outcome State Fault Refusal :=
  conclude s (s.dev.issue h (body s.mod))

/-- A stream instruction in steps of its own (R148, R174): what it has done when it stops stays done. -/
def streamP (h : Hdr) (body : Dev → Dev × Option Stop) (s : State) : Host.Outcome State Fault Refusal :=
  let d := s.dev
  if d.suppressed h then .next { s with dev := { d with verdict := .done } }
  else
    match d.tokensReady h with
    | .error (.wait w) => .next { s with dev := { d.applyWait w with verdict := .waiting w } }
    | .error (.trap t) => .next { s with dev := { d.takeFault t with verdict := .trapped t } }
    | .ok _ =>
      match body d with
      | (d', none) => .next { s with dev := { d'.settle h (Dev.began d d') with verdict := .done } }
      | (d, some (.wait w)) => .next { s with dev := { d.applyWait w with verdict := .waiting w } }
      | (d, some (.trap t)) => .next { s with dev := { d.takeFault t with verdict := .trapped t } }

/-- An event or command whose effect stays in the device. -/
def event (f : Dev → Dev) (s : State) : Host.Outcome State Fault Refusal := .next { s with dev := f s.dev }

end Sys2Proof.Machine
end

