-- ==== Sys2Proof/Machine/Queues.lean ====
section
/-!
DEFINITION. Queues as ports reach them (spec/10_queue.md R213 to R225, spec/18_sequence.md R343).
-/

namespace Sys2Proof.Machine
open Word

/-- What a port names. -/
inductive Fifo where
  | pool (n : Nat)
  | q248 | q249 | q250 | q251 | q252
  deriving DecidableEq, Repr

/-- How a port is used (R213, R219): by a class-0xB instruction, or as a row operand. -/
inductive PortUse where
  | instr | operand
  deriving DecidableEq, Repr

namespace Dev

/-- The groups on a control core. -/
def controlGroup (d : Dev) (core : Nat) : Option Nat := (d.core core).slots.head?.map (·.2)

/-- A mailbox is bound only while the other control core holds no group or one of the same context (R343). -/
def mailboxBound (d : Dev) : Bool :=
  match d.controlGroup (if d.cur.core = 0xF0 then 0xF1 else 0xF0) with
  | none => true
  | some k => ctxOf k = d.myCtx

/-- Whether a binding is live: the queue is not FREE and was not freed since (R219). -/
def bindingLive (d : Dev) (b : Binding) : Bool := (d.queue b.queue).state != .free && (d.queue b.queue).round == b.round

/-- What a port names for a use; cause 0x16 with the port number where the use is not allowed (R219). -/
def resolve (d : Dev) (port : Nat) (push wide : Bool) (u : PortUse) : Res Fifo :=
  let bad : Res Fifo := trap 0x16 port
  if d.cur.svc then bad
  else if port < 248 then
    match Map.find d.grp.ports port with
    | none => bad
    | some b =>
      let q := d.queue b.queue
      if !d.bindingLive b || q.wide != wide || (u == .operand && !wide) then bad
      else if push then (if (b.mode == 2 || b.mode == 3) && q.kind != 3 then .ok (.pool b.queue) else bad)
      else if b.mode == 1 || b.mode == 3 then .ok (.pool b.queue) else bad
  else if port = 248 then (if push && !wide && u == .instr && d.cur.eng == .S then .ok .q248 else bad)
  else if port = 249 then (if !push && wide && u == .operand && d.cur.eng == .V then .ok .q249 else bad)
  else if port = 250 then
    (if u == .instr && !wide && d.mailboxBound && (if push then d.cur.core = 0xF0 else d.cur.core = 0xF1) then .ok .q250 else bad)
  else if port = 251 then
    (if u == .instr && !wide && d.mailboxBound && (if push then d.cur.core = 0xF1 else d.cur.core = 0xF0) then .ok .q251 else bad)
  else if port = 252 then (if u == .instr && !push && !wide then .ok .q252 else bad)
  else bad

/-- The entries a queue holds. -/
def entriesOf (d : Dev) : Fifo → List Entry
  | .pool n => (d.queue n).entries
  | .q248 => d.grp.q248.map (fun r => ⟨r.v.setWidth 16384, r.p⟩)
  | .q249 => d.grp.q249.map (fun r => ⟨r.v, r.p⟩)
  | .q250 => d.q250.entries.map (fun r => ⟨r.v.setWidth 16384, r.p⟩)
  | .q251 => d.q251.entries.map (fun r => ⟨r.v.setWidth 16384, r.p⟩)
  | .q252 => d.grp.q252.map (fun w => ⟨w.setWidth 16384, false⟩)

/-- Whether a queue is OPEN; the fixed queues always are (R228). -/
def isOpen (d : Dev) : Fifo → Bool
  | .pool n => (d.queue n).state == .opened
  | _ => true

/-- The depth of a queue (R213). -/
def depthOf (d : Dev) : Fifo → Nat
  | .pool n => 2 ^ (d.queue n).logd
  | .q248 => 16
  | .q249 => 32
  | .q250 => 64
  | .q251 => 64
  | .q252 => 32

/-- How many queues a context owns that are OPEN (R216, R302, R309). -/
def openQueues (d : Dev) (n : Nat) : Nat := (d.queues.filter (fun e => e.2.state == .opened && e.2.own == n)).length

/-- Slots reserved and not filled (R220). -/
def reservedOf (d : Dev) : Fifo → Nat
  | .pool n => (d.queue n).reserved
  | _ => 0

/-- Free slots (R220). -/
def roomOf (d : Dev) (f : Fifo) : Nat := d.depthOf f - (d.entriesOf f).length - d.reservedOf f

/-- A queue without its first entries (R220). -/
def dropHead (d : Dev) (n : Nat) : Fifo → Dev
  | .pool q => d.setQueue q { d.queue q with entries := (d.queue q).entries.drop n }
  | .q248 => d.setGrp { d.grp with q248 := d.grp.q248.drop n }
  | .q249 => d.setGrp { d.grp with q249 := d.grp.q249.drop n }
  | .q250 => { d with q250 := { d.q250 with entries := d.q250.entries.drop n } }
  | .q251 => { d with q251 := { d.q251 with entries := d.q251.entries.drop n } }
  | .q252 => d.setGrp { d.grp with q252 := d.grp.q252.drop n }

/-- The number of a queue among all (R213). -/
def fifoNum (d : Dev) : Fifo → Nat
  | .pool q => q
  | .q250 => 4096 + 250
  | .q251 => 4096 + 251
  | .q248 => 2 ^ 16 + 4 * d.cur.key
  | .q249 => 2 ^ 16 + 4 * d.cur.key + 1
  | .q252 => 2 ^ 16 + 4 * d.cur.key + 2

/-- The entries of a queue that can be popped in the present cycle: not those pushed in it (R220). -/
def readyEntries (d : Dev) (f : Fifo) : List Entry :=
  let es := d.entriesOf f
  es.take (es.length - Map.get 0 d.useNow.pushed (d.fifoNum f))

/-- Entries that the group at hand has taken of a queue: their slots are not free before the group has issued (R220). -/
def notePops (d : Dev) (n : Nat) : Fifo → Dev
  | .pool q => { d with cur := { d.cur with popped := (q, n) :: d.cur.popped } }
  | _ => d

/-- The free slots of a queue as the group at hand finds them before it issues (R220). -/
def roomBefore (d : Dev) (f : Fifo) : Nat :=
  match f with
  | .pool q => d.roomOf f - sumOf (fun e => if e.1 = q then e.2 else 0) d.cur.popped
  | _ => d.roomOf f

/-- `n` entries taken from a port's queue: it waits on an empty OPEN queue and faults on an empty CLOSED or BROKEN one
(R218, R227). It waits too for entries that the present cycle has pushed, and where the queue has served another pop in it (R220). -/
def popN (d : Dev) (port n : Nat) (f : Fifo) : Res (List Entry × Dev) :=
  if (d.entriesOf f).length < n then (if d.isOpen f then waitFor (.queue port) else trap 0x16 port)
  else if (d.readyEntries f).length < n || d.servesOther (8 * d.fifoNum f) then waitFor (.queue port)
  else .ok ((d.readyEntries f).take n, ((d.dropHead n f).notePops n f).serve (8 * d.fifoNum f))

/-- One entry taken. -/
def pop1 (d : Dev) (port : Nat) (f : Fifo) : Res (Entry × Dev) := do
  let (es, d) ← d.popN port 1 f
  pure (es.headD {}, d)

/-- An entry put at the tail. -/
def putEntry (d : Dev) (e : Entry) : Fifo → Dev
  | .pool q => d.setQueue q { d.queue q with entries := (d.queue q).entries ++ [e] }
  | .q248 => d.setGrp { d.grp with q248 := d.grp.q248 ++ [⟨e.v.setWidth 64, e.p⟩] }
  | .q249 => d.setGrp { d.grp with q249 := d.grp.q249 ++ [⟨e.v, e.p⟩] }
  | .q250 => { d with q250 := { ctx := some d.myCtx, entries := d.q250.entries ++ [⟨e.v.setWidth 64, e.p⟩] } }
  | .q251 => { d with q251 := { ctx := some d.myCtx, entries := d.q251.entries ++ [⟨e.v.setWidth 64, e.p⟩] } }
  | .q252 => d.setGrp { d.grp with q252 := d.grp.q252 ++ [e.v.setWidth 64] }

/-- An entry pushed: it can be popped from the next cycle on (R220). -/
def putTail (d : Dev) (e : Entry) (f : Fifo) : Dev :=
  let d := d.putEntry e f
  { d with use := { d.useNow with pushed := Map.upd 0 d.useNow.pushed (d.fifoNum f) (· + 1) } }

/-- A discarded push counted (R218). -/
def countDrop (d : Dev) (q : Nat) (n : Nat) : Dev :=
  d.setQueue q { d.queue q with drop := min 0xFFFF ((d.queue q).drop + n) }

/-- A poisoned entry pushed to another context's consumer commits, in every state of the queue (R222). -/
def pushPoison (d : Dev) (f : Fifo) (p : Bool) : Res Unit :=
  match f with
  | .pool q => if p && (d.queue q).cctx != d.myCtx then commitReg 0 else .ok ()
  | _ => .ok ()

/-- Pushes of one instruction that retires at issue (R218, R220): discarded by a CLOSED or BROKEN queue, waiting for slots and where the
queue has served another push in the cycle, faulting where the queue can never hold them. -/
def pushN (d : Dev) (port : Nat) (f : Fifo) (es : List Entry) : Res Dev := do
  if !d.isOpen f then do
    d.pushPoison f (es.any (·.p))
    match f with
    | .pool q => pure (d.countDrop q es.length)
    | _ => pure d
  else do
    trapIf (d.depthOf f < es.length) 0x16 port
    if d.roomBefore f < es.length || d.servesOther (8 * d.fifoNum f + 1) then waitFor (.queue port)
    else do
      d.pushPoison f (es.any (·.p))
      pure ((es.foldl (fun d e => d.putTail e f) d).serve (8 * d.fifoNum f + 1))

/-- A notification word to q252 of a group; a full queue discards it and marks the next one (R214). -/
def notify (d : Dev) (key : Nat) (w : Nat) : Dev :=
  match Map.find d.groups key with
  | none => d
  | some g =>
    if g.q252.length < 32 then
      d.setGroup key { g with q252 := g.q252 ++ [BitVec.ofNat 64 (w + bit g.q252lost * 2 ^ 63)], q252lost := false }
    else d.setGroup key { g with q252lost := true }

/-- The mode a context may bind a queue in (R225, R234). -/
def widestMode (d : Dev) (ctx q : Nat) : Nat :=
  let x := d.queue q
  if x.state == .free then 0
  else (if x.cctx = ctx then 1 else 0) + (if x.pctx = ctx then 2 else 0)

/-- Whether end-of-work applies to an empty queue (R224). -/
def endOfWork (d : Dev) (f : Fifo) : Bool :=
  !d.isOpen f ||
    (d.grp.marked &&
      match f with
      | .pool q => (d.queue q).kind == 0
      | _ => false)

end Dev
end Sys2Proof.Machine
end

