-- ==== Sys2Proof/Machine/Flags.lean ====
section
/-!
DEFINITION. The sticky floating-point flags of COR_SFLAGS and COR_SVFLAGS (spec/05_scalar.md R89) and the comparisons that
write condition registers (R90 to R92).
-/

namespace Sys2Proof.Machine

/-- Invalid (R89). -/
def fNV : Nat := 16
/-- Finite nonzero divided by zero (R89). -/
def fDZ : Nat := 8
/-- Overflow or integer saturation (R89). -/
def fOF : Nat := 4
/-- Inexact and below the smallest normal (R89). -/
def fUF : Nat := 2
/-- Inexact (R89). -/
def fNX : Nat := 1

/-- The comparison of CMP (R90, R92): EQ, NE, LT, GE, LE, GT, signed or unsigned. -/
def cmpWord (z : Bool) (cond : Nat) (a b : Word) : Bool :=
  let lt (x y : Word) : Bool := if z then x.ult y else x.slt y
  match cond with
  | 0 => a == b
  | 1 => a != b
  | 2 => lt a b
  | 3 => !lt a b
  | 4 => !lt b a
  | _ => lt b a

end Sys2Proof.Machine
end

