-- ==== Sys2Proof/Machine/Float.lean ====
section
/-!
DEFINITION. Number formats and rounding (spec/04_element.md R65 to R81) and the operations of R96 to R99 on values held as
exact fractions. A flag mask is in the order of COR_SFLAGS (R89), with bit 5 for an invalid code (R67).
-/

namespace Sys2Proof.Machine
open Word

/-- An invalid trit code was decoded (R67). -/
def fIC : Nat := 32

/-- An IEEE binary layout (R68) or a narrow one of the same shape (R69): exponent and fraction widths. -/
structure Fmt where
  e : Nat
  m : Nat
  deriving DecidableEq, Repr

def f32 : Fmt := ⟨8, 23⟩
def bf16 : Fmt := ⟨8, 7⟩
def f16 : Fmt := ⟨5, 10⟩
def f64 : Fmt := ⟨11, 52⟩
def e2m3 : Fmt := ⟨2, 3⟩
def e3m2 : Fmt := ⟨3, 2⟩
def e4m3 : Fmt := ⟨4, 3⟩
def e5m2 : Fmt := ⟨5, 2⟩

namespace Fmt

/-- 1 − bias: the exponent of the smallest normal value is `2 - 2^(e-1)` (R68, R69). -/
def bias (f : Fmt) : Nat := 2 ^ (f.e - 1) - 1
/-- The bit position of the sign. -/
def signBit (f : Fmt) : Nat := f.e + f.m
/-- The code of +infinity. -/
def inf (f : Fmt) : Nat := (2 ^ f.e - 1) * 2 ^ f.m
/-- The canonical NaN (R68). -/
def nan (f : Fmt) : Nat := f.inf + 2 ^ (f.m - 1)
/-- A magnitude code with its sign. -/
def sign (f : Fmt) (neg : Bool) (c : Nat) : Nat := c + bit neg * 2 ^ f.signBit

end Fmt

/-- A value: NaN, an infinity, or a signed fraction with a positive denominator; zero keeps its sign. -/
inductive FVal where
  | nan
  | inf (neg : Bool)
  | fin (neg : Bool) (n d : Nat)
  deriving DecidableEq, Repr

namespace FVal

def zero : FVal := .fin false 0 1

def isNan : FVal → Bool
  | .nan => true
  | _ => false

/-- The value of an integer. -/
def ofInt (i : Int) : FVal := .fin (i < 0) i.natAbs 1

/-- The value of a signed integer over `2^k`. -/
def ofScaled (i : Int) (k : Nat) : FVal := .fin (i < 0) i.natAbs (2 ^ k)

def negate : FVal → FVal
  | .nan => .nan
  | .inf s => .inf (!s)
  | .fin s n d => .fin (!s) n d

def magnitude : FVal → FVal
  | .nan => .nan
  | .inf _ => .inf false
  | .fin _ n d => .fin false n d

/-- The signed numerator. -/
def num (s : Bool) (n : Nat) : Int := if s then -(n : Int) else n

/-- The exact sum with the flags of R96: infinity minus infinity is invalid, an exact zero sum of opposite signs is +0. -/
def add : FVal → FVal → FVal × Nat
  | .nan, _ => (.nan, 0)
  | _, .nan => (.nan, 0)
  | .inf s, .inf t => if s == t then (.inf s, 0) else (.nan, fNV)
  | .inf s, _ => (.inf s, 0)
  | _, .inf t => (.inf t, 0)
  | .fin s n d, .fin t k e =>
    if d = e then
      let i := num s n + num t k
      (.fin (if i = 0 then s && t else i < 0) i.natAbs d, 0)
    else
      let i := num s n * e + num t k * d
      (.fin (if i = 0 then s && t else i < 0) i.natAbs (d * e), 0)

/-- The exact product with the flags of R96: zero times infinity is invalid. -/
def mul : FVal → FVal → FVal × Nat
  | .nan, _ => (.nan, 0)
  | _, .nan => (.nan, 0)
  | .inf s, .inf t => (.inf (s != t), 0)
  | .inf s, .fin t n _ => if n = 0 then (.nan, fNV) else (.inf (s != t), 0)
  | .fin s n _, .inf t => if n = 0 then (.nan, fNV) else (.inf (s != t), 0)
  | .fin s n d, .fin t k e => (.fin (s != t) (n * k) (d * e), 0)

/-- The exact quotient with the flags of R96. -/
def div : FVal → FVal → FVal × Nat
  | .nan, _ => (.nan, 0)
  | _, .nan => (.nan, 0)
  | .inf _, .inf _ => (.nan, fNV)
  | .inf s, .fin t _ _ => (.inf (s != t), 0)
  | .fin s _ _, .inf t => (.fin (s != t) 0 1, 0)
  | .fin s n d, .fin t k e =>
    if k = 0 then (if n = 0 then (.nan, fNV) else (.inf (s != t), fDZ))
    else (.fin (s != t) (n * e) (d * k), 0)

/-- `a < b` for values that are no NaN; −0 equals +0. -/
def lt : FVal → FVal → Bool
  | .nan, _ => false
  | _, .nan => false
  | .inf s, .inf t => s && !t
  | .inf s, .fin _ _ _ => s
  | .fin _ _ _, .inf t => !t
  | .fin s n d, .fin t k e => decide (num s n * e < num t k * d)

/-- `a = b` for values that are no NaN. -/
def eq (a b : FVal) : Bool := !a.isNan && !b.isNan && !lt a b && !lt b a

/-- The sign. -/
def neg : FVal → Bool
  | .nan => false
  | .inf s => s
  | .fin s _ _ => s

/-- Whether the value is finite and not zero. -/
def isPlain : FVal → Bool
  | .fin _ n _ => n != 0
  | _ => false

end FVal

/-- The value of a code (R68, R69 without its specials when `ieee` is false). -/
def decodeF (f : Fmt) (ieee : Bool) (c : Nat) : FVal :=
  let s := flag c f.signBit
  let e := fld c f.m f.e
  let m := fld c 0 f.m
  if ieee && e == 2 ^ f.e - 1 then (if m = 0 then .inf s else .nan)
  else
    let k := if e = 0 then m else 2 ^ f.m + m
    let x := if e = 0 then 1 else e
    if f.bias + f.m ≤ x then .fin s (k * 2 ^ (x - f.bias - f.m)) 1 else .fin s k (2 ^ (f.bias + f.m - x))

/-- The floor of log2 of a positive fraction. -/
def ilog2 (n d : Nat) : Int :=
  let k : Int := (n.log2 : Int) - d.log2
  let below := if 0 ≤ k then n < d * 2 ^ k.toNat else n * 2 ^ (-k).toNat < d
  if below then k - 1 else k

/-- Whether a magnitude `N + rem/den` rounds up in magnitude: to nearest even (R74), or by a draw `u` (R81). -/
def roundsUp (u : Option Nat) (neg odd : Bool) (rem den : Nat) : Bool :=
  if rem = 0 then false
  else
    match u with
    | none => den < 2 * rem || (2 * rem == den && odd)
    | some u => if neg then !(u < (den - rem) * 2 ^ 32 / den) else u < rem * 2 ^ 32 / den

/-- Rounding of a finite magnitude to a format as if its exponent had no upper end (R74): the magnitude code, and whether it
is inexact. -/
def roundCode (f : Fmt) (u : Option Nat) (neg : Bool) (n d : Nat) : Nat × Bool :=
  if n = 0 then (0, false)
  else
    let emin : Int := 1 - (f.bias : Int)
    let e := max (ilog2 n d) emin
    let q := e - f.m
    let a := if 0 ≤ q then n else n * 2 ^ (-q).toNat
    let b := if 0 ≤ q then d * 2 ^ q.toNat else d
    let k := a / b
    let r := a % b
    let k' := if roundsUp u neg (k % 2 == 1) r b then k + 1 else k
    ((e - emin).toNat * 2 ^ f.m + k', r != 0)

/-- Rounding to BF16, FP16, FP32 or FP64 with IEEE overflow (R68, R74, R76, R96): the code and its flags. A magnitude beyond
the largest finite value is rounded to nearest whatever the draw (R81). -/
def roundF (f : Fmt) (u : Option Nat) (x : FVal) : Nat × Nat :=
  match x with
  | .nan => (f.nan, 0)
  | .inf s => (f.sign s f.inf, 0)
  | .fin s n d =>
    let (c0, _) := roundCode f none s n d
    let (c, nx) := if (roundCode f (some (2 ^ 32 - 1)) false n d).1 ≥ f.inf - 1 then (c0, (roundCode f none s n d).2)
      else roundCode f u s n d
    if c ≥ f.inf then (f.sign s f.inf, fOF ||| fNX)
    else (f.sign s c, if nx then (if c < 2 ^ f.m then fNX ||| fUF else fNX) else 0)

/-- Rounding to nearest even (R96). -/
def rne (f : Fmt) (x : FVal) : Nat × Nat := roundF f none x

/-- The rounded result of an exact operation, with the operation's own flags. -/
def rneOp (f : Fmt) (x : FVal × Nat) : Nat × Nat :=
  let r := rne f x.1
  (r.1, r.2 ||| x.2)

/-- The value of an IEEE code. -/
def valF (f : Fmt) (c : Nat) : FVal := decodeF f true c

def faddF (f : Fmt) (a b : Nat) : Nat × Nat := rneOp f ((valF f a).add (valF f b))
def fsubF (f : Fmt) (a b : Nat) : Nat × Nat := rneOp f ((valF f a).add (valF f b).negate)
def fmulF (f : Fmt) (a b : Nat) : Nat × Nat := rneOp f ((valF f a).mul (valF f b))
def fdivF (f : Fmt) (a b : Nat) : Nat × Nat := rneOp f ((valF f a).div (valF f b))

/-- a × b + c, rounded once (R96). A NaN operand gives the canonical NaN without a flag, before 0 × ∞ is looked at. -/
def ffmaF (f : Fmt) (a b c : Nat) : Nat × Nat :=
  if (valF f a).isNan || (valF f b).isNan || (valF f c).isNan then (f.nan, 0)
  else
    let p := (valF f a).mul (valF f b)
    let s := p.1.add (valF f c)
    rneOp f (s.1, s.2 ||| p.2)

/-- The integer square root by bits, from bit `k - 1` down. -/
def isqrtFrom (n r : Nat) : Nat → Nat
  | 0 => r
  | k + 1 => isqrtFrom n (if (r + 2 ^ k) * (r + 2 ^ k) ≤ n then r + 2 ^ k else r) k

/-- The floor of the square root. -/
def isqrt (n : Nat) : Nat := isqrtFrom n 0 (n.log2 / 2 + 1)

/-- A square root with `k` fraction bits and one bit that is 1 when the root is not exact: it rounds as the exact root does
in every format with fewer than `k - 2` bits. -/
def sqrtVal (n d k : Nat) : FVal :=
  let k := k + d.log2 + 1
  let v := n * 2 ^ (2 * k) / d
  let r := isqrt v
  let exact := r * r == v && n * 2 ^ (2 * k) % d == 0
  .fin false (2 * r + bit (!exact)) (2 ^ (k + 1))

/-- FSQRT (R96). -/
def fsqrtF (f : Fmt) (a : Nat) : Nat × Nat :=
  match valF f a with
  | .nan => (f.nan, 0)
  | .inf s => if s then (f.nan, fNV) else (f.inf, 0)
  | .fin s n d =>
    if n = 0 then (f.sign s 0, 0)
    else if s then (f.nan, fNV)
    else rne f (sqrtVal n d (f.m + 4))

/-- The smaller operand, −0 below +0; with one NaN the other operand (R96). -/
def fminF (f : Fmt) (a b : Nat) : Nat × Nat :=
  let x := valF f a
  let y := valF f b
  if x.isNan then (if y.isNan then f.nan else b, 0)
  else if y.isNan then (a, 0)
  else if x.lt y || (x.eq y && x.neg) then (a, 0) else (b, 0)

/-- The larger operand (R96). -/
def fmaxF (f : Fmt) (a b : Nat) : Nat × Nat :=
  let x := valF f a
  let y := valF f b
  if x.isNan then (if y.isNan then f.nan else b, 0)
  else if y.isNan then (a, 0)
  else if y.lt x || (x.eq y && !x.neg) then (a, 0) else (b, 0)

/-- The comparison of FCMP and its flags (R97). -/
def fcmpF (f : Fmt) (cond a b : Nat) : Bool × Nat :=
  let x := valF f a
  let y := valF f b
  let un := x.isNan || y.isNan
  match cond with
  | 0 => (x.eq y, 0)
  | 1 => (!x.eq y, 0)
  | 2 => (x.lt y, if un then fNV else 0)
  | 3 => (!un && !x.lt y, if un then fNV else 0)
  | 4 => (!un && !y.lt x, if un then fNV else 0)
  | 5 => (y.lt x, if un then fNV else 0)
  | 6 => (un, 0)
  | _ => (!un, 0)

/-- Conversion to an integer of a range (R74, R76, R78): the integer and the flags; NaN gives 0 with NV (R77). `odd` says of a
magnitude whether its code has bit 0 set, so that a tie goes on to the next. -/
def toIntBy (odd : Nat → Bool) (u : Option Nat) (lo hi : Int) (x : FVal) : Int × Nat :=
  match x with
  | .nan => (0, fNV)
  | .inf s => (if s then lo else hi, fOF)
  | .fin s n d =>
    if FVal.lt x (FVal.ofInt lo) then (lo, fOF)
    else if FVal.lt (FVal.ofInt hi) x then (hi, fOF)
    else
      let k := n / d
      let k' := if roundsUp u s (odd k) (n % d) d then k + 1 else k
      (if s then -(k' : Int) else k', if n % d = 0 then 0 else fNX ||| (if k' = 0 then fUF else 0))

/-- Conversion to an integer whose code is the integer itself. -/
def toIntF (u : Option Nat) (lo hi : Int) (x : FVal) : Int × Nat := toIntBy (fun k => k % 2 == 1) u lo hi x

/-- The FP4 values by code in half units, with the extra value at code 8 (R70). -/
def fp4Half (xv : Int) (c : Nat) : Int :=
  let g : List Int := [0, 1, 2, 3, 4, 6, 8, 12]
  if c = 8 then xv else if c < 8 then g.getD c 0 else -(g.getD (c - 8) 0)

/-- The candidates of a conversion to FP4 (R75): code and value in half units, the extra value only when no grid code holds
it. -/
def fp4Cands (xv : Int) : List (Nat × Int) :=
  let grid := [0, 1, 2, 3, 4, 5, 6, 7, 9, 10, 11, 12, 13, 14, 15].map (fun c => (c, fp4Half xv c))
  if grid.any (fun e => e.2 == xv) then grid else (8, xv) :: grid

/-- Conversion of a fraction to FP4 (R74 to R76): code and flags. -/
def toFp4 (xv : Int) (u : Option Nat) (x : FVal) : Nat × Nat :=
  let cs := fp4Cands xv
  let best (p : Int → Int → Bool) (l : List (Nat × Int)) : Option (Nat × Int) :=
    l.foldl (fun b c => match b with
      | none => some c
      | some b => if p c.2 b.2 then some c else some b) none
  let top := (best (fun a b => b < a) cs).getD (7, 12)
  let bot := (best (fun a b => a < b) cs).getD (15, -12)
  match x with
  | .nan => (0, fNV)
  | .inf s => (if s then bot.1 else top.1, fOF)
  | .fin s n d =>
    let i := FVal.num s n * 2
    if top.2 * d < i then (top.1, fOF)
    else if i < bot.2 * d then (bot.1, fOF)
    else
      let lo := (best (fun a b => b < a) (cs.filter (fun c => decide (c.2 * d ≤ i)))).getD bot
      let hi := (best (fun a b => a < b) (cs.filter (fun c => decide (i ≤ c.2 * d)))).getD top
      if lo.2 * d = i then (lo.1, 0)
      else
        let below := i - lo.2 * d
        let above := hi.2 * d - i
        let up := match u with
          | some u => decide (u < (below.toNat * 2 ^ 32) / (below + above).toNat)
          | none =>
            if below = above then
              if lo.1 = 8 then hi.1 % 2 == 0 else if hi.1 = 8 then lo.1 % 2 == 1 else hi.1 % 2 == 0
            else decide (above < below)
        let c := if up then hi else lo
        (c.1, fNX ||| (if c.2.natAbs < 2 then fUF else 0))

/-- Conversion to a narrow float without infinity codes (R69, R74, R76, R77): the largest magnitude code is `top`. -/
def toNarrow (f : Fmt) (top nan : Nat) (u : Option Nat) (x : FVal) : Nat × Nat :=
  match x with
  | .nan => (nan, fNV)
  | .inf s => (f.sign s top, fOF)
  | .fin s n d =>
    if FVal.lt (decodeF f false top) (.fin false n d) then (f.sign s top, fOF)
    else
      let (c, nx) := roundCode f u s n d
      (f.sign s c, if nx then (if c < 2 ^ f.m then fNX ||| fUF else fNX) else 0)

/-- The value of a block scale (R72); `none` for a reserved code. NaN stands for the NaN block. -/
def scaleVal (c : Nat) : Option FVal :=
  let e := fld c 4 8
  let m := fld c 0 4
  if fld c 0 12 = 0xFFF then some .nan
  else if e = 255 then none
  else if e = 0 then some .zero
  else if 131 ≤ e then some (.fin false ((16 + m) * 2 ^ (e - 131)) 1) else some (.fin false (16 + m) (2 ^ (131 - e)))

/-! ### Transcendental functions, correctly rounded

Fixed point with 256 fraction bits. The error stays below 2^-200, far below what any result of 24 bits needs to be rounded
as the exact value is (PRESUMED, log 18). -/

/-- Fraction bits of the fixed-point values below. -/
def fxBits : Nat := 256
def fxOne : Int := (2 ^ 256 : Nat)
def fxMul (a b : Int) : Int := a * b / fxOne

/-- `Σ z^(2k+1)/(2k+1)` from term `k` on, `fuel` terms. -/
def atanhSum (z2 p acc : Int) (k : Nat) : Nat → Int
  | 0 => acc
  | n + 1 => atanhSum z2 (fxMul p z2) (acc + p / (2 * k + 1)) (k + 1) n

/-- atanh of a fixed-point value of magnitude at most 1/3. -/
def fxAtanh (z : Int) : Int := atanhSum (fxMul z z) z 0 0 90

/-- ln 2 = 2 atanh(1/3). -/
def fxLn2 : Int := 2 * fxAtanh (fxOne / 3)

/-- `Σ r^k/k!` from term `k` on. -/
def expSum (r p acc : Int) (k : Nat) : Nat → Int
  | 0 => acc
  | n + 1 => expSum r (fxMul p r / (k + 1)) (acc + p) (k + 1) n

/-- exp of a fixed-point value of small magnitude. -/
def fxExp (r : Int) : Int := expSum r fxOne 0 0 70

/-- A fixed-point value times `2^k` as a fraction. -/
def fxVal (v k : Int) : FVal :=
  if 0 ≤ k then .fin (v < 0) (v.natAbs * 2 ^ k.toNat) (2 ^ 256) else .fin (v < 0) v.natAbs (2 ^ (256 + (-k).toNat))

/-- 2^x for a fraction, to far more bits than any result holds. Beyond ±2000 the result lies outside every format. -/
def exp2Val (s : Bool) (n d : Nat) : FVal :=
  let i := FVal.num s n
  if i.natAbs > 2000 * d then (if s then .fin false 1 (2 ^ 3000) else .fin false (2 ^ 3000) 1)
  else
    let k := i / (d : Int)
    let fr := (i - k * d) * fxOne / d
    if fr = 0 && i % (d : Int) = 0 then fxVal fxOne k else fxVal (2 * (fxExp (fxMul fr fxLn2) / 2) + 1) k

/-- e^x for a fraction. -/
def expVal (s : Bool) (n d : Nat) : FVal :=
  let i := FVal.num s n
  if n = 0 then .fin false 1 1
  else if i.natAbs > 2000 * d then (if s then .fin false 1 (2 ^ 3000) else .fin false (2 ^ 3000) 1)
  else
    let x := i * fxOne / d
    let k := x / fxLn2
    fxVal (2 * (fxExp (x - k * fxLn2) / 2) + 1) k

/-- log2 of a positive fraction. -/
def log2Val (n d : Nat) : FVal :=
  let k := ilog2 n d
  let a := if 0 ≤ k then n else n * 2 ^ (-k).toNat
  let b := if 0 ≤ k then d * 2 ^ k.toNat else d
  if a = b then .ofInt k
  else
    let z := ((a : Int) - b) * fxOne / ((a : Int) + b)
    let l := 2 * fxAtanh z * fxOne / fxLn2
    .ofScaled (k * fxOne + l) 256

/-! ### Philox-4x32-10 (R81, R355; the algorithm is named, not given: PRESUMED, log 19) -/

/-- One round on the four counter words. -/
def philoxRound (k0 k1 : Nat) (c : Nat × Nat × Nat × Nat) : Nat × Nat × Nat × Nat :=
  let (c0, c1, c2, c3) := c
  let p0 := 0xD2511F53 * c0
  let p1 := 0xCD9E8D57 * c2
  (p1 / 2 ^ 32 ^^^ c1 ^^^ k0, p1 % 2 ^ 32, p0 / 2 ^ 32 ^^^ c3 ^^^ k1, p0 % 2 ^ 32)

/-- The remaining rounds; the key is bumped before every round but the first. -/
def philoxGo (k0 k1 : Nat) (c : Nat × Nat × Nat × Nat) : Nat → Nat × Nat × Nat × Nat
  | 0 => c
  | n + 1 => philoxGo ((k0 + 0x9E3779B9) % 2 ^ 32) ((k1 + 0xBB67AE85) % 2 ^ 32) (philoxRound k0 k1 c) n

/-- Word 0 of Philox-4x32-10 for a 64-bit key and four counter words. -/
def philox (key c0 c1 c2 c3 : Nat) : Nat := (philoxGo (key % 2 ^ 32) (key / 2 ^ 32) (c0, c1, c2, c3) 10).1

end Sys2Proof.Machine
end

