-- ==== Sys2Proof/Machine/Operands.lean ====
section
/-!
DEFINITION. Operand forms of the scalar instructions: which registers are read, and how the result and its poison are
written (spec/05_scalar.md R87, R92).
-/

namespace Sys2Proof.Machine.Dev
open Word

/-- The result of an operation on two registers, with the OR of their poison (R87). -/
def put2 (d : Dev) (fd fa fb : Nat) (f : Word → Word → Word) : Dev :=
  d.setReg fd ⟨f (d.reg fa).v (d.reg fb).v, (d.reg fa).p || (d.reg fb).p⟩

/-- The result of an operation on one register. -/
def put1 (d : Dev) (fd fa : Nat) (f : Word → Word) : Dev := d.setReg fd ⟨f (d.reg fa).v, (d.reg fa).p⟩

/-- A condition from two registers. -/
def putC (d : Dev) (cd fa fb : Nat) (f : Word → Word → Bool) : Dev :=
  d.setCreg cd ⟨f (d.reg fa).v (d.reg fb).v, (d.reg fa).p || (d.reg fb).p⟩

/-- A floating-point result of an operation on values, with its flags, in the S stream (R95, R96). -/
def putF (d : Dev) (fd : Nat) (p : Bool) (r : Nat × Nat) : Dev := (d.setReg fd ⟨BitVec.ofNat 64 r.1, p⟩).raiseS r.2

end Sys2Proof.Machine.Dev
end

