-- ==== Sys2Proof/Machine/ScalarFp.lean ====
section
/-!
DEFINITION. Class 0x1, scalar floating point (spec/05_scalar.md R94 to R99).
-/

namespace Sys2Proof.Machine
open Word

/-- The format of a floating-point type code (R31). -/
def fmtOf (t : Nat) : Fmt :=
  match t with
  | 1 => f32
  | 2 => bf16
  | 3 => f16
  | _ => f64

/-- The low bits of a register that hold a value of a type (R95). -/
def Dev.fp (d : Dev) (t n : Nat) : Nat := (d.reg n).v.toNat % 2 ^ (8 * typeBytes t)

/-- A two-operand operation of class 0x1 (R96). -/
def Dev.fpOp2 (d : Dev) (t fd fa fb : Nat) (f : Fmt → Nat → Nat → Nat × Nat) : Dev :=
  d.putF fd ((d.reg fa).p || (d.reg fb).p) (f (fmtOf t) (d.fp t fa) (d.fp t fb))

/-- FCVT (R98): the result and its flags. -/
def fcvt (td ts : Nat) (a : Word) : Nat × Nat :=
  let x :=
    if ts == 7 then FVal.ofInt (sext a.toNat 32)
    else if ts == 0xA then FVal.ofInt (fld a.toNat 0 32)
    else valF (fmtOf ts) (a.toNat % 2 ^ (8 * typeBytes ts))
  if td == 7 then
    let r := toIntF none (-(2 ^ 31 : Nat)) (2 ^ 31 - 1 : Nat) x
    (Word.ofInt r.1 64, r.2)
  else if td == 0xA then
    let r := toIntF none 0 (2 ^ 32 - 1 : Nat) x
    (r.1.toNat, r.2)
  else rne (fmtOf td) x

/-- FCLASS (R99): the number of the one bit set. -/
def fclass (f : Fmt) (a : Nat) : Nat :=
  let s := flag a f.signBit
  let e := fld a f.m f.e
  let m := fld a 0 f.m
  if e == 2 ^ f.e - 1 then (if m != 0 then 8 else if s then 0 else 7)
  else if e == 0 then (if m == 0 then (if s then 3 else 4) else if s then 2 else 5)
  else if s then 1 else 6

def execFadd (h : Hdr) (t fd fa fb : Nat) (s : State) : Host.Outcome State Fault Refusal :=
  stream h (fun d => .ok (d.fpOp2 t fd fa fb faddF)) s

def execFsub (h : Hdr) (t fd fa fb : Nat) (s : State) : Host.Outcome State Fault Refusal :=
  stream h (fun d => .ok (d.fpOp2 t fd fa fb fsubF)) s

def execFmul (h : Hdr) (t fd fa fb : Nat) (s : State) : Host.Outcome State Fault Refusal :=
  stream h (fun d => .ok (d.fpOp2 t fd fa fb fmulF)) s

def execFfma (h : Hdr) (t fd fa fb fc : Nat) (s : State) : Host.Outcome State Fault Refusal :=
  stream h (fun d => .ok (d.putF fd ((d.reg fa).p || (d.reg fb).p || (d.reg fc).p)
    (ffmaF (fmtOf t) (d.fp t fa) (d.fp t fb) (d.fp t fc)))) s

def execFdiv (h : Hdr) (t fd fa fb : Nat) (s : State) : Host.Outcome State Fault Refusal :=
  stream h (fun d => .ok (d.fpOp2 t fd fa fb fdivF)) s

def execFsqrt (h : Hdr) (t fd fa : Nat) (s : State) : Host.Outcome State Fault Refusal :=
  stream h (fun d => .ok (d.putF fd (d.reg fa).p (fsqrtF (fmtOf t) (d.fp t fa)))) s

def execFmin (h : Hdr) (t fd fa fb : Nat) (s : State) : Host.Outcome State Fault Refusal :=
  stream h (fun d => .ok (d.fpOp2 t fd fa fb fminF)) s

def execFmax (h : Hdr) (t fd fa fb : Nat) (s : State) : Host.Outcome State Fault Refusal :=
  stream h (fun d => .ok (d.fpOp2 t fd fa fb fmaxF)) s

def execFcmp (h : Hdr) (t cond cd fa fb : Nat) (s : State) : Host.Outcome State Fault Refusal :=
  stream h (fun d =>
    let r := fcmpF (fmtOf t) cond (d.fp t fa) (d.fp t fb)
    .ok ((d.setCreg cd ⟨r.1, (d.reg fa).p || (d.reg fb).p⟩).raiseS r.2)) s

def execFcvt (h : Hdr) (td ts fd fa : Nat) (s : State) : Host.Outcome State Fault Refusal :=
  stream h (fun d => .ok (d.putF fd (d.reg fa).p (fcvt td ts (d.reg fa).v))) s

def execFclass (h : Hdr) (t fd fa : Nat) (s : State) : Host.Outcome State Fault Refusal :=
  stream h (fun d => .ok (d.setReg fd ⟨BitVec.ofNat 64 (2 ^ fclass (fmtOf t) (d.fp t fa)), (d.reg fa).p⟩)) s

end Sys2Proof.Machine
end

