-- ==== Sys2Proof/Machine/Rows.lean ====
section
/-!
DEFINITION. Row operands of the V, M and X streams (spec/02_word.md R28, spec/03_register.md R44 to R64, spec/06_row.md R114 to
R117): lanes, masks, sources, destinations, and the recipe tags that reads and writes of rows go through.
-/

namespace Sys2Proof.Machine
open Word

/-- The lane width in bits of a type code (R44). -/
def laneBits (t : Nat) : Nat := 8 * typeBytes t

/-- The lanes of a row for a type (R44). -/
def laneCount (t : Nat) : Nat := 16384 / laneBits t

/-- `n` lanes of `w` bits, lane 0 first (R44). -/
def lanesOf (w n : Nat) (v : RowBits) : List Nat := (List.range n).map (fun i => fld v.toNat (w * i) w)

/-- A number from lanes of `w` bits, lane 0 lowest. -/
def packLanes (w : Nat) : List Nat → Nat
  | [] => 0
  | x :: xs => x % 2 ^ w + 2 ^ w * packLanes w xs

/-- A row from lanes; bytes above them are zero. -/
def rowOf (w : Nat) (ls : List Nat) : RowBits := BitVec.ofNat 16384 (packLanes w ls)

/-- The mask bit that governs a lane (R48). -/
def maskBit (k : MaskBits) (n i : Nat) : Bool := k.getLsbD (if n = 2048 then i / 2 else i)

/-- A mask register from lane results: a bit of a 2048-lane type needs both its lanes (R48, R122). -/
def maskOf (n : Nat) (bs : List Bool) : MaskBits :=
  let bits := if n = 2048 then (List.range 1024).map (fun i => bs.getD (2 * i) false && bs.getD (2 * i + 1) false) else bs
  BitVec.ofNat 1024 (packLanes 1 (bits.map bit))

/-- Whether a type code is one of the integers (R31). -/
def isInt (t : Nat) : Bool := 5 ≤ t && t ≤ 0xA
/-- Whether an integer type code is signed. -/
def isSigned (t : Nat) : Bool := 5 ≤ t && t ≤ 7

/-- The integer of a lane of an integer type. -/
def laneInt (t x : Nat) : Int := if isSigned t then sext x (laneBits t) else (x : Int)

/-- The least and the greatest value of an integer type. -/
def intLo (t : Nat) : Int := if isSigned t then -(2 ^ (laneBits t - 1) : Nat) else 0
def intHi (t : Nat) : Int := if isSigned t then (2 ^ (laneBits t - 1) - 1 : Nat) else (2 ^ laneBits t - 1 : Nat)

/-- Flags of an engine's stream in the order of COR_FFLAGS (R80); `base` is 0 for V, 5 for M, 10 for X. V_DZ is bit 15. -/
def fflagBits (base fl : Nat) : Nat :=
  (bit (flag fl 4) + bit (flag fl 2) * 2 + bit (flag fl 1) * 4 + bit (flag fl 0) * 8 + bit (flag fl 5) * 16) * 2 ^ base
    + (if base = 0 && flag fl 3 then 2 ^ 15 else 0)

/-- The rows a recipe body reads, by its layout fields (R53, R58). -/
def bodySources (ws : List Nat) : List Nat :=
  ws.foldl (fun acc w =>
    let a := fld w 21 12
    let b := fld w 9 12
    let cls := fld w 59 4
    let opc := fld w 52 7
    let usesA := !(cls == 6 && opc == 6)
    let usesB := (cls == 5 && (opc ≤ 5 || opc == 0xC || (0xF ≤ opc && opc ≤ 0x16))) || (cls == 6 && (opc == 7 || opc == 0xD))
    acc ++ (if usesA && a < 2048 then [a] else []) ++ (if usesB && b < 2048 then [b] else [])) []

namespace Dev

/-- Sticky flags of the V, M or X stream (R80). -/
def raiseF (d : Dev) (base fl : Nat) : Dev :=
  d.setGrp (noteFlags { d.grp with fflags := d.grp.fflags ||| fflagBits base fl } d.time (fflagBits base fl) 0)

/-- A row of the group. -/
def row (d : Dev) (r : Nat) : Row := Map.get {} d.grp.rows r

/-- The row with a number of a group. -/
def rowIn (g : Group) (r : Nat) : Row := Map.get {} g.rows r

/-- The recipe identifier of a row's tag. -/
def RowTag.id? : RowTag → Option Nat
  | .live => none
  | .tagged i => some i
  | .dropped i => some i

/-- Whether a row is dropped (R64). -/
def isDropped (x : Row) : Bool :=
  match x.tag with
  | .dropped _ => true
  | _ => false

/-- The tagged rows of a group whose recipe reads a row directly (R61). -/
def dependents (g : Group) (r : Nat) : List Nat :=
  (g.rows.filter (fun e => match RowTag.id? e.2.tag with
    | some i => (bodySources (Map.get {} g.recipes i).words).contains r
    | none => false)).map (·.1)

/-- The type code at issue: code 0 is the view's type, and a type the instruction does not accept is cause 0x02 (R114). -/
def vtype (d : Dev) (types : List Nat) (t : Nat) : Res Nat :=
  let r := if t = 0 then d.grp.view.etype else t
  if types.contains r then .ok r else trap 2 d.cur.pc.toNat

/-- A row operand inside the window (R28). -/
def inBounds (d : Dev) (r : Nat) : Res Unit := trapIf (d.grp.rowsN ≤ r) 4 d.cur.pc.toNat

/-- A row read (R49): a dropped row waits for its replay (R63). Against an unordered write of another stream it gives the whole old or
the whole new row, never a mixture of quarters, which is one of the results that R50 allows (DESIGN CHOICE, log 85). -/
def readRow (d : Dev) (r : Nat) : Res RowData := do
  d.inBounds r
  if isDropped (d.row r) then waitFor (.replay r [])
  else pure ⟨(d.row r).v, (d.row r).p⟩

/-- A source specifier (R28): a row, a port that pops, or a constant row. -/
def src (d : Dev) (s : Nat) : Res (RowData × Dev) :=
  if s < 0x800 then do
    let r ← d.readRow s
    pure (r, d)
  else if s < 0x900 then do
    let f ← d.resolve (s - 0x800) false true .operand
    let (e, d) ← d.pop1 (s - 0x800) f
    pure (⟨e.v, e.p⟩, d)
  else if s = 0xA00 then .ok ({}, d)
  else if s = 0xA01 then .ok (⟨BitVec.allOnes 16384, false⟩, d)
  else trap 4 d.cur.pc.toNat

/-- Granules that a group takes on its core: those of its window that are not lent (R42, R62). -/
def granulesOf (g : Group) : Nat := g.rowsN / 32 - g.lent.length

/-- Free granules of a core (R42). -/
def freeGranules (d : Dev) (core : Nat) : Nat := 64 - sumOf (fun s => granulesOf (d.group s.2)) (d.core core).slots

/-- Granules of a group whose 32 rows are all tagged and that are not lent (R62), none of them written, retagged or read in the present
cycle (R64). -/
def lendable (g : Group) (now : Nat) : List Nat :=
  (List.range (g.rowsN / 32)).filter (fun k => !g.lent.contains k
    && !(today g now).rows.any (fun r => r / 32 == k)
    && (List.range 32).all (fun j => (RowTag.id? (rowIn g (32 * k + j)).tag).isSome))

/-- A granule lent: its tagged rows are dropped (R62). -/
def lend (d : Dev) (key k : Nat) : Dev :=
  let g := d.group key
  d.setGroup key { g with
    lent := g.lent ++ [k],
    rows := g.rows.map (fun (e : Nat × Row) => match e.2.tag with
      | .tagged i => if e.1 / 32 = k then (e.1, { e.2 with v := 0, tag := .dropped i }) else e
      | _ => e) }

/-- A granule `k` of a group's window reclaimed (R63): a free granule of the core, else a fully tagged granule of the group of lowest
priority, which is dropped for it; `none` when there is neither. Of groups of one priority the first slot gives it, and of a group its
lowest granule (log 90). Granules in `keep` of the group itself are needed and stay. LENT
counts a granule until it is reclaimed or its group is suspended, also when the borrower has left the core: no rule ends the loan
then (DESIGN CHOICE, log 85). -/
def reclaim (d : Dev) (key : Nat) (keep : List Nat) (k : Nat) : Option Dev :=
  let g := d.group key
  if !g.lent.contains k then some d
  else
    let back (d : Dev) : Dev := d.setGroup key { d.group key with lent := (d.group key).lent.filter (· != k) }
    let lends (x : Nat) : List Nat := (lendable (d.group x) d.time).filter (fun j => x != key || !keep.contains j)
    if 0 < d.freeGranules g.core then some (back d)
    else
      let ks := (((d.core g.core).slots).map (·.2)).filter (fun x => !(lends x).isEmpty)
      match ks.foldl (fun (b : Option Nat) x => match b with
          | none => some x
          | some y => if (d.ctx (ctxOf x)).prio < (d.ctx (ctxOf y)).prio then some x else some y) none with
      | none => none
      | some x =>
        match lends x with
        | [] => none
        | j :: _ => some (back (d.lend x j))

/-- Granules reclaimed in order. -/
def reclaimAll (d : Dev) (key : Nat) (keep : List Nat) : List Nat → Option Dev
  | [] => some d
  | k :: ks => (d.reclaim key keep k).bind (fun d => reclaimAll d key keep ks)

/-- What a write does to tags (R61, R64): the row and the rows that read it lose theirs. A dropped one among them is replayed
first, except a row that is written whole: that one only needs its granule back, because a granule is lent only while all its rows
are dropped (R62). -/
def clearTags (d : Dev) (r : Nat) (full : Bool) : Res Dev :=
  let g := d.grp
  if isDropped (d.row r) && !full then waitFor (.replay r [])
  else
    let deps := dependents g r
    match deps.find? (fun x => isDropped (rowIn g x)) with
    | some x => if x = r then waitFor (.replay r []) else waitFor (.replay x [])
    | none =>
      match (if isDropped (d.row r) then d.reclaim d.cur.key ((r :: deps).map (· / 32)) (r / 32) else some d) with
      | none => waitFor (.granule r)
      | some d =>
        let clear (m : Map Row) (x : Nat) : Map Row := Map.upd {} m x (fun y => { y with tag := .live })
        .ok (d.setGrp { d.grp with rows := (r :: deps).foldl clear d.grp.rows })

/-- A row write with its poison (R51) and its tags. Of two writes in one cycle (R64) the whole row of the later one stands
(DESIGN CHOICE, log 85). -/
def writeRow (d : Dev) (r : Nat) (v : RowBits) (p full : Bool) : Res Dev := do
  d.inBounds r
  let d ← d.clearTags r full
  let x := d.row r
  let d := d.setGrp { d.grp with rows := Map.set d.grp.rows r { x with v := v, p := if full then p else p || x.p, sat := false, dirty := true } }
  pure { d with cur := { d.cur with wrote := r :: d.cur.wrote } }

/-- What a destination held before: the row, or zeros for a port (R115). -/
def old (d : Dev) (s : Nat) (full : Bool) : Res RowBits :=
  if s < 0x800 then do
    d.inBounds s
    if !full && isDropped (d.row s) then waitFor (.replay s []) else pure (d.row s).v
  else .ok 0

/-- A result written to a destination specifier (R28): a row, or one entry pushed. -/
def dst (d : Dev) (s : Nat) (v : RowBits) (p full : Bool) : Res Dev :=
  if s < 0x800 then d.writeRow s v p full
  else if s < 0x900 then do
    let f ← d.resolve (s - 0x800) true true .operand
    d.pushN (s - 0x800) f [⟨v, p⟩]
  else trap 4 d.cur.pc.toNat

/-- Whether each lane of `n` is active under a mask field (R115). -/
def active (d : Dev) (v : VField) (n : Nat) : List Bool :=
  if v.me then (List.range n).map (fun i => maskBit (d.kreg v.k).v n i) else List.replicate n true

/-- The poison of the mask register that governs an instruction (R116). -/
def maskP (d : Dev) (v : VField) : Bool := v.me && (d.kreg v.k).p

end Dev
end Sys2Proof.Machine
end

