-- ==== Sys2Proof/Machine/Lanes.lean ====
section
/-!
DEFINITION. What the vector instructions compute on rows, without their operands (spec/06_row.md R119 to R127, R133 to R143).
A row function takes the type, the active lanes, the sources and the old destination; recipe replay runs the same functions.
-/

namespace Sys2Proof.Machine
open Word

/-- The result of a row function: the row, flags in the order of R89 (bit 5 an invalid code), invalid codes, and whether every
lane of the row was written. -/
structure RowRes where
  v : RowBits
  fl : Nat := 0
  ic : Nat := 0
  full : Bool := true
  deriving DecidableEq, Repr

/-- A row function: type, active lanes, first source, second source, old destination. -/
abbrev RowFn := Nat → List Bool → RowBits → RowBits → RowBits → RowRes

/-- Lane results put together: inactive lanes keep the old value and set no flag (R115). -/
def mergeLanes : List Bool → List Nat → List (Nat × Nat) → List Nat × Nat
  | a :: as, o :: os, r :: rs =>
    let m := mergeLanes as os rs
    if a then (r.1 :: m.1, r.2 ||| m.2) else (o :: m.1, m.2)
  | _, os, _ => (os, 0)

/-- An element-wise row function (R119). -/
def lanewise (f : Nat → Nat → Nat → Nat → Nat × Nat) : RowFn := fun t act a b old =>
  let w := laneBits t
  let n := laneCount t
  let la := lanesOf w n a
  let lb := lanesOf w n b
  let lo := lanesOf w n old
  let rs := (la.zip (lb.zip lo)).map (fun x => f t x.1 x.2.1 x.2.2)
  let m := mergeLanes act lo rs
  { v := rowOf w m.1, fl := m.2, full := act.all id }

/-- A lane function on two sources. -/
def lane2 (f : Nat → Nat → Nat → Nat × Nat) : RowFn := lanewise (fun t a b _ => f t a b)

/-- A lane function on one source. -/
def lane1 (f : Nat → Nat → Nat × Nat) : RowFn := lanewise (fun t a _ _ => f t a)

/-- The low bits of an integer as a lane (R119 wrap). -/
def wrap (t : Nat) (i : Int) : Nat := Word.ofInt i (laneBits t)

/-- VADD, VSUB, VMUL and VFMA on one lane (R119). -/
def laneAdd (t a b : Nat) : Nat × Nat := faddF (fmtOf t) a b
def laneSub (t a b : Nat) : Nat × Nat := fsubF (fmtOf t) a b
def laneMul (t a b : Nat) : Nat × Nat := fmulF (fmtOf t) a b
def laneFma (t a b o : Nat) : Nat × Nat := ffmaF (fmtOf t) a b o
def rowAdd : RowFn := lane2 laneAdd
def rowSub : RowFn := lane2 laneSub
def rowMul : RowFn := lane2 laneMul
def rowFma : RowFn := lanewise laneFma

/-- VMIN (R119): as FMIN on floats, by the type on integers. -/
def laneMin (t a b : Nat) : Nat × Nat :=
  if isInt t then (if laneInt t b < laneInt t a then b else a, 0) else fminF (fmtOf t) a b
/-- VMAX (R119). -/
def laneMax (t a b : Nat) : Nat × Nat :=
  if isInt t then (if laneInt t a < laneInt t b then b else a, 0) else fmaxF (fmtOf t) a b
def rowMin : RowFn := lane2 laneMin
def rowMax : RowFn := lane2 laneMax

/-- VABS (R119). -/
def laneAbs (t a : Nat) : Nat × Nat :=
  if isInt t then (wrap t (laneInt t a).natAbs, 0)
  else if (valF (fmtOf t) a).isNan then ((fmtOf t).nan, 0) else (fld a 0 (fmtOf t).signBit, 0)
/-- VNEG (R119). -/
def laneNeg (t a : Nat) : Nat × Nat :=
  if isInt t then (wrap t (-(laneInt t a)), 0)
  else if (valF (fmtOf t) a).isNan then ((fmtOf t).nan, 0) else (a ^^^ 2 ^ (fmtOf t).signBit, 0)
def rowAbs : RowFn := lane1 laneAbs
def rowNeg : RowFn := lane1 laneNeg

/-- VEXP2 (R120). -/
def laneExp2 (t a : Nat) : Nat × Nat :=
  match valF (fmtOf t) a with
  | .nan => ((fmtOf t).nan, 0)
  | .inf s => (if s then 0 else (fmtOf t).inf, 0)
  | .fin s n d => if n = 0 then rne (fmtOf t) (.fin false 1 1) else rne (fmtOf t) (exp2Val s n d)
/-- VLOG2 (R120). -/
def laneLog2 (t a : Nat) : Nat × Nat :=
  match valF (fmtOf t) a with
  | .nan => ((fmtOf t).nan, 0)
  | .inf s => if s then ((fmtOf t).nan, fNV) else ((fmtOf t).inf, 0)
  | .fin s n d =>
    if n = 0 then ((fmtOf t).sign true (fmtOf t).inf, fDZ)
    else if s then ((fmtOf t).nan, fNV)
    else rne (fmtOf t) (log2Val n d)
/-- VRCP (R120). -/
def laneRcp (t a : Nat) : Nat × Nat :=
  match valF (fmtOf t) a with
  | .nan => ((fmtOf t).nan, 0)
  | .inf s => ((fmtOf t).sign s 0, 0)
  | .fin s n d => if n = 0 then ((fmtOf t).sign s (fmtOf t).inf, fDZ) else rne (fmtOf t) (.fin s d n)
/-- VRSQ (R120). -/
def laneRsq (t a : Nat) : Nat × Nat :=
  match valF (fmtOf t) a with
  | .nan => ((fmtOf t).nan, 0)
  | .inf s => if s then ((fmtOf t).nan, fNV) else (0, 0)
  | .fin s n d =>
    if n = 0 then ((fmtOf t).sign s (fmtOf t).inf, fDZ)
    else if s then ((fmtOf t).nan, fNV)
    else rne (fmtOf t) (sqrtVal d n ((fmtOf t).m + 4))
def rowExp2 : RowFn := lane1 laneExp2
def rowLog2 : RowFn := lane1 laneLog2
def rowRcp : RowFn := lane1 laneRcp
def rowRsq : RowFn := lane1 laneRsq

/-- A lane widened exactly to FP32 (R121, R126). -/
def toF32 (t x : Nat) : Nat := if t = 1 then x else if t = 2 then x * 65536 else (rne f32 (valF (fmtOf t) x)).1

/-- An FP32 value rounded to a type (R121, R126). -/
def fromF32 (t x : Nat) : Nat × Nat := if t = 1 then (if (valF f32 x).isNan then f32.nan else x, 0) else rne (fmtOf t) (valF f32 x)

/-- VTBI on one lane (R121): `tb i` is lane `i` of the table as FP32. -/
def laneTbi (tb : Nat → Nat) (t a : Nat) : Nat × Nat :=
  let x := toF32 t a
  if (valF f32 x).isNan then ((fmtOf t).nan, 0)
  else
    let r1 := fsubF f32 x (tb 0)
    let r2 := fmulF f32 r1.1 (tb 1)
    let fl := r1.2 ||| r2.2
    match valF f32 r2.1 with
    | .nan => ((fmtOf t).nan, fl)
    | u =>
      let u : Nat × Nat := match u with
        | .inf s => if s then (0, 1) else (256, 1)
        | .fin s n d => if s then (0, 1) else if 256 * d < n then (256, 1) else (n, d)
        | .nan => (0, 1)
      let j := min (u.1 / u.2) 255
      let f : FVal := .fin false (u.1 - j * u.2) u.2
      let dy := fsubF f32 (tb (3 + j)) (tb (2 + j))
      let y := valF f32 (tb (2 + j))
      let r :=
        if (valF f32 dy.1).isNan || y.isNan then (f32.nan, 0)
        else
          let p := f.mul (valF f32 dy.1)
          let s := p.1.add y
          rneOp f32 (s.1, s.2 ||| p.2)
      let e := fromF32 t r.1
      (e.1, fl ||| dy.2 ||| r.2 ||| e.2)

/-- VTBI (R121): the table row is read as FP32. -/
def rowTbi : RowFn := fun t act a b old => lane1 (laneTbi (fun i => fld b.toNat (32 * i) 32)) t act a 0 old

/-- VIADD to VXOR on one lane (R119). -/
def laneIadd (t a b : Nat) : Nat × Nat := ((a + b) % 2 ^ laneBits t, 0)
def laneIsub (t a b : Nat) : Nat × Nat := ((a + 2 ^ laneBits t - b) % 2 ^ laneBits t, 0)
def laneImul (t a b : Nat) : Nat × Nat := (a * b % 2 ^ laneBits t, 0)
def laneAnd (_ a b : Nat) : Nat × Nat := (a &&& b, 0)
def laneOr (_ a b : Nat) : Nat × Nat := (a ||| b, 0)
def laneXor (_ a b : Nat) : Nat × Nat := (a ^^^ b, 0)
/-- VSHL (R119). -/
def laneShl (t a b : Nat) : Nat × Nat := (if laneBits t ≤ b then 0 else a * 2 ^ b % 2 ^ laneBits t, 0)
/-- VSHR (R119). -/
def laneShr (t a b : Nat) : Nat × Nat :=
  (if laneBits t ≤ b then (if isSigned t && flag a (laneBits t - 1) then 2 ^ laneBits t - 1 else 0)
   else wrap t (laneInt t a / (2 ^ b : Nat)), 0)
def rowIadd : RowFn := lane2 laneIadd
def rowIsub : RowFn := lane2 laneIsub
def rowImul : RowFn := lane2 laneImul
def rowAnd : RowFn := lane2 laneAnd
def rowOr : RowFn := lane2 laneOr
def rowXor : RowFn := lane2 laneXor
def rowShl : RowFn := lane2 laneShl
def rowShr : RowFn := lane2 laneShr

/-- One lane comparison of VCMP (R122) and its flags. -/
def laneCmp (cond t a b : Nat) : Bool × Nat :=
  if isInt t then
    let x := laneInt t a
    let y := laneInt t b
    (match cond with
      | 0 => x == y
      | 1 => x != y
      | 2 => decide (x < y)
      | 3 => decide (y ≤ x)
      | 4 => decide (x ≤ y)
      | _ => decide (y < x), 0)
  else fcmpF (fmtOf t) cond a b

/-! ### Reductions and scans (R126, R127) -/

/-- One level of the summation tree: neighbours added in FP32. -/
def pairUp : List Nat → List Nat × Nat
  | a :: b :: xs =>
    let r := faddF f32 a b
    let m := pairUp xs
    (r.1 :: m.1, r.2 ||| m.2)
  | xs => (xs, 0)

/-- The fixed tree of R126: `k` levels. -/
def treeSum (xs : List Nat) (fl : Nat) : Nat → Nat × Nat
  | 0 => (xs.headD 0, fl)
  | k + 1 =>
    let m := pairUp xs
    treeSum m.1 (fl ||| m.2) k

/-- An integer clamped to a type, with V_OF on a clamp (R126, R127). -/
def clampInt (t : Nat) (i : Int) : Nat × Nat :=
  if i < intLo t then (wrap t (intLo t), fOF) else if intHi t < i then (wrap t (intHi t), fOF) else (wrap t i, 0)

/-- The lanes with their numbers that are active. -/
def activeLanes (act : List Bool) (xs : List Nat) : List (Nat × Nat) :=
  (((List.range xs.length).zip xs).zip act).filterMap (fun e => if e.2 then some e.1 else none)

/-- What RMAX or RMIN gives with no active lane (R126): the far end of the type. -/
def identOf (t op : Nat) : Nat :=
  match op with
  | 0 => 0
  | 1 => if isInt t then wrap t (intLo t) else (fmtOf t).sign true (fmtOf t).inf
  | _ => if isInt t then wrap t (intHi t) else (fmtOf t).inf

/-- The lowest index of the maximum (R126): NaN lanes ignored, −0 below +0; −1 when none. -/
def argMax (t : Nat) (xs : List (Nat × Nat)) : Int :=
  let better (x y : Nat) : Bool :=
    if isInt t then decide (laneInt t y < laneInt t x)
    else
      let a := valF (fmtOf t) x
      let b := valF (fmtOf t) y
      b.lt a || (a.eq b && b.neg && !a.neg)
  let ys := if isInt t then xs else xs.filter (fun e => !(valF (fmtOf t) e.2).isNan)
  match ys.foldl (fun (b : Option (Nat × Nat)) e => match b with
      | none => some e
      | some m => if better e.2 m.2 then some e else some m) none with
  | none => -1
  | some e => e.1

/-- VRED (R126). -/
def rowRed (op : Nat) : RowFn := fun t act a _ _ =>
  let w := laneBits t
  let n := laneCount t
  let xs := lanesOf w n a
  let on := activeLanes act xs
  let r : Nat × Nat :=
    match op with
    | 0 =>
      if isInt t then clampInt t (on.foldl (fun s e => s + laneInt t e.2) 0)
      else
        let ys := (xs.zip act).map (fun e => if e.2 then toF32 t e.1 else 0)
        let m := treeSum ys 0 n.log2
        let e := fromF32 t m.1
        (e.1, m.2 ||| e.2)
    | 1 => (match on with
      | [] => identOf t 1
      | e :: es => es.foldl (fun m x => (laneMax t m x.2).1) (laneMax t e.2 e.2).1, 0)
    | 2 => (match on with
      | [] => identOf t 2
      | e :: es => es.foldl (fun m x => (laneMin t m x.2).1) (laneMin t e.2 e.2).1, 0)
    | _ => (Word.ofInt (argMax t on) 32, 0)
  { v := BitVec.ofNat 16384 r.1, fl := r.2 }

/-- One step of a float scan in FP32 (R127). -/
def scanOpF (op a b : Nat) : Nat × Nat :=
  match op with
  | 0 => faddF f32 a b
  | 1 => fmaxF f32 a b
  | _ => fminF f32 a b

/-- A float scan (R127): the running value, none before the first active lane. -/
def scanF (t op : Nat) (x : Bool) : List (Bool × Nat) → Option Nat → List Nat × Nat
  | [], _ => ([], 0)
  | (on, v) :: rest, acc =>
    let ident := toF32 1 (identOf 1 op)
    let v := toF32 t v
    let step : Option Nat × Nat :=
      if on then
        match acc with
        | none => (some v, 0)
        | some m => let r := scanOpF op m v; (some r.1, r.2)
      else (acc, 0)
    let out := fromF32 t ((if x && on then acc else step.1).getD ident)
    let m := scanF t op x rest step.1
    (out.1 :: m.1, out.2 ||| step.2 ||| m.2)

/-- An integer scan (R127), exact in between. -/
def scanI (t op : Nat) (x : Bool) : List (Bool × Nat) → Option Int → List Nat × Nat
  | [], _ => ([], 0)
  | (on, v) :: rest, acc =>
    let ident := laneInt t (identOf t op)
    let i := laneInt t v
    let next : Option Int :=
      if on then
        match acc with
        | none => some i
        | some m => some (match op with
          | 0 => m + i
          | 1 => max m i
          | _ => min m i)
      else acc
    let out := clampInt t ((if x && on then acc else next).getD ident)
    let m := scanI t op x rest next
    (out.1 :: m.1, out.2 ||| m.2)

/-- VSCAN (R127). -/
def rowScan (op : Nat) (x : Bool) : RowFn := fun t act a _ _ =>
  let w := laneBits t
  let xs := act.zip (lanesOf w (laneCount t) a)
  let m := if isInt t then scanI t op x xs none else scanF t op x xs none
  { v := rowOf w m.1, fl := m.2 }

/-! ### Moves (R133 to R137) -/

def rowMov : RowFn := lane1 (fun _ a => (a, 0))

/-- VBCAST of one value (R133). -/
def rowBcast (x : Nat) : RowFn := lanewise (fun _ _ _ _ => (x, 0))

/-- VIOTA (R133). -/
def rowIota (start : Int) : RowFn := fun t act _ _ old =>
  let w := laneBits t
  let n := laneCount t
  let m := mergeLanes act (lanesOf w n old) ((List.range n).map (fun (i : Nat) => (wrap t (start + (i : Int)), 0)))
  { v := rowOf w m.1, full := act.all id }

/-- VPERM (R134): the first source holds the indices. -/
def rowPerm : RowFn := fun t act a b old =>
  let w := laneBits t
  let n := laneCount t
  lane1 (fun _ x => (if x < n then fld b.toNat (w * x) w else 0, 0)) t act a 0 old

/-- VCMPR (R135), and how many lanes it kept. -/
def rowCmpr : RowFn := fun t act a _ _ =>
  let w := laneBits t
  { v := rowOf w ((activeLanes act (lanesOf w (laneCount t) a)).map (·.2)) }

/-- Lanes handed out in order to the active places (R135). -/
def expandLanes : List Bool → List Nat → List Nat → List Nat
  | true :: as, _ :: os, x :: xs => x :: expandLanes as os xs
  | false :: as, o :: os, xs => o :: expandLanes as os xs
  | _, os, _ => os

/-- VXPND (R135). -/
def rowXpnd : RowFn := fun t act a _ old =>
  let w := laneBits t
  let n := laneCount t
  { v := rowOf w (expandLanes act (lanesOf w n old) (lanesOf w n a)), full := act.all id }

/-- VHIST (R136): bins 0 to 255 of the old destination counted up. -/
def rowHist (pos : Nat) : RowFn := fun t act a _ old =>
  let w := laneBits t
  let ds := (activeLanes act (lanesOf w (laneCount t) a)).map (fun e => fld e.2 pos 8)
  let v := ds.foldl (fun v dgt => setFld v (32 * dgt) 32 (fld v (32 * dgt) 32 + 1)) old.toNat
  { v := BitVec.ofNat 16384 v, full := false }

/-- VRADIX on one lane (R137). -/
def laneRadix (inv desc : Bool) (t x : Nat) : Nat :=
  let w := laneBits t
  let top := 2 ^ (w - 1)
  let nt (y : Nat) : Nat := 2 ^ w - 1 - y
  let x := if inv && desc then nt x else x
  let r :=
    if t ≤ 4 then
      if inv then (if flag x (w - 1) then x ^^^ top else nt x) else if flag x (w - 1) then nt x else x ^^^ top
    else if isSigned t then x ^^^ top else x
  if !inv && desc then nt r else r

def rowRadix (inv desc : Bool) : RowFn := lane1 (fun t a => (laneRadix inv desc t a, 0))

/-! ### Narrow formats (R138 to R143) -/

/-- The bits of an element of a narrow format (R138). -/
def narrowBits (fmt : Nat) : Nat :=
  match fmt with
  | 0 => 2
  | 1 | 2 | 3 => 4
  | 4 | 5 => 6
  | _ => 8

/-- The value of a trit code and whether it is the reserved one (R66). -/
def trit (c : Nat) : Int × Nat :=
  match c % 4 with
  | 0 => (0, 0)
  | 1 => (1, 0)
  | 3 => (-1, 0)
  | _ => (0, 1)

/-- The value of a narrow code and its invalid-code events (R65, R66, R69, R70). -/
def narrowVal (fmt : Nat) (xv : Int) (c : Nat) : FVal × Nat :=
  match fmt with
  | 0 => (FVal.ofInt (trit c).1, (trit c).2)
  | 1 => (FVal.ofInt (3 * (trit (c / 4)).1 + (trit c).1), (trit (c / 4)).2 + (trit c).2)
  | 2 => (FVal.ofInt (sext c 4), 0)
  | 3 => (FVal.ofScaled (fp4Half xv c) 1, 0)
  | 4 => (decodeF e2m3 false c, 0)
  | 5 => (decodeF e3m2 false c, 0)
  | 6 => (if c % 128 = 127 then .nan else decodeF e4m3 false c, 0)
  | 7 => (decodeF e5m2 true c, 0)
  | _ => (FVal.ofInt (sext c 8), 0)

/-- Conversion of a value to a narrow code (R74 to R77), ternary and T2 by their integer range. The codes of T2 with bit 0 clear are
those of 0, 3 and -3, to which ties go; a tie at 1.5 or -1.5 lies between two codes with bit 0 set, which the rule does not decide,
and goes to 2 or -2 (DESIGN CHOICE, log 85). -/
def toNarrowCode (fmt : Nat) (xv : Int) (u : Option Nat) (x : FVal) : Nat × Nat :=
  match fmt with
  | 0 =>
    let r := toIntF u (-1) 1 x
    (Word.ofInt r.1 2, r.2)
  | 1 =>
    let r := toIntBy (fun k => k % 3 != 0) u (-4) 4 x
    let t1 := (r.1 + 1) / 3
    (Word.ofInt (r.1 - 3 * t1) 2 + 4 * Word.ofInt t1 2, r.2)
  | 2 =>
    let r := toIntF u (-8) 7 x
    (Word.ofInt r.1 4, r.2)
  | 3 => toFp4 xv u x
  | 4 => toNarrow e2m3 0x1F 0 u x
  | 5 => toNarrow e3m2 0x1F 0 u x
  | 6 => toNarrow e4m3 0x7E 0x7F u x
  | 7 => toNarrow e5m2 0x7B 0x7E u x
  | _ =>
    let r := toIntF u (-128) 127 x
    (Word.ofInt r.1 8, r.2)

/-- One element of a block conversion (R79): code, flags, whether it counts as an underflow, whether it makes a NaN block. FP8 has NaN
codes of its own, so that a NaN makes no NaN block there (R77); under a zero scale the code written is zero all the same (R79). In the
other targets a NaN element under a zero scale matches two rows of the table of R79; it makes a NaN block (DESIGN CHOICE, log 90). -/
def blockElem (fmt : Nat) (xv : Int) (scale : FVal) (u : Option Nat) (x : FVal) : Nat × Nat × Nat × Bool :=
  match x with
  | .nan =>
    if fmt = 6 || fmt = 7 then (if scale.isPlain then (toNarrowCode fmt xv u .nan).1 else 0, fNV, 0, false)
    else (0, fNV, 0, true)
  | .inf s => if scale.isPlain || scale.isNan then
      (let r := toNarrowCode fmt xv u (.inf s); (r.1, r.2, 0, false)) else (0, fOF, 0, false)
  | .fin s n d =>
    match scale with
    | .fin _ k e =>
      if k = 0 then (0, if n = 0 then 0 else fUF ||| fNX, bit (n != 0), false)
      else
        let r := toNarrowCode fmt xv u (.fin s (n * e) (d * k))
        (r.1, r.2, bit (n != 0 && !((narrowVal fmt xv r.1).1).isPlain), false)
    | _ =>
      -- the block starts in NAN: the flags of the element are those of a scale of 1 (log 22)
      let r := toNarrowCode fmt xv u (.fin s n d)
      (r.1, r.2, 0, false)

/-- The MAX field of a block (R139) from the FP32 magnitudes of its sources. -/
def blockMax (xs : List Nat) : Nat :=
  if xs.any (fun x => fld x 23 8 == 255) then 0x3FFF
  else fld (xs.foldl (fun m x => max m (fld x 0 31)) 0) 17 14

/-- A block of 32 conversions (R79): codes, flags, underflow count, scale code written; a zero scale is written as 0 (R72). -/
def packBlock (fmt : Nat) (xv : Int) (c : Nat) (scale : FVal) (us : Nat → Option Nat) (xs : List FVal) :
    List Nat × Nat × Nat × Nat :=
  let es := ((List.range xs.length).zip xs).map (fun e => blockElem fmt xv scale (us e.1) e.2)
  let fl := es.foldl (fun f e => f ||| e.2.1) 0
  if scale.isNan || es.any (·.2.2.2) then (es.map (fun _ => 0), fl, 0, 0xFFF)
  else (es.map (·.1), fl, sumOf (fun e => e.2.2.1) es, if scale.isPlain then c else 0)

/-- VPACK (R140): the packed row and the new scale row; `none` for a reserved scale. `u i` is the draw of lane `i`. -/
def rowPack (fmt : Nat) (xv : Int) (u : Nat → Option Nat) (t : Nat) (a s : RowBits) : Option (RowRes × RowBits) :=
  let w := laneBits t
  let n := laneCount t
  let xs := lanesOf w n a
  let bs := (List.range (n / 32)).map (fun b =>
    let c := fld s.toNat (32 * b) 12
    (scaleVal c).map (fun sv =>
      let ys := (xs.drop (32 * b)).take 32
      let r := packBlock fmt xv c sv (fun j => u (32 * b + j)) (ys.map (valF (fmtOf t)))
      (r.1, r.2.1, blockMax (ys.map (toF32 t)) * 2 ^ 18 + r.2.2.1 * 2 ^ 12 + r.2.2.2)))
  if bs.any (·.isNone) then none
  else
    let rs := bs.map (·.getD ([], 0, 0))
    let codes := (rs.map (·.1)).flatten
    let lanes := rs.map (·.2.2)
    let scales := lanes ++ (lanesOf 32 512 s).drop lanes.length
    some ({ v := rowOf (narrowBits fmt) codes, fl := rs.foldl (fun f r => f ||| r.2.1) 0 }, rowOf 32 scales)

/-- Whether a value is nonzero and below the normal range of FP32 (R73). -/
def belowNormal : FVal → Bool
  | .fin _ n d => n != 0 && n * 2 ^ 126 < d
  | _ => false

/-- The value of an element of a block (R73): FP32 code, flags, invalid-code events. A product below the normal range sets UF, exact or
not. Reserved trit codes count also under a zero scale, where R73 does not decode the code and R141 counts it (DESIGN CHOICE, log
85). -/
def blockVal (fmt : Nat) (xv : Int) (scale : FVal) (c : Nat) : Nat × Nat × Nat :=
  match scale with
  | .nan => (f32.nan, 0, 0)
  | .fin _ k _ =>
    let v := narrowVal fmt xv c
    if k = 0 then (0, 0, v.2)
    else
      let y := (v.1.mul scale).1
      let r := rne f32 y
      (r.1, if belowNormal y then r.2 ||| fUF else r.2, v.2)
  | .inf _ => (f32.nan, 0, 0)

/-- VUNPK (R141); `none` for a reserved scale. -/
def rowUnpk (fmt : Nat) (xv : Int) (t : Nat) (a s : RowBits) : Option RowRes :=
  let n := laneCount t
  let cs := lanesOf (narrowBits fmt) n a
  let rs := ((List.range n).zip cs).map (fun e =>
    (scaleVal (fld s.toNat (32 * (e.1 / 32)) 12)).map (fun sv =>
      let v := blockVal fmt xv sv e.2
      let r := fromF32 t v.1
      (r.1, v.2.1 ||| r.2, v.2.2)))
  if rs.any (·.isNone) then none
  else
    let rs := rs.map (·.getD (0, 0, 0))
    let ic := sumOf (fun r => r.2.2) rs
    let fl := rs.foldl (fun f r => f ||| r.2.1) 0
    some { v := rowOf (laneBits t) (rs.map (·.1)), fl := if ic = 0 then fl else fl ||| fIC, ic := ic }

/-- Fmax of a format in half units (R138). -/
def fmax2 (fmt : Nat) : Nat :=
  match fmt with
  | 0 => 2
  | 1 => 8
  | 2 => 14
  | 3 => 12
  | 4 => 15
  | 5 => 56
  | 6 => 896
  | 7 => 114688
  | _ => 254

/-- The least scale code from 0x010 on whose value reaches a fraction (R142): the codes rise with their values. -/
def leastScale (n d : Nat) : Option Nat :=
  (List.range (0xFEF - 0x010 + 1)).findSome? (fun i =>
    match scaleVal (0x010 + i) with
    | some (.fin _ k e) => if n * e ≤ k * d then some (0x010 + i) else none
    | _ => none)

/-- One scale of VSCALE (R142): code and flags. -/
def scaleStep (fmt thr x : Nat) : Nat × Nat :=
  let e := fld x 24 8
  let f := fld x 18 6
  let cnt := fld x 12 6
  if e = 0 then (if f = 0 then 0 else 0x010, 0)
  else if e = 255 then (0xFEF, fOF)
  else
    -- u / Fmax with u = 2^(e-127) * (65 + f) / 64
    let n := (65 + f) * 2 ^ e * 2
    let d := 64 * 2 ^ 127 * fmax2 fmt
    let (c, fl) := match leastScale n d with
      | some c => (c, 0)
      | none => (0xFEF, fOF)
    (if thr != 0 && thr ≤ cnt && 1 < fld c 4 8 then c - 0x010 else c, fl)

/-- VSCALE (R142). -/
def rowScale (fmt thr : Nat) (s : RowBits) : RowRes :=
  let rs := (lanesOf 32 32 s).map (scaleStep fmt thr)
  { v := rowOf 32 (rs.map (·.1)), fl := rs.foldl (fun f r => f ||| r.2) 0 }

/-- The size in bytes of a VCVT format code (R143). -/
def cvtBytes (c : Nat) : Nat := if c = 0xB || c = 0xC then 1 else typeBytes c

/-- The value of a lane of a VCVT format (R143). -/
def cvtVal (ts x : Nat) : FVal :=
  if ts = 0xB then (narrowVal 6 0 x).1
  else if ts = 0xC then (narrowVal 7 0 x).1
  else if isInt ts then FVal.ofInt (laneInt ts x)
  else valF (fmtOf ts) x

/-- A value as a lane of a VCVT format (R74 to R78). -/
def cvtCode (td : Nat) (u : Option Nat) (x : FVal) : Nat × Nat :=
  if td = 0xB then toNarrowCode 6 0 u x
  else if td = 0xC then toNarrowCode 7 0 u x
  else if isInt td then
    let r := toIntF u (intLo td) (intHi td) x
    (wrap td r.1, r.2)
  else roundF (fmtOf td) u x

/-- VCVT (R143) between resolved formats, part `p`, with the active lanes of the wider format. -/
def rowCvt (td ts p : Nat) (u : Nat → Option Nat) (act : List Bool) (a old : RowBits) : RowRes :=
  let wd := 8 * cvtBytes td
  let ws := 8 * cvtBytes ts
  let n := 16384 / max wd ws
  let so := if wd < ws then 0 else p * n
  let dof := if wd < ws then p * n else 0
  let src := (lanesOf ws (16384 / ws) a).drop so
  let rs := ((List.range n).zip src).map (fun e => cvtCode td (u e.1) (cvtVal ts e.2))
  let lo := lanesOf wd (16384 / wd) old
  let m := mergeLanes act ((lo.drop dof).take n) rs
  { v := rowOf wd (lo.take dof ++ m.1 ++ lo.drop (dof + n)), fl := m.2, full := act.all id && 16384 / wd == n }

end Sys2Proof.Machine
end

