-- ==== Sys2Proof/Machine/Vector.lean ====
section
/-!
DEFINITION. Class 0x5, vector arithmetic (spec/06_row.md R118 to R127).
-/

namespace Sys2Proof.Machine
open Word WellFormed

namespace Dev

/-- An instruction of row operands (R114 to R116): sources in field order, the row function, flags, the destination. `whole`
says that every lane is written whatever the mask. -/
def rowOp (d : Dev) (v : VField) (types : List Nat) (whole : Bool) (fD : Nat) (srcs : List Nat) (f : RowFn) : Res Dev := do
  let t ← d.vtype types v.t
  let act := d.active v (laneCount t)
  let full := whole || act.all id
  let o ← d.old fD full
  let mp := d.maskP v
  match srcs with
  | [] => do
    let r := f t act 0 0 o
    (d.raiseF 0 r.fl).dst fD r.v mp full
  | [a] => do
    let (x, d) ← d.src a
    let r := f t act x.v 0 o
    (d.raiseF 0 r.fl).dst fD r.v (mp || x.p) full
  | a :: b :: _ => do
    let (x, d) ← d.src a
    let (y, d) ← d.src b
    let r := f t act x.v y.v o
    (d.raiseF 0 r.fl).dst fD r.v (mp || x.p || y.p) full

/-- VFMA (R119): the destination row is read as the addend. -/
def fmaOp (d : Dev) (v : VField) (fD fA fB : Nat) : Res Dev := do
  let t ← d.vtype tFloat v.t
  let act := d.active v (laneCount t)
  let o ← d.readRow fD
  let mp := d.maskP v
  let (x, d) ← d.src fA
  let (y, d) ← d.src fB
  let r := rowFma t act x.v y.v o.v
  (d.raiseF 0 r.fl).dst fD r.v (mp || x.p || y.p || o.p) (act.all id)

/-- VCMP (R122): the types of the condition, then one bit for each lane. -/
def vcmpOp (d : Dev) (v : VField) (cond kd fA fB : Nat) : Res Dev := do
  let t ← d.vtype (if cond < 6 then tFloatInt else tFloat) v.t
  let n := laneCount t
  let w := laneBits t
  let act := d.active v n
  let mp := d.maskP v
  let (x, d) ← d.src fA
  let (y, d) ← d.src fB
  let rs := (act.zip ((lanesOf w n x.v).zip (lanesOf w n y.v))).map
    (fun e => if e.1 then laneCmp cond t e.2.1 e.2.2 else (false, 0))
  let fl := rs.foldl (fun m r => m ||| r.2) 0
  pure ((d.raiseF 0 fl).setKreg kd ⟨maskOf n (rs.map (·.1)), mp || x.p || y.p⟩)

/-- VSEL (R123): the selector chooses, and no lane is inactive. -/
def vselOp (d : Dev) (v : VField) (fD fA fB : Nat) : Res Dev := do
  let t ← d.vtype tAll v.t
  let n := laneCount t
  let w := laneBits t
  let sel := d.active v n
  let mp := d.maskP v
  let (x, d) ← d.src fA
  let (y, d) ← d.src fB
  let ls := (sel.zip ((lanesOf w n x.v).zip (lanesOf w n y.v))).map (fun e => if e.1 then e.2.1 else e.2.2)
  d.dst fD (rowOf w ls) (mp || x.p || y.p) true

/-- The active lanes of a mask test (R125): each with its bit of ka. -/
def maskLanes (d : Dev) (v : VField) (ka : Nat) : Res (List Bool) := do
  let t ← d.vtype tAll v.t
  let n := laneCount t
  let k := (d.kreg ka).v
  pure (((d.active v n).zip (List.range n)).filterMap (fun e => if e.1 then some (maskBit k n e.2) else none))

/-- The poison of a mask test (R116). -/
def maskTestP (d : Dev) (v : VField) (ka : Nat) : Bool := d.maskP v || (d.kreg ka).p

/-- VKOP on mask bits (R124). -/
def kop (op : Nat) (a b : MaskBits) : MaskBits :=
  match op with
  | 0 => a &&& b
  | 1 => a ||| b
  | 2 => a ^^^ b
  | 3 => a &&& ~~~b
  | 4 => ~~~a
  | 5 => a
  | 6 => BitVec.allOnes 1024
  | _ => 0

/-- VKOP (R124): bits above the lane count of the type are zero; registers an op does not read pass no poison. -/
def vkopOp (d : Dev) (t op kd ka kb : Nat) : Res Dev := do
  let t ← d.vtype tAll t
  let n := min 1024 (laneCount t)
  let a := d.kreg ka
  let b := d.kreg kb
  let p := (op < 6 && a.p) || (op < 4 && b.p)
  pure (d.setKreg kd ⟨BitVec.ofNat 1024 ((kop op a.v b.v).toNat % 2 ^ n), p⟩)

end Dev

def execVadd (h : Hdr) (v : VField) (fD fA fB : Nat) (s : State) : Host.Outcome State Fault Refusal :=
  stream h (·.rowOp v tFloat false fD [fA, fB] rowAdd) s

def execVsub (h : Hdr) (v : VField) (fD fA fB : Nat) (s : State) : Host.Outcome State Fault Refusal :=
  stream h (·.rowOp v tFloat false fD [fA, fB] rowSub) s

def execVmul (h : Hdr) (v : VField) (fD fA fB : Nat) (s : State) : Host.Outcome State Fault Refusal :=
  stream h (·.rowOp v tFloat false fD [fA, fB] rowMul) s

def execVfma (h : Hdr) (v : VField) (fD fA fB : Nat) (s : State) : Host.Outcome State Fault Refusal :=
  stream h (·.fmaOp v fD fA fB) s

def execVmin (h : Hdr) (v : VField) (fD fA fB : Nat) (s : State) : Host.Outcome State Fault Refusal :=
  stream h (·.rowOp v tFloatInt false fD [fA, fB] rowMin) s

def execVmax (h : Hdr) (v : VField) (fD fA fB : Nat) (s : State) : Host.Outcome State Fault Refusal :=
  stream h (·.rowOp v tFloatInt false fD [fA, fB] rowMax) s

def execVabs (h : Hdr) (v : VField) (fD fA : Nat) (s : State) : Host.Outcome State Fault Refusal :=
  stream h (·.rowOp v tSigned false fD [fA] rowAbs) s

def execVneg (h : Hdr) (v : VField) (fD fA : Nat) (s : State) : Host.Outcome State Fault Refusal :=
  stream h (·.rowOp v tSigned false fD [fA] rowNeg) s

def execVexp2 (h : Hdr) (v : VField) (fD fA : Nat) (s : State) : Host.Outcome State Fault Refusal :=
  stream h (·.rowOp v tFloat false fD [fA] rowExp2) s

def execVlog2 (h : Hdr) (v : VField) (fD fA : Nat) (s : State) : Host.Outcome State Fault Refusal :=
  stream h (·.rowOp v tFloat false fD [fA] rowLog2) s

def execVrcp (h : Hdr) (v : VField) (fD fA : Nat) (s : State) : Host.Outcome State Fault Refusal :=
  stream h (·.rowOp v tFloat false fD [fA] rowRcp) s

def execVrsq (h : Hdr) (v : VField) (fD fA : Nat) (s : State) : Host.Outcome State Fault Refusal :=
  stream h (·.rowOp v tFloat false fD [fA] rowRsq) s

def execVtbi (h : Hdr) (v : VField) (fD fA fB : Nat) (s : State) : Host.Outcome State Fault Refusal :=
  stream h (·.rowOp v tFloat false fD [fA, fB] rowTbi) s

def execVcmp (h : Hdr) (v : VField) (cond kd fA fB : Nat) (s : State) : Host.Outcome State Fault Refusal :=
  stream h (·.vcmpOp v cond kd fA fB) s

def execVsel (h : Hdr) (v : VField) (fD fA fB : Nat) (s : State) : Host.Outcome State Fault Refusal :=
  stream h (·.vselOp v fD fA fB) s

def execViadd (h : Hdr) (v : VField) (fD fA fB : Nat) (s : State) : Host.Outcome State Fault Refusal :=
  stream h (·.rowOp v tInt false fD [fA, fB] rowIadd) s

def execVisub (h : Hdr) (v : VField) (fD fA fB : Nat) (s : State) : Host.Outcome State Fault Refusal :=
  stream h (·.rowOp v tInt false fD [fA, fB] rowIsub) s

def execVimul (h : Hdr) (v : VField) (fD fA fB : Nat) (s : State) : Host.Outcome State Fault Refusal :=
  stream h (·.rowOp v tInt false fD [fA, fB] rowImul) s

def execVand (h : Hdr) (v : VField) (fD fA fB : Nat) (s : State) : Host.Outcome State Fault Refusal :=
  stream h (·.rowOp v tAll false fD [fA, fB] rowAnd) s

def execVor (h : Hdr) (v : VField) (fD fA fB : Nat) (s : State) : Host.Outcome State Fault Refusal :=
  stream h (·.rowOp v tAll false fD [fA, fB] rowOr) s

def execVxor (h : Hdr) (v : VField) (fD fA fB : Nat) (s : State) : Host.Outcome State Fault Refusal :=
  stream h (·.rowOp v tAll false fD [fA, fB] rowXor) s

def execVshl (h : Hdr) (v : VField) (fD fA fB : Nat) (s : State) : Host.Outcome State Fault Refusal :=
  stream h (·.rowOp v tInt false fD [fA, fB] rowShl) s

def execVshr (h : Hdr) (v : VField) (fD fA fB : Nat) (s : State) : Host.Outcome State Fault Refusal :=
  stream h (·.rowOp v tInt false fD [fA, fB] rowShr) s

def execVred (h : Hdr) (v : VField) (op fD fA : Nat) (s : State) : Host.Outcome State Fault Refusal :=
  stream h (·.rowOp v tFloatInt true fD [fA] (rowRed op)) s

def execVscan (h : Hdr) (v : VField) (op : Nat) (x : Bool) (fD fA : Nat) (s : State) : Host.Outcome State Fault Refusal :=
  stream h (·.rowOp v tFloatInt true fD [fA] (rowScan op x)) s

def execVany (h : Hdr) (v : VField) (cd ka : Nat) (s : State) : Host.Outcome State Fault Refusal :=
  stream h (fun d => do
    let bs ← d.maskLanes v ka
    pure (d.setCreg cd ⟨bs.any id, d.maskTestP v ka⟩)) s

def execVall (h : Hdr) (v : VField) (cd ka : Nat) (s : State) : Host.Outcome State Fault Refusal :=
  stream h (fun d => do
    let bs ← d.maskLanes v ka
    pure (d.setCreg cd ⟨bs.all id, d.maskTestP v ka⟩)) s

def execVpopc (h : Hdr) (v : VField) (ad ka : Nat) (s : State) : Host.Outcome State Fault Refusal :=
  stream h (fun d => do
    let bs ← d.maskLanes v ka
    pure (d.setReg ad ⟨BitVec.ofNat 64 (bs.filter id).length, d.maskTestP v ka⟩)) s

def execVkop (h : Hdr) (t op kd ka kb : Nat) (s : State) : Host.Outcome State Fault Refusal :=
  stream h (·.vkopOp t op kd ka kb) s

end Sys2Proof.Machine
end

