-- ==== Sys2Proof/Machine/Recipe.lean ====
section
/-!
DEFINITION. Recipes (spec/03_register.md R52 to R64, spec/06_row.md R150): what a body word may be, what a body computes, the
tags, and replay. RCPDEF stands with the scalar loads that it makes.
-/

namespace Sys2Proof.Machine
open Word WellFormed

/-- The destination and the sources of a word that a body may hold (R53, R150): class 0x5 opcodes 0x00 to 0x0C and 0x0F to
0x18 without VFMA, and VMOV, VIOTA, VPERM, VRADIX, VUNPK and VCVT of class 0x6; no mask and no stochastic rounding. -/
def bodyFields : Instr → Option (Nat × List Nat)
  | .vadd _ v d a b | .vsub _ v d a b | .vmul _ v d a b | .vmin _ v d a b | .vmax _ v d a b | .vtbi _ v d a b
  | .viadd _ v d a b | .visub _ v d a b | .vimul _ v d a b | .vand _ v d a b | .vor _ v d a b | .vxor _ v d a b
  | .vshl _ v d a b | .vshr _ v d a b | .vperm _ v d a b => if v.me then none else some (d, [a, b])
  | .vabs _ v d a | .vneg _ v d a | .vexp2 _ v d a | .vlog2 _ v d a | .vrcp _ v d a | .vrsq _ v d a
  | .vred _ v _ d a | .vscan _ v _ _ d a | .vmov _ v d a | .vradix _ v d a _ _ => if v.me then none else some (d, [a])
  | .viota _ v d _ => if v.me then none else some (d, [])
  | .vunpk _ _ _ d a s => some (d, [a, s])
  | .vcvt _ sr _ _ _ me _ d a => if sr || me then none else some (d, [a])
  | _ => none

/-- Whether a word may stand as word `j` of a body in a window of `rows` rows (R53). -/
def bodyWord (rows j w : Nat) : Option Instr :=
  match spell .V w with
  | some (i, true) =>
    match i.hdr?, bodyFields i with
    | some h, some (d, srcs) =>
      if h.stop && h.fl = 0 && h.cm = 0 && h.pt = 0 && i.encOk .V 15 && d == 0x900 + j
          && srcs.all (fun x => x < min rows 2048 || x == 0xA00 || x == 0xA01 || (0x900 ≤ x && x < 0x900 + j)) then some i
      else none
    | _, _ => none
  | _ => none

/-- The first word of a body that breaks R53, by its index. A word that meets the list of R53 and is an illegal encoding as an
instruction breaks it too, and so is refused at RCPDEF and not at its replay (DESIGN CHOICE, log 85). -/
def bodyFault (rows : Nat) (ws : List Nat) : Option Nat :=
  (List.range ws.length).find? (fun j => (bodyWord rows j (ws.getD j 0)).isNone)

/-- A body word computed on whole rows (R55), under the view's type and the extra value. `o` stands for what the slot held
before, which only a narrowing VCVT leaves in its result. `none` is a word that would fault as an instruction. -/
def bodyRow (etype : Nat) (xv : Int) (o : RowBits) (i : Instr) (xs : List RowBits) : Option RowBits :=
  let x := xs.getD 0 0
  let y := xs.getD 1 0
  let go (types : List Nat) (t : Nat) (f : RowFn) : Option RowBits :=
    let t := if t = 0 then etype else t
    if types.contains t then some (f t (List.replicate (laneCount t) true) x y 0).v else none
  match i with
  | .vadd _ v _ _ _ => go tFloat v.t rowAdd
  | .vsub _ v _ _ _ => go tFloat v.t rowSub
  | .vmul _ v _ _ _ => go tFloat v.t rowMul
  | .vmin _ v _ _ _ => go tFloatInt v.t rowMin
  | .vmax _ v _ _ _ => go tFloatInt v.t rowMax
  | .vabs _ v _ _ => go tSigned v.t rowAbs
  | .vneg _ v _ _ => go tSigned v.t rowNeg
  | .vexp2 _ v _ _ => go tFloat v.t rowExp2
  | .vlog2 _ v _ _ => go tFloat v.t rowLog2
  | .vrcp _ v _ _ => go tFloat v.t rowRcp
  | .vrsq _ v _ _ => go tFloat v.t rowRsq
  | .vtbi _ v _ _ _ => go tFloat v.t rowTbi
  | .viadd _ v _ _ _ => go tInt v.t rowIadd
  | .visub _ v _ _ _ => go tInt v.t rowIsub
  | .vimul _ v _ _ _ => go tInt v.t rowImul
  | .vand _ v _ _ _ => go tAll v.t rowAnd
  | .vor _ v _ _ _ => go tAll v.t rowOr
  | .vxor _ v _ _ _ => go tAll v.t rowXor
  | .vshl _ v _ _ _ => go tInt v.t rowShl
  | .vshr _ v _ _ _ => go tInt v.t rowShr
  | .vred _ v op _ _ => go tFloatInt v.t (rowRed op)
  | .vscan _ v op e _ _ => go tFloatInt v.t (rowScan op e)
  | .vmov _ v _ _ => go tAll v.t rowMov
  | .vradix _ v _ _ inv desc => go tAll v.t (rowRadix inv desc)
  | .vperm _ v _ _ _ => go tAll v.t rowPerm
  | .viota _ v _ start => go tInt v.t (rowIota start)
  | .vunpk _ t fmt _ _ _ =>
    let t := if t = 0 then etype else t
    if tFloat.contains t then (rowUnpk fmt xv t x y).map (·.v) else none
  | .vcvt _ _ p ts td _ _ _ _ =>
    let td := if td = 0 then etype else td
    let ts := if ts = 0 then etype else ts
    let r := max (cvtBytes td) (cvtBytes ts) / min (cvtBytes td) (cvtBytes ts)
    if td = ts || r ≤ p then none
    else some (rowCvt td ts p (fun _ => none) (List.replicate (2048 / max (cvtBytes td) (cvtBytes ts)) true) x o).v
  | _ => none

/-- The source specifiers of a body word. -/
def bodySrcs (i : Instr) : List Nat := ((bodyFields i).map (·.2)).getD []

/-- The words of a body in order: the slots hold the results of the earlier words. `o` is one row of free values that stands for what each
slot held before its first write (R55 gives it no value): two slots that leave the same lane unwritten are equal there (DESIGN CHOICE, log
90). -/
def bodyRun (row : Nat → RowBits) (o : RowBits) (etype : Nat) (xv : Int) (rows : Nat) :
    List RowBits → Nat → List Nat → Option RowBits
  | slots, _, [] => slots.getLast?
  | slots, j, w :: ws =>
    match bodyWord rows j w with
    | none => none
    | some i =>
      let get (s : Nat) : RowBits :=
        if s < 2048 then row s else if s = 0xA00 then 0 else if s = 0xA01 then BitVec.allOnes 16384 else slots.getD (s - 0x900) 0
      match bodyRow etype xv o i ((bodySrcs i).map get) with
      | none => none
      | some r => bodyRun row o etype xv rows (slots ++ [r]) (j + 1) ws

namespace Dev

/-- A row of free values: what a private slot holds before its first write (log 25). -/
def freeRow (d : Dev) : RowBits × Dev :=
  (BitVec.ofNat 16384 (packLanes 64 ((List.range 256).map (fun i => (Config.freeWord (d.fresh + i)).toNat))),
    { d with fresh := d.fresh + 256 })

/-- The rows that the recipe of a tagged row reads. -/
def sourcesOf (g : Group) (r : Nat) : List Nat :=
  match RowTag.id? (rowIn g r).tag with
  | some i => bodySources (Map.get {} g.recipes i).words
  | none => []

/-- The depth of a row (R54), counted up to the bound. -/
def depthIn (g : Group) (r : Nat) : Nat → Nat
  | 0 => 0
  | n + 1 =>
    if (RowTag.id? (rowIn g r).tag).isNone then 0
    else 1 + (sourcesOf g r).foldl (fun m x => max m (depthIn g x n)) 0

/-- Whether the tags of a group obey R54: no depth above 2. -/
def depthOk (g : Group) : Bool := g.rows.all (fun e => (RowTag.id? e.2.tag).isNone || depthIn g e.1 3 ≤ 2)

/-- REPLAY of a dropped row (R55, R63): dropped sources first; `none` where a body word would fault, or where an uncorrectable error
stands in the recipe entry or in the row's tag. -/
def replayRow (d : Dev) (key r : Nat) : Nat → Option Dev
  | 0 => none
  | n + 1 =>
    match (rowIn (d.group key) r).tag with
    | .dropped id =>
      let e := Map.get {} (d.group key).recipes id
      let srcs := bodySources e.words
      if e.bad || (rowIn (d.group key) r).bad then none
      else match srcs.foldl (fun (o : Option Dev) x => o.bind (fun d =>
          if isDropped (rowIn (d.group key) x) then replayRow d key x n else some d)) (some d) with
      | none => none
      | some d =>
        let (o, d) := d.freeRow
        let g := d.group key
        match bodyRun (fun x => (rowIn g x).v) o g.view.etype (sext g.xval 5) g.rowsN [] 0 e.words with
        | none => none
        | some v =>
          let old := rowIn g r
          let p := old.p || e.p || srcs.any (fun x => (rowIn g x).p)
          let g := { g with rows := Map.set g.rows r { old with v := v, p := p, tag := .tagged id, dirty := true } }
          some ((d.setGroup key g).countOn g.core 30 1)
    | _ => some d

/-- Tags of a range of rows cleared (R60), up to a dropped row that must be replayed first. -/
def clearRange (d : Dev) (r0 : Nat) : Nat → Res Dev
  | 0 => .ok d
  | n + 1 => do
    let d ← clearRange d r0 n
    if isDropped (d.row (r0 + n)) then waitFor (.replay (r0 + n) ((List.range n).map (r0 + ·)))
    else if (RowTag.id? (d.row (r0 + n)).tag).isNone then pure d
    else pure (d.setGrp { d.grp with rows := Map.upd {} d.grp.rows (r0 + n) (fun x => { x with tag := .live }) })

/-- RCPSET (R59). A source written by an earlier word of the same issue group clears the new tag at once (R61). -/
def rcpsetOp (d : Dev) (id r : Nat) : Res Dev := do
  trapIf (0x800 ≤ r || d.grp.rowsN ≤ r) 4 d.cur.pc.toNat
  trapIf (d.grp.recipesN ≤ id) 4 d.cur.pc.toNat
  let e := Map.get {} d.grp.recipes id
  trapIf (!e.valid) 0x15 r
  let tagged := { d.grp with rows := Map.upd {} d.grp.rows r (fun x => { x with tag := .tagged id, bad := false }) }
  trapIf (!depthOk tagged) 0x15 r
  if isDropped (d.row r) then waitFor (.replay r [])
  else if (bodySources e.words).any (fun x => d.cur.wrote.contains x) then
    pure (d.setGrp { d.grp with rows := Map.upd {} d.grp.rows r (fun x => { x with tag := .live }) })
  else pure (d.setGrp tagged)

/-- RCPCLR (R60): a restarted one begins at its row. -/
def rcpclrOp (d : Dev) (cnt r : Nat) : Res Dev := do
  trapIf (0x800 ≤ r || d.grp.rowsN < r + cnt) 4 d.cur.pc.toNat
  let r0 := max r d.stm.resumeStep
  d.clearRange r0 (r + cnt - r0)

/-- The streams of a group that wait for a row. -/
def replayWaiters (g : Group) (r : Nat) : List Engine :=
  engines.filter (fun e => match (g.stream e).wait with
    | .replay x _ => x == r
    | _ => false)

/-- `cur` set to a stream of a group, at the issue group where it waits. -/
def curOf (d : Dev) (key : Nat) (e : Engine) : Dev :=
  let g := d.group key
  let x := g.stream e
  { d with cur := { core := g.core, eng := e, svc := false, key := key, unit := 0, pc := x.pc, group := x.pc, word := x.waitWord } }

/-- The fault of a failed replay (R63): the address field holds the row and its recipe identifier. Where a source of the row failed,
they are still those of the row that the replay was for (DESIGN CHOICE, log 85). -/
def replayTrap (g : Group) (r : Nat) : Trap :=
  { cause := 0x15, addr := BitVec.ofNat 64 (r + (RowTag.id? (rowIn g r).tag).getD 0 * 65536), replay := true }

/-- The fault of a failed replay against a stream that waits for it (R60, R63). -/
def replayFault (d : Dev) (key r : Nat) (e : Engine) : Dev :=
  let w := ((d.group key).stream e).waitWord
  let isClr := fld w 59 4 = 0xC && fld w 52 7 = 2
  (d.curOf key e).groupFault { replayTrap (d.group key) r with step := if isClr then r else 0 } e

/-- The granules that the replays of rows need: their own and those of the rows that their recipes read. -/
def replayGranules (g : Group) (rs : List Nat) : List Nat := ((rs.flatMap (fun r => r :: sourcesOf g r)).map (· / 32)).eraseDups

/-- Rows replayed in order, after the granules that they need have been reclaimed (R63); `keep` are further granules that stay. Without
a granule the group must go; a replay that fails is cause 0x15. -/
def replayRows (d : Dev) (key : Nat) (keep rs : List Nat) : Res Dev :=
  let ks := replayGranules (d.group key) rs
  match d.reclaimAll key (keep ++ ks) ks with
  | none => waitFor (.granule (rs.headD 0))
  | some d => rs.foldlM (fun d r => match d.replayRow key r 4 with
      | some d => .ok d
      | none => .error (.trap (replayTrap (d.group key) r))) d

end Dev

def execRcpset (h : Hdr) (id fD : Nat) (s : State) : Host.Outcome State Fault Refusal :=
  stream h (·.rcpsetOp id fD) s

def execRcpclr (h : Hdr) (cm1 fD : Nat) (s : State) : Host.Outcome State Fault Refusal :=
  stream h (·.rcpclrOp (cm1 + 1) fD) s

end Sys2Proof.Machine
end

