-- ==== Sys2Proof/Machine/Translate.lean ====
section
/-!
DEFINITION. From a virtual address to a physical one: page walks and TLBs (spec/16_page.md R313 to R321), the residency
window (spec/15_expert.md R296), the checks of R101, and what a physical address reaches (R3, R4, R379, R381, R384).
-/

namespace Sys2Proof.Machine
open Word

/-- Whether the access writes. -/
def Acc.writes : Acc → Bool
  | .store => true
  | .atomic => true
  | .laneStore => true
  | _ => false

/-- What a physical address reaches (R3). -/
inductive Target where
  | lake | pond | mmio | host | peer (n : Nat) | hole
  /-- The zero bytes behind the end of a copy in the residency window (R296). -/
  | zeros
  deriving DecidableEq, Repr

/-- Addresses from here on reach the zero bytes of R296; the physical address space ends far below. -/
def zeroBase : Nat := 2 ^ 60

/-- The range of R3 that holds a physical address; the kept copy of a lost line counts as its line (R20). -/
def targetOf (pa : Nat) : Target :=
  if 2 ^ 70 ≤ pa then .lake
  else if zeroBase ≤ pa then .zeros
  else if pa < 0xC000000000 then .lake
  else if pa < 0xF0000000000 then .hole
  else if pa < 0xF0000000000 + 0x18000000 then .pond
  else if pa < 0xFF000000000 then .hole
  else if pa < 0xFF010000000 then .mmio
  else if pa < 0x100000000000 then .hole
  else if pa < 0x200000000000 then .host
  else if pa < 0x230000000000 then
    (if (pa - 0x200000000000) % 2 ^ 40 < 0xC000000000 then .peer ((pa - 0x200000000000) / 2 ^ 40) else .hole)
  else .hole

namespace Dev

/-- The peer port to which a window is attached: exactly one sets its bit (R381). -/
def peerPort (d : Dev) (n : Nat) : Option Nat :=
  match flag (d.link 1).win n, flag (d.link 2).win n with
  | true, false => some 1
  | false, true => some 2
  | _, _ => none

/-- The port a physical address needs, if any. -/
def portOf (d : Dev) (pa : Nat) : Option Nat :=
  match targetOf pa with
  | .host => some 0
  | .peer n => d.peerPort n
  | _ => none

/-- Check 6 of R101: the physical target is refused by R4 or R381. A leaf of the page tables never reaches Pond (R317). -/
def targetRefused (d : Dev) (pa : Nat) (a : Acc) (window : Bool) : Bool :=
  match targetOf pa with
  | .lake => false
  | .zeros => false
  | .pond => !window
  | .mmio => a == .atomic || a == .advanced || a == .laneStore
  | .host => (d.hostClaim pa).isNone
  | .peer n => (d.peerPort n).isNone || a == .atomic
  | .hole => true

/-- The port's answer to an access of the lines of a range (R384, R385): a trap in DOWN or FENCED, a wait in TRAINING or
RECOVERING or until the lines have been answered. A host line that the device holds is a hit. A Lake line that the host holds
is taken back first (R378). A wait keeps the translations that the instruction has taken (R321). -/
def linkReady (d : Dev) (pa n : Nat) (a : Acc) : Res Unit :=
  let lines := (List.range (lineOf (pa + n - 1) - lineOf pa + 1)).map (fun i => lineOf pa + i)
  match d.portOf pa with
  | none =>
    let l := d.link 0
    if l.lent.isEmpty && l.shared.isEmpty then .ok ()
    else
      match lines.filter (fun x => l.lent.contains x || (a.writes && l.shared.contains x)) with
      | [] => .ok ()
      | need => waitFor (.link 0 need d.cur.took)
  | some p =>
    let l := d.link p
    let got := d.gotLines d.me
    let need := lines.filter (fun x => !l.lines.contains x && !got.contains x)
    if need.isEmpty then .ok ()
    else
      match l.state with
      | .down => trap 0x30 0
      | .fenced => trap 0x30 0
      | .training => waitFor (.link p [] d.cur.took)
      | .recovering => waitFor (.link p [] d.cur.took)
      | _ => waitFor (.link p need d.cur.took)

/-- After an access over the host port: a host line that was written is held dirty (R378); where the port has been fenced since it was
answered, it is poisoned in place (R385). No cache holds peer lines (R381). -/
def linkUsed (d : Dev) (pa n : Nat) (a : Acc) : Dev :=
  if targetOf pa != .host || !a.writes then d
  else
    let l := d.link 0
    let ls := (List.range (lineOf (pa + n - 1) - lineOf pa + 1)).map (lineOf pa + ·)
    let add (m : List Nat) : List Nat := ls.foldl (fun m x => insertNat x m) m
    let d1 := d.setLink 0 { l with lines := add l.lines, dirty := add l.dirty }
    match l.state with
    | .fenced => { d1 with poisoned := add d1.poisoned }
    | .down => d
    | .training => d
    | _ => d1

/-! ### Other agents and other sites -/

/-- An access to a line moves the dirty stash entries that other groups have of it (R179): a read leaves them CLEAN, a write takes
them away. `own` is the group that makes the access. -/
def snoop (d : Dev) (own : Option Nat) (pa n : Nat) (writes : Bool) : Dev :=
  let hit (e : StashEntry) : Bool := e.dirty && lineOf pa ≤ realLine e.phys && realLine e.phys ≤ lineOf (pa + n - 1)
  let one (e : Nat × Group) : Nat × Group :=
    if some e.1 == own || !e.2.stash.any (fun x => hit x.2) then e
    else if writes then (e.1, { e.2 with stash := e.2.stash.filter (fun (x : Nat × StashEntry) => !hit x.2) })
    else (e.1, { e.2 with stash := e.2.stash.map (fun (x : Nat × StashEntry) => (x.1, if hit x.2 then { x.2 with dirty := false } else x.2)) })
  if d.groups.all (fun e => e.2.stash.isEmpty) then d else { d with groups := d.groups.map one }

/-- Whether a site is frozen and has not been migrated (R364). -/
def siteHolds (x : Site) : Bool := x.state == .frozen || x.state == .migrating

/-- Whether a site of the cluster of a core holds the accesses of its peers (R368). -/
def peerHeld (d : Dev) (core : Nat) : Bool :=
  !d.sites.all (fun e => !siteHolds e.2) && core < 128 && (sitesOf (clusterOf core)).any (fun s => siteHolds (d.site s))

/-- Whether a group on a frozen site has a stash entry of the line dirty (R368). -/
def frozenDirty (d : Dev) (pa n : Nat) : Bool :=
  !d.sites.all (fun e => !siteHolds e.2) && d.groups.any (fun e => e.2.core < 128 && siteHolds (d.site (d.siteOf e.2.core))
    && e.2.stash.any (fun x => x.2.dirty && lineOf pa ≤ realLine x.2.phys && realLine x.2.phys ≤ lineOf (pa + n - 1)))

/-- An access that needs the cluster's L2 waits while a site of the cluster is FROZEN or MIGRATING; one from outside only for a line
that the site held dirty (R368, log 88). -/
def notHeld (d : Dev) (pa n : Nat) : Res Unit :=
  if targetOf pa != .mmio && (d.peerHeld d.cur.core || d.frozenDirty pa n) then waitFor (.peer d.cur.took) else .ok ()

/-- The group that makes the accesses of the instruction at hand. -/
def accessor (d : Dev) : Option Nat := if d.cur.svc then none else some d.cur.key

/-! ### Page tables -/

/-- The index of a level in a table (R315). -/
def walkIndex (va lvl : Nat) : Nat := if lvl = 4 then fld va 48 6 else fld va (12 + 9 * lvl) 9

/-- The leaf of a valid entry (R316, R318): log2 of its page size is 12, 16, 21 or 30. -/
def leafOf (asid va lvl e : Nat) : Leaf :=
  let size := if lvl = 2 then 30 else if lvl = 1 then 21 else if flag e 7 then 16 else 12
  { asid := asid, size := size, va := va / 2 ^ size * 2 ^ size, pa := fld e 12 40 * 4096 / 2 ^ size * 2 ^ size,
    r := flag e 2, w := flag e 3, x := flag e 4, cw := flag e 5 }

/-- Why a walk gives no leaf (R317, R319): an entry that is not valid; an entry that is poisoned or cannot be read, in its line; or a
table line that the host holds and that is taken back first (R378); a read that a migration holds (R368). -/
inductive WalkFail where
  | invalid
  | unreadable (line : Nat)
  | lent (line : Nat)
  | held
  deriving DecidableEq, Repr

/-- What keeps a walk from an entry (R317, R319, R368). -/
def entryFail (d : Dev) (a : Nat) : Option WalkFail :=
  if targetOf a != .lake || d.linePoisoned (lineOf a) then some (.unreadable (lineOf a))
  else if (d.link 0).lent.contains (lineOf a) then some (.lent (lineOf a))
  else if d.peerHeld d.cur.core || d.frozenDirty a 8 then some .held
  else none

/-- A table entry read as a .md load (R319): a dirty stash entry of another group is written back (R179). -/
def readEntry (d : Dev) (a : Nat) : Except WalkFail (Nat × Dev) :=
  match d.entryFail a with
  | some f => .error f
  | none => .ok (d.ld a 8, d.snoop d.accessor a 8 false)

/-- A walk from the table `t` of level `lvl` down (R317), with the table entries it passed, deepest first. -/
def walkFrom (d : Dev) (asid va t : Nat) (seen : List WalkEntry) : Nat → Except WalkFail (Leaf × List WalkEntry × Dev)
  | 0 => do
    let (e, d) ← d.readEntry (t + 8 * walkIndex va 0)
    if !flag e 0 || fld e 52 12 != 0 || fld e 8 4 != 0 || flag e 6 || flag e 1 then .error .invalid
    else .ok (leafOf asid va 0 e, seen, d)
  | lvl + 1 => do
    let (e, d) ← d.readEntry (t + 8 * walkIndex va (lvl + 1))
    if !flag e 0 || fld e 52 12 != 0 || fld e 8 4 != 0 || flag e 6 then .error .invalid
    else if flag e 1 then
      if fld e 2 6 != 0 || 0xBFFFFFF000 < fld e 12 40 * 4096 then .error .invalid
      else
        let span := 2 ^ (12 + 9 * (lvl + 1))
        walkFrom d asid va (fld e 12 40 * 4096) (⟨asid, lvl, va / span * span, fld e 12 40 * 4096⟩ :: seen) lvl
    else if 2 < lvl + 1 || flag e 7 then .error .invalid
    else if lvl + 1 = 2 && fld e 12 18 != 0 then .error .invalid
    else if lvl + 1 = 1 && fld e 12 9 != 0 then .error .invalid
    else .ok (leafOf asid va (lvl + 1) e, seen, d)

/-- The walk cache's entry for the deepest table of an address (R320). -/
def walkHit (cl : Cluster) (asid va : Nat) : Option WalkEntry :=
  (List.range 4).findSome? (fun lvl =>
    cl.walks.find? (fun w => w.asid = asid && w.lvl = lvl && w.va = va / 2 ^ (21 + 9 * lvl) * 2 ^ (21 + 9 * lvl)))

/-- The address space of the stream that `cur` names: ASID and root table (R313). -/
def space (d : Dev) : Nat × Nat :=
  if d.cur.svc then (0, d.sptbr) else ((d.ctx d.myCtx).asid, (d.ctx d.myCtx).ptbr)

/-- A whole walk with its walk cache (R317, R320); the tables it used, with the one that the cache gave. -/
def walk (d : Dev) (asid root va : Nat) : Except WalkFail (Leaf × List WalkEntry × Dev) :=
  match walkHit (d.cluster (clusterOf d.cur.core)) asid va with
  | some w => d.walkFrom asid va w.table [w] w.lvl
  | none => d.walkFrom asid va (root * 4096) [] 4

/-- Whether a leaf maps an address of an address space. -/
def Leaf.maps (l : Leaf) (asid va : Nat) (win : Bool := false) : Bool :=
  l.win == win && l.asid == asid && l.va == va / 2 ^ l.size * 2 ^ l.size

/-- The physical address that a leaf gives. -/
def Leaf.at_ (l : Leaf) (va : Nat) : Nat := l.pa + va % 2 ^ l.size

/-- A leaf put into the first-level TLB of the core, or used there: the first of its list is the one used last (R320). -/
def fillFirst (d : Dev) (asid va : Nat) (l : Leaf) : Dev :=
  let c := d.core d.cur.core
  let other (x : Leaf) : Bool := !Leaf.maps x asid va l.win
  d.setCore d.cur.core { c with tlb := (l :: c.tlb.filter other).take 384 }

/-- A leaf put into the second-level TLB of the cluster, or used there, with the tables of its walk in the walk cache (R320). -/
def fillSecond (d : Dev) (asid va : Nat) (l : Leaf) (ws : List WalkEntry) : Dev :=
  let n := clusterOf d.cur.core
  let cl := d.cluster n
  let other (x : Leaf) : Bool := !Leaf.maps x asid va l.win
  d.setCluster n { cl with
    tlb2 := (l :: cl.tlb2.filter other).take 8192, walks := (ws ++ cl.walks.filter (fun w => !ws.contains w)).take 512 }

/-- A leaf and the tables of its walk put into both TLBs and the walk cache (R320). -/
def fillTlbs (d : Dev) (asid va : Nat) (l : Leaf) (ws : List WalkEntry) : Dev := (d.fillFirst asid va l).fillSecond asid va l ws

/-- A translation by a whole walk (R317, R320), counted as one. -/
def walked (d : Dev) (va : Nat) : Dev × Except WalkFail Leaf :=
  let (asid, root) := d.space
  match d.walk asid root va with
  | .error e => (d.count 39, .error e)
  | .ok (l, ws, d) => ((d.fillTlbs asid va l ws).count 39, .ok l)

/-- A translation through the TLBs, a walk where they miss (R319, R320), and whether a TLB gave it. A hit is a use of the TLB that it
hits alone. The device has the misses and walks counted, whether or not there is a leaf. -/
def lookup (d : Dev) (va : Nat) : Dev × Except WalkFail Leaf × Bool :=
  let (asid, _) := d.space
  let c := d.core d.cur.core
  let cl := d.cluster (clusterOf d.cur.core)
  match c.tlb.find? (Leaf.maps · asid va) with
  | some l => (if c.tlb.head? = some l then d else d.fillFirst asid va l, .ok l, true)
  | none =>
    match cl.tlb2.find? (Leaf.maps · asid va) with
    | some l => ((d.fillTlbs asid va l []).count 37, .ok l, true)
    | none =>
      let r := ((d.count 37).count 38).walked va
      (r.1, r.2, false)

/-- Check 4 of R101: the page lacks the right the access needs. -/
def rightMissing (l : Leaf) (a : Acc) : Bool :=
  match a with
  | .load => !l.r
  | .advanced => !l.r
  | .store => !l.w
  | .laneStore => !l.w
  | .atomic => !l.r || !l.w
  | .fetch => !l.x

/-- A fault with the misses and walks of its access (R320). -/
def seeing {α : Type} (d : Dev) (t : Trap) : Res α := .error (.trap { t with seen := some d.missCounts })

/-- What becomes of an access whose walk gives no leaf (R317, R319). -/
def walkStop {α : Type} (d : Dev) (field : Nat) : WalkFail → Res α
  | .invalid => d.seeing { cause := 8, addr := BitVec.ofNat 64 field }
  | .unreadable line => d.seeing { cause := 8, addr := BitVec.ofNat 64 field, poison := true, pkind := 2, pline := line }
  | .lent line => waitFor (.link 0 [line] d.cur.took)
  | .held => waitFor (.peer d.cur.took)

/-- The check of R101 that a leaf fails for an access: 4 or 5. -/
def refusal (l : Leaf) (a : Acc) : Option Nat := if rightMissing l a then some 9 else if a.writes && l.cw then some 0xA else none

/-- Checks 3 to 5 of R101 on a fresh walk: the leaf. -/
def walkCheck (d : Dev) (va : Nat) (a : Acc) (field : Nat) : Res (Leaf × Dev) :=
  match d.walked va with
  | (d1, .error e) => d1.walkStop field e
  | (d1, .ok l) =>
    match refusal l a with
    | none => .ok (l, d1)
    | some c => d1.seeing { cause := c, addr := BitVec.ofNat 64 field }

/-- Checks 3 to 5 of R101 by the page tables: the leaf. A refusal by a cached translation is tried once more on a fresh walk (R319). -/
def pageCheck (d : Dev) (va : Nat) (a : Acc) (field : Nat) : Res (Leaf × Dev) :=
  match d.lookup va with
  | (d1, .error e, _) => d1.walkStop field e
  | (d1, .ok l, cached) =>
    match refusal l a with
    | none => .ok (l, d1)
    | some c => if cached then d1.walkCheck va a field else d1.seeing { cause := c, addr := BitVec.ofNat 64 field }

/-! ### The residency window (R296) -/

/-- Whether an address lies in the residency window of the context (R296). -/
def inWindow (d : Dev) (va : Nat) : Bool :=
  let p := (d.ctx d.myCtx).resPol
  !d.cur.svc && flag p 0 && fld va 42 12 == fld p 42 12

/-- Whether the context may use a model (R292, R296). -/
def mayUse (d : Dev) (ctx id : Nat) : Bool :=
  let m := Map.get {} d.res.models (id / 2 ^ 24)
  m.valid && flag m.ctxmask.toNat ctx

/-- The home tier of a copy: Lake or Plain (R294). -/
def Copy.lakeHome (c : Copy) : Bool := !flag c.fmt 6

/-- Whether the Pond data of a copy counts (R299, R303): from the start of the drain of an eviction the copy is where it will be. -/
def Copy.pondHere (c : Copy) : Bool := c.inPond && !(c.state == .evicting && c.drain)

/-- Whether the Lake data of a copy counts: not once the drain of an eviction from the Lake pool has begun, and not of a Lake home
that a fetch into Lake still reads (R296, R299). -/
def Copy.lakeHere (c : Copy) : Bool :=
  if Copy.lakeHome c then !(c.state == .fetching && c.target == 0)
  else c.inLake && !(c.state == .evicting && c.drain && !c.inPond)

/-- Where byte `x` of a resident copy lies (R296): Pond, or its Lake frames or Lake home. `none` when it is not resident. -/
def Copy.place (c : Copy) (x : Nat) : Option Nat :=
  if x ≥ c.size then (if Copy.pondHere c || Copy.lakeHere c then some (zeroBase + x) else none)
  else if Copy.pondHere c then some (0xF0000000000 + c.pond.getD (x / 65536) 0 * 65536 + x % 65536)
  else if !Copy.lakeHere c then none
  else if Copy.lakeHome c then some (c.home + x)
  else if c.inLake then some (c.lake.getD (x / 65536) 0 * 4096 + x % 65536)
  else none

/-- The checks that take the place of checks 3 to 5 for an address in the window (R296), and the physical address. -/
def windowCheck (d : Dev) (va : Nat) (a : Acc) (field : Nat) : Res Nat :=
  let e := fld va 26 16
  let x := fld va 0 26
  match Map.find d.res.copies e with
  | none => if a.writes then trap 9 field else trap 8 field
  | some c =>
    if !d.mayUse d.myCtx c.id then trap 9 field
    else if a.writes || a == .fetch then trap 9 field
    else if (c.size + 65535) / 65536 * 65536 ≤ x then trap 8 field
    else if c.state = .faulted then trap 0x18 c.id
    else
      match Copy.place c x with
      | some pa => .ok pa
      | none => trap 8 field

/-- A window translation put into the TLBs by the residency unit (R296, R320); a fill is a use of the copy (R300). -/
def windowFill (d : Dev) (va : Nat) (l : Leaf) : Dev :=
  let (asid, _) := d.space
  let c := d.core d.cur.core
  if c.tlb.head? = some l then d
  else if c.tlb.contains l then d.fillFirst asid va l
  else if (d.cluster (clusterOf d.cur.core)).tlb2.contains l then (d.fillTlbs asid va l []).count 37
  else
    let d := { d with res := { d.res with copies := Map.upd {} d.res.copies (fld va 26 16) (fun c => { c with last := d.time }) } }
    ((d.fillTlbs asid va l []).count 37).count 38

/-- The translation of an access in the residency window: the address, and the leaf of its 64 KiB page (R296). -/
def windowLeaf (d : Dev) (va : Nat) (a : Acc) (field : Nat) : Res (Nat × Leaf × Dev) := do
  let pa ← d.windowCheck va a field
  let page := Copy.place (Map.get {} d.res.copies (fld va 26 16)) (fld va 16 10 * 65536)
  let l : Leaf :=
    { asid := d.space.1, size := 16, va := va / 65536 * 65536, pa := page.getD zeroBase, r := true, w := false, x := false, cw := false,
      win := true }
  pure (pa, l, d.windowFill va l)

/-- The translation that a waiting access of the instruction at hand has taken already (R321, R326): of the same word, for the same
purpose, at the same address. -/
def heldLeaf (d : Dev) (va : Nat) (a : Acc) : Option Leaf :=
  if d.waits.isEmpty then none
  else (((d.waitsOf d.me).flatMap (·.held)).find? (fun h => h.pc == d.cur.pc && h.acc == a && h.va == va)).map (·.leaf)

/-- A translation taken by the instruction at hand (R321). -/
def took (d : Dev) (va : Nat) (a : Acc) (l : Leaf) : Dev := { d with cur := { d.cur with took := d.cur.took ++ [⟨d.cur.pc, a, va, l⟩] } }

/-- The translation of an access: one that it holds already (R321), the residency window, or the page tables. -/
def translate (d : Dev) (va : Nat) (a : Acc) (field : Nat) : Res (Nat × Leaf × Dev) :=
  let w := d.inWindow va
  match d.heldLeaf va a with
  | some l =>
    .ok (if l.win && (Map.get {} d.res.copies (fld va 26 16)).size ≤ fld va 0 26 then zeroBase + fld va 0 26 else Leaf.at_ l va, l, d.took va a l)
  | none =>
    if w then (d.windowLeaf va a field).map (fun r => (r.1, r.2.1, r.2.2.took va a r.2.1))
    else (d.pageCheck va a field).map (fun r => (Leaf.at_ r.1 va, r.1, r.2.took va a r.1))

/-! ### The checks of R101 -/

/-- Checks 6 and 7 of R101: the physical target. -/
def targetCheck (d : Dev) (pa size : Nat) (a : Acc) (field : Nat) (win : Bool) : Res Unit :=
  if d.targetRefused pa a win then d.seeing { cause := 9, addr := BitVec.ofNat 64 field }
  else if targetOf pa == .mmio && ((size != 4 && size != 8) || a == .fetch) then
    d.seeing { cause := if a == .fetch then 9 else 5, addr := BitVec.ofNat 64 field }
  else .ok ()

/-! ### The L1 data caches (R178, R182) -/

/-- Whether an access is served by the L1 of its core: an access of an S stream to memory (R178). -/
def usesL1 (d : Dev) (pa : Nat) (a : Acc) : Bool :=
  d.cur.eng == .S && !d.cur.sampler && a != .fetch && (targetOf pa == .lake || targetOf pa == .host)

/-- The copy of a line in the L1 of the core. -/
def l1Find (d : Dev) (line : Nat) : Option L1Line := (d.core d.cur.core).l1.find? (·.line == line)

/-- Whether the L1 serves a load by itself: it holds the line under a current lease (R182, R368). -/
def l1Serves (d : Dev) (pa : Nat) (a : Acc) : Bool :=
  d.usesL1 pa a && !a.writes && ((d.l1Find (lineOf pa)).map (fun x => x.kept || d.logical < x.lease)).getD false

/-- A copy put into the L1, or used there; the cache holds 2048 lines (R178), and the one used longest ago goes first (log 89). -/
def l1Put (d : Dev) (x : L1Line) : Dev :=
  let c := d.core d.cur.core
  d.setCore d.cur.core { c with l1 := (x :: c.l1.filter (·.line != x.line)).take 2048 }

/-- A copy of a line taken out of the L1 of the core. -/
def l1Drop (d : Dev) (line : Nat) : Dev :=
  let c := d.core d.cur.core
  if c.l1.any (·.line == line) then d.setCore d.cur.core { c with l1 := c.l1.filter (·.line != line) } else d

/-- Whether a line has been written since a logical time (R182). -/
def changedSince (d : Dev) (line t : Nat) : Bool := t < (Map.get (0, 0) d.leases line).1

/-- What a load or store does to the L1 (R182): a fill with a lease, a renewal of an expired one, which moves data where the line has
changed, or a use. A store owns its copy. -/
def l1Use (d : Dev) (pa : Nat) (a : Acc) : Dev :=
  let line := lineOf pa
  let fill (d : Dev) (kept : Bool) : Dev :=
    let (t, e, d) := d.grant line
    d.l1Put ⟨line, if a.writes then d.ownTime line else t, e, kept⟩
  if !d.usesL1 pa a then d
  else if a == .atomic then d.l1Drop line
  else
    match d.l1Find line with
    | none => fill d false
    | some x =>
      if a.writes then fill d x.kept
      else if x.kept || d.logical < x.lease then d.l1Put x
      else fill ((d.count 33).count 34 (bit (d.changedSince line x.filled))) false

/-- The address by which the L1 serves an access: its copy of a lost line (R20), or memory. -/
def l1Address (d : Dev) (pa : Nat) (a : Acc) : Nat :=
  if d.lakeMask = 0 || !d.usesL1 pa a || a == .atomic then pa
  else
    match d.l1Find (lineOf pa) with
    | some x => if x.kept then 64 * keptLine (l1Holder d.cur.core) (lineOf pa) + pa % 64 else pa
    | none => pa

/-- What an access does once R101 lets it through: it waits for what holds it, unless it is `inside` its core, and is performed. -/
def performed (d : Dev) (pa size : Nat) (a : Acc) (inside : Bool := false) : Res (Nat × Dev) := do
  if inside then pure () else d.notHeld pa size
  d.linkReady pa size a
  let d := if a.writes && targetOf pa != .mmio then d.storeTime pa size else d
  pure (pa, (d.linkUsed pa size a).snoop d.accessor pa size a.writes)

/-- An access outside mapped stash windows performed, through the L1 where that serves it (R178, R182). -/
def served (d : Dev) (pa size : Nat) (a : Acc) : Res (Nat × Dev) := do
  let (pa, d) ← d.performed pa size a (d.l1Serves pa a)
  pure (d.l1Address pa a, d.l1Use pa a)

/-- What an access does once it has its translation: the rest of the checks of R101, and its performing. -/
def perform (d : Dev) (pa size : Nat) (a : Acc) (field : Nat) (win : Bool) : Res (Nat × Dev) := do
  d.targetCheck pa size a field win
  d.served pa size a

/-- The checks of R101 on an access, with the translation that it takes: the physical address. -/
def checked (d : Dev) (va size al : Nat) (a : Acc) (field : Nat) : Res (Nat × Dev) := do
  trapIf (!canonical va) 0x0B field
  trapIf (va % al != 0) 5 field
  let (pa, l, d) ← d.translate (va % 2 ^ 54) a field
  d.targetCheck pa size a field l.win
  pure (pa, d)

/-- Checks 1 to 7 of R101 for an access of `size` bytes at `va` with the alignment `al` (1 for a line of a transfer); the
physical address. `field` is the address field of a failure. -/
def access (d : Dev) (va size al : Nat) (a : Acc) (field : Nat) : Res (Nat × Dev) := do
  let (pa, d) ← d.checked va size al a field
  d.served pa size a

/-- The 64-byte lines that a run of bytes touches: each with its first byte used and how many are. -/
def linesOf (va n : Nat) : List (Nat × Nat) :=
  if n = 0 then []
  else
    let l0 := va / 64
    (List.range ((va + n - 1) / 64 - l0 + 1)).map (fun i =>
      let lo := max va ((l0 + i) * 64)
      let hi := min (va + n) ((l0 + i) * 64 + 64)
      (lo, hi - lo))

/-- The checks of R101 on every line of a run of bytes; the physical pieces in order (R101). -/
def accessLines (d : Dev) (a : Acc) : List (Nat × Nat) → Res (List (Nat × Nat) × Dev)
  | [] => .ok ([], d)
  | (va, n) :: ls => do
    let (pa, d) ← d.access (va % 2 ^ 64) n 1 a (va % 2 ^ 64)
    let (ps, d) ← accessLines d a ls
    pure ((pa, n) :: ps, d)

/-- The bytes of physical pieces in order. -/
def readPieces (d : Dev) : List (Nat × Nat) → List Byte
  | [] => []
  | (pa, n) :: ps => d.lds pa n ++ readPieces d ps

/-- Whether a physical piece is poisoned. -/
def piecesPoisoned (d : Dev) (ps : List (Nat × Nat)) : Bool := ps.any (fun p => d.rangePoisoned p.1 p.2)

/-- Bytes written to physical pieces in order; a line written whole with clean data loses its poison (R177). -/
def writePieces (d : Dev) (bs : List Byte) (p : Bool) : List (Nat × Nat) → Dev
  | [] => d
  | (pa, n) :: ps => (d.storeBytes pa (bs.take n) p).writePieces (bs.drop n) p ps

end Dev
end Sys2Proof.Machine
end

