-- ==== Sys2Proof/Machine/Stash.lean ====
section
/-!
DEFINITION. The stash (spec/05_scalar.md R111, R112, spec/08_line.md R177 to R181): windows, entries and the accesses that
they serve. Memory is coherent, so an entry holds no data of its own: it holds the translation taken at its fill and its
state.
-/

namespace Sys2Proof.Machine.Dev
open Word

/-- The bank of an address (R181). -/
def bankOf (key va : Nat) : Nat :=
  let y := fld va 6 32 ^^^ fld va 38 16
  fld (y * (key ||| 1)) 27 5

/-- Whether an address lies in a mapped stash window of the group (R111). -/
def stashed (d : Dev) (va : Nat) : Bool :=
  !d.cur.svc && d.grp.windows.any (fun w => w.2.1 ≤ va && va < w.2.1 + w.2.2)

/-- The entries of a bank over all groups of a core: group, line, last use (R180). -/
def bankEntries (d : Dev) (core bank : Nat) : List (Nat × Nat × Nat) :=
  (d.core core).slots.foldl (fun acc s =>
    acc ++ ((d.group s.2).stash.filter (fun e => bankOf (d.ctx (ctxOf s.2)).key (e.1 * 64) == bank)).map
      (fun e => (s.2, e.1, e.2.lru))) []

/-- Room for an entry in its bank: the least recently used entry of a full bank goes (R180). -/
def bankRoom (d : Dev) (va : Nat) : Dev :=
  let es := d.bankEntries d.cur.core (bankOf (d.ctx d.myCtx).key va)
  if es.length < 512 then d
  else
    match es.foldl (fun b e => match b with
      | none => some e
      | some x => if e.2.2 < x.2.2 then some e else some x) none with
    | none => d
    | some (k, l, _) => d.setGroup k { d.group k with stash := Map.del (d.group k).stash l }

/-- A bank of the stash of the core takes an access: one that it meets in the cycle of another has waited, which is counted (R180, log 89). -/
def bankTurn (d : Dev) (v : Nat) : Dev :=
  let b := d.cur.core * 32 + bankOf (d.ctx d.myCtx).key v
  if d.useNow.banks.contains b then d.count 32 else { d with use := { d.useNow with banks := b :: d.useNow.banks } }

/-- A stash entry made or written, as the one used last (R180). -/
def entryMade (d0 : Dev) (v : Nat) (e : StashEntry) : Dev :=
  let d := d0.bankTurn v
  { d.setGrp { d.grp with stash := Map.set d.grp.stash (v / 64) { e with lru := d.uses } } with uses := d.uses + 1 }

/-- A stash entry filled, with a lease (R179, R182). -/
def entryFilled (d : Dev) (v : Nat) (x : StashEntry) : Dev :=
  let (t, e, d) := d.grant x.phys
  d.entryMade v { x with filled := if x.dirty then d.ownTime x.phys else t, lease := e }

/-- A load of a CLEAN entry whose lease has expired sends a renewal; data moves only where the line has changed (R179, R182). A request
that finds the line DIRTY in another stash leaves it CLEAN there. -/
def renewed (d : Dev) (v : Nat) (e : StashEntry) : Dev :=
  (((d.count 33).count 34 (bit (d.changedSince e.phys e.filled))).snoop d.accessor (64 * realLine e.phys) 64 false).entryFilled v e

/-- Whether the translation that a stash entry holds since its fill lets an access through (R101, R316, R321). -/
def entryAllows (e : StashEntry) (a : Acc) : Bool :=
  match a with
  | .load => e.r
  | .advanced => e.r
  | .store => e.w
  | .laneStore => e.w
  | .atomic => e.r && e.w
  | .fetch => true

/-- Checks 3 to 7 of R101 where no stash entry lets the access through: by a fresh walk where one holds a translation that refuses it
(R319). The physical address and the leaf. -/
def pageAccess (d : Dev) (v size : Nat) (a : Acc) (field : Nat) (fresh : Bool) : Res ((Nat × Leaf) × Dev) := do
  let (pa, l, d) ← if fresh && !d.inWindow v then (d.walkCheck v a field).map (fun r => (Leaf.at_ r.1 v, r.1, r.2.took v a r.1))
    else d.translate v a field
  d.targetCheck pa size a field l.win
  pure ((pa, l), d)

/-- The access of a stash line that is UNTOUCHED, or whose entry's translation refuses it, performed with its translation. Lines of Lake,
Pond and the host are filled (R179). -/
def touch (d : Dev) (v size : Nat) (a : Acc) (t : Nat × Leaf) : Res (Nat × Dev) := do
  let l := t.2
  let (pa, d) ← d.performed t.1 size a
  let d := d.setGrp { d.grp with stash := Map.del d.grp.stash (v / 64) }
  if targetOf pa = .lake || targetOf pa = .pond || targetOf pa = .host then
    pure (pa, (d.bankRoom v).entryFilled v { phys := pa / 64, dirty := a.writes, lru := 0, r := l.r, w := l.w && !l.cw })
  else pure (pa, d)

/-- The stash entry that lets an access through with the translation that it holds (R179, R321). -/
def stashFor (d : Dev) (v : Nat) (a : Acc) : Option StashEntry := (Map.find d.grp.stash (v / 64)).filter (entryAllows · a)

/-- The checks of R101 on an access of the S, V or X stream or of MLDW (R178), with the translation that it takes; none where a stash entry
holds it (R321). -/
def checkS (d : Dev) (va size al : Nat) (a : Acc) (field : Nat) : Res (Option (Nat × Leaf) × Dev) := do
  trapIf (!canonical va) 0x0B field
  trapIf (va % al != 0) 5 field
  let v := va % 2 ^ 54
  if d.stashed v && (d.stashFor v a).isSome then pure (none, d)
  else
    let (t, d) ← d.pageAccess v size a field (d.stashed v && (Map.find d.grp.stash (v / 64)).isSome)
    pure (some t, d)

/-- An access to a stash entry (R179): a store to a CLEAN entry takes the line over, and a load of one renews a lease that has expired. -/
def entryUse (d : Dev) (v size : Nat) (a : Acc) (e : StashEntry) : Res (Nat × Dev) := do
  let pa := e.phys * 64 + v % 64
  let moves := !e.dirty && (a.writes || e.lease ≤ d.logical)
  if moves then d.notHeld pa size else pure ()
  d.linkReady pa size a
  let d := d.linkUsed pa size a
  let d := if a.writes then d.storeTime pa size else d
  let d := if moves && a.writes then d.snoop d.accessor (64 * realLine e.phys) 64 true else d
  pure (pa,
    if a.writes then (if moves then d.entryFilled v { e with dirty := true } else d.entryMade v { e with filled := d.ownTime e.phys })
    else if moves then d.renewed v e
    else d.entryMade v e)

/-- An access that has passed the checks of R101, performed: by the stash entry that an earlier access or an earlier lane of its own
instruction has filled, by a fill (R179), or outside mapped windows. Where the entry has gone since the check the access is translated
anew. -/
def performS (d : Dev) (va size : Nat) (a : Acc) (field : Nat) (t : Option (Nat × Leaf)) : Res (Nat × Dev) :=
  let v := va % 2 ^ 54
  if !d.stashed v then
    match t with
    | some t => d.served t.1 size a
    | none => d.access va size 1 a field
  else
    match d.stashFor v a, t with
    | some e, _ => d.entryUse v size a e
    | none, some t => d.touch v size a t
    | none, none => do
      let (t, d) ← d.pageAccess v size a field false
      d.touch v size a t

/-- An access of the S, V or X stream or of MLDW (R178): by the stash entry where the address lies in a mapped window, and
else by R101. An entry is filled on first touch under R101 and then holds its translation, with the rights of its leaf (R179, R321,
log 21). -/
def accessS (d : Dev) (va size al : Nat) (a : Acc) (field : Nat) : Res (Nat × Dev) := do
  let (t, d) ← d.checkS va size al a field
  d.performS va size a field t

/-- `accessS` on every line of a run of bytes. -/
def accessLinesS (d : Dev) (a : Acc) : List (Nat × Nat) → Res (List (Nat × Nat) × Dev)
  | [] => .ok ([], d)
  | (va, n) :: ls => do
    let (pa, d) ← d.accessS (va % 2 ^ 64) n 1 a (va % 2 ^ 64)
    let (ps, d) ← accessLinesS d a ls
    pure ((pa, n) :: ps, d)

/-- The entries of a window leave the stash, their data being in memory (R111, R179). -/
def dropWindow (g : Group) (w : Nat) : Group :=
  match Map.find g.windows w with
  | none => g
  | some (base, len) =>
    { g with windows := Map.del g.windows w, stash := g.stash.filter (fun e => !(base ≤ e.1 * 64 && e.1 * 64 < base + len)) }

/-- The stash entries of a window, or of all for `w = 8`. -/
def windowEntries (g : Group) (w : Nat) : Map StashEntry :=
  if w = 8 then g.stash
  else
    match Map.find g.windows w with
    | some (base, len) => g.stash.filter (fun e => base ≤ e.1 * 64 && e.1 * 64 < base + len)
    | none => []

/-- Write-back of the dirty entries of a window, or of all for `w = 8`; with `inv` the entries go (R112). -/
def flushWindow (g : Group) (w : Nat) (inv : Bool) : Group :=
  let hit (l : Nat) : Bool := (windowEntries g w).any (fun e => e.1 == l)
  if inv then { g with stash := g.stash.filter (fun e => !hit e.1) }
  else { g with stash := g.stash.map (fun e => if hit e.1 then (e.1, { e.2 with dirty := false }) else e) }

/-- The bytes of stash windows mapped by all groups of a core (R111). -/
def mappedBytes (d : Dev) (core : Nat) : Nat :=
  sumOf (fun s => sumOf (fun w => w.2.2) (d.group s.2).windows) (d.core core).slots

end Sys2Proof.Machine.Dev
end

