-- ==== Sys2Proof/Machine/Kernels.lean ====
section
/-!
DEFINITION. Kernels (spec/11_kernel.md R230 to R235): the object, verification, the kernel table of a context.
-/

namespace Sys2Proof.Machine
open Word

/-- An 8-byte LD.md read by the executing stream: the value, its line's poison, and the device with the access made. -/
abbrev Rd := Dev → Nat → Res (Nat × Bool × Dev)

/-- A failed check of verification (R232): cause 0x04, the base in the address field, the code in the step field. -/
def kernelTrap {α : Type} (base code : Nat) : Res α := .error (.trap { cause := 4, addr := BitVec.ofNat 64 base, step := code })

/-- A failed check unless a condition holds. -/
def kernelCheck (ok : Bool) (base code : Nat) : Res Unit := if ok then .ok () else kernelTrap base code

/-- `n` 8-byte words from an address, in ascending order. -/
def readWords (rd : Rd) (d : Dev) (a : Nat) : Nat → Res (List (Nat × Bool) × Dev)
  | 0 => .ok ([], d)
  | n + 1 => do
    let (v, p, d) ← rd d (a % 2 ^ 64)
    let (vs, d) ← readWords rd d (a + 8) n
    pure ((v, p) :: vs, d)

/-- No member of a list twice. -/
def noDup (xs : List Nat) : Bool := decide xs.Nodup

/-- The fixed part of a kernel object (R230) as its eight words. -/
structure KHead where
  w : List Nat
  deriving DecidableEq, Repr

namespace KHead
/-- Word `i` of the fixed part. -/
def word (k : KHead) (i : Nat) : Nat := k.w.getD i 0
def streams (k : KHead) : Nat := fld (k.word 0) 48 8
def regs (k : KHead) : Nat := fld (k.word 1) 0 16
def rcpn (k : KHead) : Nat := fld (k.word 1) 16 16
def etype (k : KHead) : Nat := fld (k.word 1) 32 8
def trows (k : KHead) : Nat := fld (k.word 1) 40 8
def vbase (k : KHead) : Nat := fld (k.word 1) 48 16
/-- The entry offset of a stream. -/
def entry (k : KHead) (e : Nat) : Nat := k.word (2 + e)
def qn (k : KHead) : Nat := fld (k.word 6) 0 16
def rn (k : KHead) : Nat := fld (k.word 6) 16 16
def sn (k : KHead) : Nat := fld (k.word 6) 32 16
def code (k : KHead) : Nat := fld (k.word 7) 0 32

/-- The rows of a window (R42, R234). -/
def rows (k : KHead) : Nat := (k.regs + 31) / 32 * 32

/-- A valid code offset (R230). -/
def validOffset (k : KHead) (o : Nat) : Bool := o % 8 == 0 && 0x40 + 8 * (k.qn + k.rn + k.sn) ≤ o && o < k.code

/-- Checks 1 to 5 of R232: the first that fails. Bits [7:4] of STREAMS count as reserved (log 26). -/
def failure (k : KHead) : Option Nat :=
  if fld (k.word 0) 0 32 != 0x4E4B4441 || fld (k.word 0) 32 16 != 1 || fld k.streams 4 4 != 0 || fld (k.word 0) 56 8 != 0
      || fld (k.word 6) 48 16 != 0 || fld (k.word 7) 32 32 != 0 || k.code < 0x40 || 2 ^ 24 < k.code then some 1
  else if k.streams == 0
      || (List.range 4).any (fun e => if flag k.streams e then !k.validOffset (k.entry e) else k.entry e != 0) then some 2
  else if k.regs == 0 && fld k.streams 1 3 != 0 then some 3
  else if k.etype == 0 || 0xA < k.etype || k.trows == 0 || 64 < k.trows || 2047 < k.vbase then some 4
  else if 256 < k.rcpn || 248 < k.qn || 256 < k.rn || 64 < k.sn then some 5
  else none

/-- Check 6: the queue table (R231, R232). -/
def queuesOk (qs : List Nat) : Bool :=
  qs.all (fun q => fld q 0 8 < 248 && q < 2 ^ 20) && noDup (qs.map (fun q => fld q 0 8))

/-- The entry checks of check 7: the recipe table. -/
def recipesOk (k : KHead) (rs : List Nat) : Bool :=
  rs.all (fun r => fld r 0 8 < k.rcpn && fld r 11 21 == 0 && (if flag r 10 then k.validOffset (fld r 32 32) else fld r 32 32 == 0))
    && noDup (rs.map (fun r => fld r 0 8))

/-- Check 8: the slack table. -/
def slacksOk (k : KHead) (ss : List Nat) : Bool :=
  ss.all (fun s => fld s 50 14 == 0 && flag k.streams (fld s 48 2) && k.validOffset (fld s 0 32))
    && noDup (ss.map (fun s => fld s 48 2 * 2 ^ 32 + fld s 0 32))

end KHead

namespace Dev

/-- Whether a group that waits for its first placement names a kernel. -/
def kernelNamed (d : Dev) (n kid : Nat) : Bool :=
  d.groups.any (fun e => ctxOf e.1 == n && e.2.state == .pending && e.2.kernel == kid)

/-- A kernel taken from the table (R233, R235); one that a PENDING group names stays as a copy for it (log 27). -/
def removeKernel (d : Dev) (n kid : Nat) : Dev :=
  let c := d.ctx n
  if d.kernelNamed n kid then d.setCtx n { c with kernels := Map.upd {} c.kernels kid (fun k => { k with retired := true }) }
  else d.setCtx n { c with kernels := Map.del c.kernels kid }

/-- The verified kernel of a base (R233, R235). -/
def kernelAt (d : Dev) (n base : Nat) : Option Nat :=
  ((d.ctx n).kernels.find? (fun e => e.2.base == base && !e.2.retired)).map (·.1)

/-- Room for a kernel (R233): the least recently used entry with a count of 0 goes; check 10 when every count is nonzero. -/
def kernelRoom (d : Dev) (n base : Nat) : Res Dev :=
  let ks := (d.ctx n).kernels
  if (ks.filter (fun e => !e.2.retired || e.2.refs != 0)).length < 128 then .ok d
  else
    match (ks.filter (fun e => !e.2.retired && e.2.refs == 0)).foldl (fun (b : Option (Nat × Kernel)) e => match b with
        | none => some e
        | some x => if e.2.lru < x.2.lru then some e else some x) none with
    | none => kernelTrap base 10
    | some e => .ok (d.removeKernel n e.1)

/-- A recipe body of the table: its words read and checked (R232 phase 3). -/
def readBodies (rd : Rd) (d : Dev) (k : KHead) (base : Nat) : List Nat → Res (Map Recipe × Dev)
  | [] => .ok ([], d)
  | r :: rs =>
    if !flag r 10 then readBodies rd d k base rs
    else do
      let (ws, d) ← readWords rd d (base + fld r 32 32) (fld r 8 2 + 1)
      kernelCheck (bodyFault k.rows (ws.map (·.1))).isNone base 7
      let (m, d) ← readBodies rd d k base rs
      pure (Map.set m (fld r 0 8) { valid := true, words := ws.map (·.1), p := ws.any (·.2) }, d)

/-- Numbers in ascending order by a key. -/
def sortBy (f : Nat → Nat) (xs : List Nat) : List Nat := xs.sortWith (fun a b => f a ≤ f b)

/-- VERIFICATION of a base that is not in the table (R232): the first failure, of a read or of a check, is the answer. -/
def verifyNew (rd : Rd) (d : Dev) (n base : Nat) : Res (Nat × Dev) := do
  trapIf (base % 64 != 0) 5 base
  let (ws, d) ← readWords rd d base 8
  let k : KHead := ⟨ws.map (·.1)⟩
  match k.failure with
  | some c => kernelTrap base c
  | none => do
    let (ts, d) ← readWords rd d (base + 0x40) (k.qn + k.rn + k.sn)
    let ts := ts.map (·.1)
    let qs := ts.take k.qn
    let rs := (ts.drop k.qn).take k.rn
    let ss := ts.drop (k.qn + k.rn)
    kernelCheck (KHead.queuesOk qs) base 6
    kernelCheck (k.recipesOk rs) base 7
    kernelCheck (k.slacksOk ss) base 8
    let (bodies, d) ← readBodies rd d k base (sortBy (fun r => fld r 0 8) rs)
    let d ← d.kernelRoom n base
    let c := d.ctx n
    let v : View := ⟨k.vbase, k.trows, k.etype⟩
    let e : Kernel :=
      { base := base, streams := k.streams, regs := k.regs, rcpn := k.rcpn, view := v, entries := (List.range 4).map k.entry,
        queues := qs.map (fun q => (fld q 0 8, fld q 8 12)), recipes := bodies,
        slacks := ss.map (fun s => (fld s 48 2, fld s 0 32, fld s 32 16)), code := k.code, lru := d.uses }
    pure (c.kernelNext, { d with uses := d.uses + 1 }.setCtx n { c with kernels := Map.set c.kernels c.kernelNext e, kernelNext := c.kernelNext + 1 })

/-- The use of a kernel-table entry noted (R233). -/
def useKernel (d : Dev) (n kid : Nat) : Dev :=
  let c := d.ctx n
  { d with uses := d.uses + 1 }.setCtx n { c with kernels := Map.upd {} c.kernels kid (fun k => { k with lru := d.uses }) }

/-- A reference to a base (R235): the verified kernel, the outcome of a verification that has failed in this cycle, or its
verification. -/
def verify (rd : Rd) (d : Dev) (n base : Nat) : Res (Nat × Dev) :=
  match d.kernelAt n base, (d.ctx n).refused.find? (fun e => e.1 == base && e.2.2 == d.time + 1) with
  | some kid, _ => .ok (kid, d.useKernel n kid)
  | none, some e => .error (.trap e.2.1)
  | none, none => verifyNew rd d n base

/-- The outcome of a verification that has failed, for the other references to the base in its cycle (R235). -/
def noteRefused (d : Dev) (n base : Nat) : Stop → Dev
  | .wait _ => d
  | .trap t =>
    let c := d.ctx n
    d.setCtx n { c with refused := (base, { t with seen := none }, d.time + 1) :: c.refused.filter (·.2.2 == d.time + 1) }

/-- The verified kernel with a number. -/
def kernel (d : Dev) (n kid : Nat) : Kernel := Map.get {} (d.ctx n).kernels kid

/-- One more reference to a kernel (R235), which uses its entry (R233). -/
def bindKernel (d : Dev) (n kid : Nat) : Dev :=
  let d := d.useKernel n kid
  let c := d.ctx n
  d.setCtx n { c with kernels := Map.upd {} c.kernels kid (fun k => { k with refs := k.refs + 1 }) }

/-- A RETIRED kernel that nothing names any more goes (R235). -/
def cleanKernel (d : Dev) (n kid : Nat) : Dev :=
  let c := d.ctx n
  match Map.find c.kernels kid with
  | none => d
  | some k =>
    if k.retired && k.refs = 0 && !d.kernelNamed n kid then d.setCtx n { c with kernels := Map.del c.kernels kid } else d

/-- One reference to a kernel given back; a RETIRED kernel without references goes (R235). -/
def dropKernel (d : Dev) (n kid : Nat) : Dev :=
  let c := d.ctx n
  (d.setCtx n { c with kernels := Map.upd {} c.kernels kid (fun k => { k with refs := k.refs - 1 }) }).cleanKernel n kid

/-- Whether an object of a kernel has a byte in a range of the 54-bit address space. -/
def kernelIn (k : Kernel) (lo hi : Nat) : Bool :=
  let b := k.base % 2 ^ 54
  (b < hi && lo < b + k.code) || b + 2 ^ 54 < hi || lo + 2 ^ 54 < b + k.code

/-- CINV op 2 over a byte range (R113, R235): kernels with a byte in it become LOADED, or RETIRED while they are bound. -/
def retireKernels (d : Dev) (n lo hi : Nat) : Dev :=
  ((d.ctx n).kernels.filter (fun e => !e.2.retired && kernelIn e.2 lo hi)).foldl (fun d e =>
    if e.2.refs = 0 then d.removeKernel n e.1
    else
      let c := d.ctx n
      d.setCtx n { c with kernels := Map.upd {} c.kernels e.1 (fun k => { k with retired := true }) }) d

/-- The retirements of a cycle, after every reference made in it (R235). -/
def retireAll (d : Dev) : Dev :=
  d.retiring.foldl (fun d e => d.retireKernels e.1 e.2.1 e.2.2) { d with retiring := [] }

end Dev
end Sys2Proof.Machine
end

