-- ==== Sys2Proof/Machine/Image.lean ====
section
/-!
DEFINITION. The image of a saved group (spec/09_context.md R210, R211): what a save writes to its area and what placement reads
back.
-/

namespace Sys2Proof.Machine
open Word

namespace Dev

/-- Every tagged row of a group dropped: contents discarded, poison kept (R62, R64); not one that has been written, retagged or read in
the present cycle. -/
def dropTagged (g : Group) (now : Nat) : Group :=
  { g with rows := g.rows.map (fun (e : Nat × Row) => match e.2.tag with
      | .tagged i => if (today g now).rows.contains e.1 then e else (e.1, { e.2 with v := 0, tag := .dropped i })
      | _ => e) }

/-- The image address of a group's record (R210). -/
def imageOf (d : Dev) (key : Nat) : Nat := (d.ctx (ctxOf key)).img * 4096 + 0x1000 + 0x480000 * idxOf key

/-- A range of whole lines of an image area written with the listed bytes, zeros elsewhere. -/
def storeArea (d : Dev) (a n : Nat) (x : Memory) : Dev :=
  let l0 := lineOf a
  let l1 := lineOf (a + n - 1)
  if n = 0 then d
  else if d.lakeMask != 0 then d.storeBytes a (x.bytes 0 n) false
  else
    { d.staleHoist l0 l1 with
      mem := d.mem.paste a n x, poisoned := d.poisoned.filter (fun l => l < l0 || l1 < l), leases := dateLines l0 l1 d.leases }

/-- A range of an image area read: its listed bytes by offset, and the poisoned lines by their place in it. -/
def loadArea (d : Dev) (a n : Nat) : Memory × List Nat :=
  let bytes := if d.lakeMask = 0 then d.mem.slice a n
    else ((List.range n).zip (d.lds a n)).filter (fun c => c.2 != 0)
  let ls := if d.lakeMask = 0 then d.poisoned.filter (fun l => lineOf a ≤ l && l < lineOf (a + n))
    else (List.range (n / 64)).map (lineOf a + ·) |>.filter d.linePoisoned
  (bytes, ls.map (· - lineOf a))

/-- The address of half `h` in the image of a group (R210). -/
def halfAt (d : Dev) (key h : Nat) : Nat := d.imageOf key + 0x10000 + 0x20000 * h

/-- The weight halves of a group written to its image (R156, R210, R211): those loaded since their last save, and with `all` those
that the image has never taken. -/
def writeHalves (d : Dev) (key : Nat) (all : Bool) : Dev :=
  let g := d.group key
  let write (x : Half) : Bool := x.dirty || (all && !x.saved)
  let half (d : Dev) (h : Nat) (x : Half) : Dev := if write x then d.storeArea (d.halfAt key h) 0x20000 x.bytes else d
  let done (x : Half) : Half := if write x then { x with dirty := false, saved := true } else x
  let d := half (half d 0 g.wb0) 1 g.wb1
  d.setGroup key { d.group key with wb0 := done g.wb0, wb1 := done g.wb1 }

/-- The weight halves of a group read back from its image, where it has taken them (R156, R211). -/
def readHalves (d : Dev) (key : Nat) : Dev :=
  let g := d.group key
  let half (h : Nat) (x : Half) : Half :=
    if x.saved then
      let r := d.loadArea (d.halfAt key h) 0x20000
      { x with bytes := r.1, p := r.2.foldl (fun m l => insertNat l m) x.p }
    else x
  d.setGroup key { g with wb0 := half 0 g.wb0, wb1 := half 1 g.wb1 }

/-! ### The control area and the restart state -/

/-- Fields of an area, by offset, number of bytes and value, as its listed bytes. -/
def areaOf (fs : List (Nat × Nat × Nat)) : Memory :=
  (fs.filter (fun f => f.2.2 != 0)).foldl (fun m f => m.write f.1 f.2.1 f.2.2) []

/-- The entries of a map that have a property, as a word of bits. -/
def bitsOf {α : Type} (p : α → Bool) (m : Map α) : Nat := sumOf (fun e => bit (p e.2) * 2 ^ e.1) m

/-- A number that may be absent, as an area holds it. -/
def optNum : Option Nat → Nat
  | some n => n + 1
  | none => 0

/-- What an area holds of a number that may be absent. -/
def numOpt (n : Nat) : Option Nat := if n = 0 then none else some (n - 1)

/-- What a control area holds of a stream (R210): its registers with their poison bits, its PC, its loops and its step, its pending
transfer (R245), its event latch (R270) and its position (R391). The places are the model's (DESIGN CHOICE, log 14). -/
def streamFields (a : Nat) (x : Stream) : List (Nat × Nat × Nat) :=
  x.r.map (fun e => (a + 8 * e.1, 8, e.2.v.toNat))
    ++ [(a + 0x200, 8, bitsOf (·.p) x.r), (a + 0x208, 2, bitsOf (·.v) x.c), (a + 0x20A, 2, bitsOf (·.p) x.c), (a + 0x210, 8, x.pc.toNat)]
    ++ x.b.map (fun e => (a + 0x220 + 8 * e.1, 8, e.2.toNat))
    ++ [(a + 0x260, 8, x.loops.length)]
    ++ ((List.range 6).zip x.loops).flatMap (fun e =>
      [(a + 0x268 + 24 * e.1, 8, e.2.start.toNat), (a + 0x270 + 24 * e.1, 8, e.2.remaining.toNat), (a + 0x278 + 24 * e.1, 8, e.2.iter.toNat)])
    ++ [(a + 0x2F8, 8, x.resumeStep), (a + 0x300, 2, bitsOf (·.p) x.k), (a + 0x308, 8, x.position), (a + 0x310, 8, x.slack),
      (a + 0x318, 1, bit x.event), (a + 0x319, 1, bit x.retired), (a + 0x31A, 1, (x.pend.map (fun p => p.left + 1)).getD 0),
      (a + 0x31B, 1, (x.pend.map (·.exits)).getD 0), (a + 0x31C, 1, optNum (x.pend.bind (·.link))),
      (a + 0x320, 8, (x.pend.map (·.target.toNat)).getD 0)]
    ++ x.k.map (fun e => (a + 0x400 + 128 * e.1, 128, e.2.v.toNat))

/-- The state and the marks of a row as a control area holds them (R210). -/
def tagBits (r : Row) : Nat :=
  let t := match r.tag with
    | .live => 0
    | .tagged i => 0x100 + i
    | .dropped i => 0x200 + i
  t + bit r.p * 0x400 + bit r.sat * 0x800

/-- What a control area holds of a group beside its streams (R210): hold state, the targets of a STOPAT (R393), CSRs, token FIFOs, stash
windows, the fixed queues (R214), the binding table (R225), row tags, recipe entries. The rows of q249 stand in an area of their own (`queueRows`). -/
def groupFields (g : Group) : List (Nat × Nat × Nat) :=
  [(0x4000, 8, optNum g.heldBy), (0x4058, 1, bit g.stopped), (0x4059, 1, bit g.q252lost),
    (0x405A, 1, bit g.stopAt.isSome),
    (0x4008, 8, g.fflags), (0x4010, 8, g.sflags), (0x4018, 8, g.xval), (0x4020, 8, g.srkey.toNat), (0x4028, 8, g.srctrV.toNat),
    (0x4030, 8, g.srctrX.toNat), (0x4038, 8, g.thresh), (0x4040, 8, g.viewNext.vbase), (0x4048, 8, g.viewNext.trows),
    (0x4050, 8, g.viewNext.etype)]
    ++ g.tokens.map (fun e => (0x4060 + 8 * e.1, 8, e.2)) ++ g.tokenRes.map (fun e => (0x40C0 + 2 * e.1, 2, e.2))
    ++ g.windows.flatMap (fun e => [(0x4100 + 16 * e.1, 8, e.2.1), (0x4108 + 16 * e.1, 8, e.2.2)])
    ++ ((List.range 4).zip (g.stopAt.getD [])).map (fun e => (0x4180 + 8 * e.1, 8, e.2))
    ++ [(0x4200, 8, g.q248.length), (0x4208, 8, bitsOf (·.p) ((List.range 16).zip g.q248)), (0x4218, 8, g.q249.length),
      (0x4220, 8, bitsOf (·.p) ((List.range 32).zip g.q249)), (0x4228, 8, g.q252.length)]
    ++ ((List.range 16).zip g.q248).map (fun e => (0x4280 + 8 * e.1, 8, e.2.v.toNat))
    ++ ((List.range 32).zip g.q252).map (fun e => (0x4300 + 8 * e.1, 8, e.2.toNat))
    ++ g.ports.map (fun e => (0x6000 + 8 * e.1, 8, e.2.queue + e.2.mode * 2 ^ 12 + e.2.round * 2 ^ 16))
    ++ g.rows.map (fun e => (0x5000 + 2 * e.1, 2, tagBits e.2))
    ++ g.recipes.flatMap (fun e =>
      (0x8000 + 40 * e.1, 8, bit e.2.valid + 2 * bit e.2.p + 4 * e.2.words.length)
        :: ((List.range 4).zip e.2.words).map (fun w => (0x8008 + 40 * e.1 + 8 * w.1, 8, w.2)))

/-- What the image holds of an operation in progress beside its rows (R171, R210): its word, its address, its step, its numbers and the
registers that it has staged. -/
def opFields (a : Nat) (o : LongOp) : List (Nat × Nat × Nat) :=
  [(a, 8, o.word), (a + 8, 8, o.pc.toNat), (a + 16, 8, o.step), (a + 24, 128, o.mask.v.toNat)]
    ++ ((List.range 96).zip o.n).map (fun e => (a + 0x100 + 8 * e.1, 8, e.2))
    ++ ((List.range 64).zip o.regs).map (fun e => (a + 0x400 + 8 * e.1, 8, e.2.v.toNat))

/-- What a control area holds (R210); the restart state of operations but for their rows stands there too, since the operand latch alone
fills the area of R210 (log 14). -/
def controlFields (g : Group) : List (Nat × Nat × Nat) :=
  let part (o : Option LongOp) (a : Nat) : List (Nat × Nat × Nat) := (o.map (opFields a)).getD []
  engines.flatMap (fun e => streamFields (0x1000 * e.num) (g.stream e)) ++ groupFields g
    ++ part g.streamV.op 0xB000 ++ part g.streamV.load 0xB800 ++ part g.streamM.op 0xC000 ++ part g.streamM.load 0xC800
    ++ part g.streamX.op 0xD000

/-- What a restart-state area holds (R171, R210): the rows that the operations in progress have staged, the operand latch among them. -/
def restartFields (g : Group) : List (Nat × Nat × Nat) :=
  let rows (o : Option LongOp) : List RowData := (o.map (·.rows)).getD []
  ((List.range 64).zip (rows g.streamM.op ++ rows g.streamV.op ++ rows g.streamX.op)).map (fun e => (2048 * e.1, 2048, e.2.v.toNat))

/-- The rows that q249 holds, as an image has them (R214): in the reserved 64 KiB of the record (log 14). -/
def queueRows (g : Group) : List (Nat × Nat × Nat) := ((List.range 32).zip g.q249).map (fun e => (2048 * e.1, 2048, e.2.v.toNat))

/-- The control area of a group, the restart state of its operations and the rows of q249 written to its image (R210, R211): the control
area where it is not what the image has. -/
def writeControl (d : Dev) (key : Nat) : Dev :=
  let g := d.group key
  let x := areaOf (controlFields g)
  let area (o n : Nat) (fs : List (Nat × Nat × Nat)) (d : Dev) : Dev := if fs.isEmpty then d else d.storeArea (d.imageOf key + o) n (areaOf fs)
  let d := if g.saved && g.control = x then d else (d.storeArea (d.imageOf key) 0x10000 x).setGroup key { g with control := x }
  area 0x70000 0x10000 (queueRows g) (area 0x50000 0x20000 (restartFields g) d)

/-- A stream with what a control area holds of it: registers, PC, loops and step, pending transfer, event latch and position; a register
whose line is poisoned there is poisoned (R177, R211). -/
def readStream (m : Memory) (ls : List Nat) (a n : Nat) (x : Stream) : Stream :=
  let num (o k : Nat) : Nat := m.read (a + o) k
  let word (o : Nat) : Word := BitVec.ofNat 64 (num o 8)
  let bad (o : Nat) : Bool := ls.contains ((a + o) / 64)
  let p := num 0x200 8
  let c := num 0x208 4
  let kp := num 0x300 2
  if !x.declared then x
  else { x with
    r := ((List.range n).map (fun i => (i, (⟨word (8 * i), flag p i || bad (8 * i)⟩ : Reg)))).filter (fun e => e.2 != {})
    c := ((List.range 16).map (fun i => (i, (⟨flag c i, flag c (16 + i) || bad 0x208⟩ : CReg)))).filter (fun e => e.2 != {})
    b := ((List.range 8).map (fun i => (i, asTarget (word (0x220 + 8 * i))))).filter (fun e => e.2 != 0)
    k := ((List.range 16).map (fun i =>
        (i, (⟨BitVec.ofNat 1024 (num (0x400 + 128 * i) 128), flag kp i || bad (0x400 + 128 * i) || bad (0x440 + 128 * i)⟩ : KReg)))).filter
      (fun e => e.2 != {})
    pc := asTarget (word 0x210)
    loops := (List.range (min 6 (num 0x260 8))).map (fun i =>
      ⟨word (0x268 + 24 * i), word (0x270 + 24 * i), word (0x278 + 24 * i)⟩)
    resumeStep := num 0x2F8 8, position := num 0x308 8, slack := num 0x310 8, event := num 0x318 1 = 1, retired := num 0x319 1 = 1
    pend := (numOpt (num 0x31A 1)).map (fun n => ⟨asTarget (word 0x320), n, num 0x31B 1, numOpt (num 0x31C 1)⟩) }

/-- COR_XVAL written: the 5-bit two's-complement value, kept to -13 to +13 (R71). -/
def clampXval (v : Nat) : Nat := ofInt (max (-13) (min 13 (sext v 5))) 5

/-- The state and the marks of a row read from a control area (R211). -/
def withTag (r : Row) (w : Nat) : Row :=
  let t : RowTag := match w / 0x100 % 4 with
    | 1 => .tagged (w % 0x100)
    | 2 => .dropped (w % 0x100)
    | _ => .live
  { r with tag := t, p := flag w 10, sat := flag w 11 }

/-- The keys of a table together with those of the entries of `n` bytes that an area lists from `lo` to `hi`. -/
def areaKeys {α : Type} (m : Memory) (lo hi n : Nat) (x : Map α) : List Nat :=
  (Map.keys x ++ (m.filter (fun c => lo ≤ c.1 && c.1 < hi)).map (fun c => (c.1 - lo) / n)).eraseDups

/-- What the image holds of a group's control state, read back (R206, R210, R211, R214, R225): the registers of its streams, hold state,
CSRs, token FIFOs, stash windows, fixed queues, binding table, row tags and recipe entries. The operations in progress are the group's
own, which is what the image has of them (log 14). -/
def readControl (d : Dev) (key : Nat) : Dev :=
  let g := d.group key
  let (m, ls) := d.loadArea (d.imageOf key) 0x10000
  let (q, qls) := d.loadArea (d.imageOf key + 0x70000) 0x10000
  let num (o k : Nat) : Nat := m.read o k
  let word (o : Nat) : Word := BitVec.ofNat 64 (num o 8)
  let row (i : Nat) : RowBits := BitVec.ofNat 16384 (q.read (2048 * i) 2048)
  let port (i : Nat) : Binding := ⟨num (0x6000 + 8 * i) 8 % 2 ^ 12, num (0x6000 + 8 * i) 8 / 2 ^ 12 % 4, num (0x6000 + 8 * i) 8 / 2 ^ 16⟩
  let recipe (i : Nat) : Recipe :=
    let h := num (0x8000 + 40 * i) 8
    { Map.get {} g.recipes i with
      valid := flag h 0, p := flag h 1, words := (List.range (min 4 (h / 4))).map (fun j => num (0x8008 + 40 * i + 8 * j) 8) }
  d.setGroup key { g with
    control := m
    streamS := readStream m ls 0 64 g.streamS, streamV := readStream m ls 0x1000 16 g.streamV
    streamM := readStream m ls 0x2000 16 g.streamM, streamX := readStream m ls 0x3000 16 g.streamX
    heldBy := numOpt (num 0x4000 8), stopped := num 0x4058 1 = 1, q252lost := num 0x4059 1 = 1
    stopAt := if num 0x405A 1 = 1 then some ((List.range 4).map (fun i => num (0x4180 + 8 * i) 8)) else none
    fflags := num 0x4008 2, sflags := num 0x4010 1 % 2 ^ 5, xval := clampXval (num 0x4018 1)
    srkey := word 0x4020, srctrV := word 0x4028, srctrX := word 0x4030
    thresh := num 0x4038 1 + (if num 0x4039 1 % 4 = 3 then 0 else num 0x4039 1 % 4) * 2 ^ 8
    tokens := ((List.range 12).map (fun i => (i, min 32 (num (0x4060 + 8 * i) 8)))).filter (fun e => e.2 != 0)
    tokenRes := ((List.range 12).map (fun i => (i, num (0x40C0 + 2 * i) 2))).filter (fun e => e.2 != 0)
    windows := ((List.range 8).map (fun i => (i, num (0x4100 + 16 * i) 8, num (0x4108 + 16 * i) 8))).filter (fun e => e.2.2 != 0)
    q248 := (List.range (min 16 (num 0x4200 8))).map (fun i => ⟨word (0x4280 + 8 * i), flag (num 0x4208 8) i⟩)
    q249 := (List.range (min 32 (num 0x4218 8))).map (fun i => ⟨row i, flag (num 0x4220 8) i || qls.any (fun l => l / 32 == i)⟩)
    q252 := (List.range (min 32 (num 0x4228 8))).map (fun i => word (0x4300 + 8 * i))
    ports := ((areaKeys m 0x6000 0x6800 8 g.ports).foldl (fun x i => Map.set x i (port i)) g.ports).filter (fun e => e.2.mode != 0)
    rows := (areaKeys m 0x5000 0x6000 2 g.rows).foldl
      (fun x i => Map.set x i (withTag (Map.get {} x i) (num (0x5000 + 2 * i) 2))) g.rows
    recipes := (areaKeys m 0x8000 0xA800 40 g.recipes).foldl (fun x i => Map.set x i (recipe i)) g.recipes }

/-- The header of a context's image area (R210): its save count and the indices of its groups. -/
def writeHeader (d : Dev) (n : Nat) : Dev :=
  let c := d.ctx n
  let gs := (Map.keys d.groups).filter (fun k => ctxOf k == n && idxOf k < 1024 && (d.group k).saved)
  d.storeArea (c.img * 4096) 0x1000 (areaOf [(0, 8, c.saves), (8, 128, sumOf (fun k => 2 ^ idxOf k) gs)])

/-- The row area of an image as a first save finds it: zeros, but for the places of dropped rows, which are left as they are (R211). -/
def clearRows (d : Dev) (key : Nat) : Dev :=
  let g := d.group key
  let a := d.imageOf key + 0x80000
  if g.rows.any (fun e => isDropped e.2) then
    (List.range g.rowsN).foldl (fun d r => if isDropped (rowIn g r) then d else d.storeArea (a + 2048 * r) 2048 []) d
  else d.storeArea a (2048 * g.rowsN) []

/-- A group written to its image (R210, R211): rows and weight halves all of them the first time, then those written since the last
save; a dropped row is not written. -/
def writeImage (d : Dev) (key : Nat) : Dev :=
  let g := d.group key
  let a := d.imageOf key + 0x80000
  let d := if g.saved then d else d.clearRows key
  let d := g.rows.foldl (fun d e =>
    if isDropped e.2 || (g.saved && !e.2.dirty) then d else d.storeBytes (a + 2048 * e.1) (toBytes 2048 e.2.v.toNat) false) d
  let d := d.setGroup key { d.group key with rows := Map.mapV (fun (r : Row) => { r with dirty := false }) g.rows }
  (if g.streamM.declared then d.writeHalves key true else d).writeControl key

/-- The rows of a group read from its image at placement (R211), with poison and tags as saved; a line that has become poisoned
poisons its row (R177). -/
def restoreRows (d : Dev) (key : Nat) : Dev :=
  let g := d.group key
  let (bytes, ls) := d.loadArea (d.imageOf key + 0x80000) (2048 * g.rowsN)
  let rs := (Map.keys g.rows ++ bytes.map (fun (c : Host.Cell) => c.1 / 2048) ++ ls.map (· / 32)).eraseDups
  let value (r : Nat) : RowBits := BitVec.ofNat 16384 (sumOf (fun c => c.2.toNat * 2 ^ (8 * (c.1 % 2048))) (bytes.filter (fun c => c.1 / 2048 == r)))
  let rows := rs.foldl (fun m r =>
    let x := rowIn g r
    if isDropped x then m else Map.set m r { x with v := value r, p := x.p || ls.any (fun l => l / 32 == r) }) g.rows
  d.setGroup key { g with rows := rows }

/-- A group read from its image at placement (R211). -/
def readImage (d : Dev) (key : Nat) : Dev := ((d.readControl key).restoreRows key).readHalves key

end Dev

end Sys2Proof.Machine
end

