-- ==== Sys2Proof/Machine/Groups.lean ====
section
/-!
DEFINITION. The life of a group (spec/12_group.md R237, R240, R250 to R258, spec/11_kernel.md R234, spec/09_context.md R210,
R211): requests, placement, pre-emption, retirement, pipelines and the stage scheduler.
-/

namespace Sys2Proof.Machine
open Word

namespace Dev

/-! ### Sites, clusters and room -/

/-- Whether a site is clocked in a state (R364, R388). -/
def clocked (x : Site) : Bool := x.state != .mappedOut && x.state != .retained && x.state != .gated

/-- Cycles that are over added to counter 0 of a site (R387, R388), but for one in which the counter has been written. -/
def addClock (c : Counters) (n : Nat) : Counters :=
  let v := Map.get 0 c.vals 0 + n - bit c.skip
  { c with
    vals := Map.set c.vals 0 (v % 2 ^ 48), skip := false, ovf := if v < 2 ^ 48 then c.ovf else c.ovf ||| 1 }

/-- Counter 0 of every clocked site brought up to the present cycle (R388). -/
def syncClock (d : Dev) : Dev :=
  let n := d.time - d.clockMark
  if n = 0 then d
  else
    let up (m : Map Counters) (s : Nat) : Map Counters := if clocked (d.site s) then Map.upd {} m s (addClock · n) else m
    { d with counters := (List.range 144).foldl up d.counters, clockMark := d.time }

/-- A site changed; its cycles so far are counted first. -/
def setSite (d : Dev) (s : Nat) (x : Site) : Dev :=
  let d := if (d.site s).state = x.state then d else d.syncClock
  { d with sites := Map.set d.sites s x }

/-- Whether a logical core can take a group: present, on a working site of an ACTIVE cluster (R257, R366, R374). -/
def coreUp (d : Dev) (core : Nat) : Bool :=
  d.siteRuns core && (d.cluster (clusterOf core)).power == .active

/-- Free recipe entries of a core (R42). -/
def freeRecipes (d : Dev) (core : Nat) : Nat := 256 - sumOf (fun s => (d.group s.2).recipesN) (d.core core).slots

/-- What a request needs: rows, whether its kernel asks for exactly 2048 of them, recipe entries, whether it declares an M stream
(R257). -/
structure Need where
  rows : Nat
  whole : Bool
  recipes : Nat
  mstream : Bool
  deriving DecidableEq, Repr

/-- The needs of a PENDING or SUSPENDED group. -/
def needOf (d : Dev) (key : Nat) : Need :=
  let g := d.group key
  let k := d.kernel (ctxOf key) g.kernel
  if g.state = .pending then ⟨(k.regs + 31) / 32 * 32, k.regs == 2048, k.rcpn, flag k.streams 2⟩
  else ⟨g.rowsN, k.regs == 2048, g.recipesN, g.streamM.declared⟩

/-- Cores that a request may be placed on, whatever their room (R257, R342). -/
def eligible (d : Dev) (key core : Nat) : Bool :=
  let g := d.group key
  if g.pin = 0xF0 || g.pin = 0xF1 then core = g.pin && d.siteRuns core
  else core < 128 && flag (d.ctx (ctxOf key)).clumask (core / 8) && d.coreUp core && (g.pin = 256 || g.pin = core)

/-- Whether a core is a candidate for a request (R257). -/
def candidate (d : Dev) (key core : Nat) : Bool :=
  let n := d.needOf key
  let slots := (d.core core).slots
  d.eligible key core &&
    (if 128 ≤ core then slots.isEmpty
     else slots.length < 8 && n.rows ≤ 32 * d.freeGranules core && n.recipes ≤ d.freeRecipes core
      && (!n.whole || slots.isEmpty))

/-- The cores that a group can be pinned to. -/
def allCores : List Nat := List.range 128 ++ [0xF0, 0xF1]

/-- Whether a core has a resident group that declares an M stream. -/
def hasM (d : Dev) (core : Nat) : Bool := (d.core core).slots.any (fun s => (d.group s.2).streamM.declared)

/-- The order of R257 among candidates: whether `a` is better than `b`; ties go to the lower number. -/
def betterCore (d : Dev) (m : Bool) (a b : Nat) : Bool :=
  let f (c : Nat) : Nat := if m && d.hasM c then 1 else 0
  let n (c : Nat) : Nat := (d.core c).slots.length
  let r (c : Nat) : Nat := 64 - d.freeGranules c
  if f a != f b then f a < f b else if n a != n b then n a < n b else if r a != r b then r a < r b else a < b

/-- The best of the candidates that no earlier request reserves (R257). -/
def bestCore (d : Dev) (key : Nat) (reserved : List Nat) : Option Nat :=
  (allCores.filter (fun c => d.candidate key c && !reserved.contains c)).foldl (fun (b : Option Nat) c => match b with
    | none => some c
    | some x => if d.betterCore (d.needOf key).mstream c x then some c else some x) none

/-! ### Pre-emption -/

/-- An operation in progress at pre-emption or migration: a CHECKED block of an XDEC goes back to QUEUED (R286); an MMT or MMV
chooses its path and stages its accumulator afresh when it goes on (R164, R171). -/
def restartOp (o : LongOp) : LongOp :=
  match o.ins with
  | .xdec .. => { o with rows := [] }
  | .mmt .. | .mmv .. | .mmvHandle .. => { o with n := (o.n.set 6 0).set 7 0 }
  | _ => o

/-- A stream as it is saved: its waits are evaluated afresh, a skip starts over, a yield ends (R223, R248, R268, R270, R272). -/
def savedStream (x : Stream) : Stream :=
  let x := { x with wait := .none, hoist := [], decoded := [], yieldUntil := 0, rdv := none, op := x.op.map restartOp, load := x.load.map restartOp }
  match x.skip with
  | some (_, a) => { x with pc := a, skip := some (0, a) }
  | none => x

/-- PRE-EMPTION of a resident group (R210, R211, R223, R240): image saved, core left; a held group is saved held, and so is one in a STOPAT,
which stays held until RELEASE (R393, log 28). -/
def suspend (d : Dev) (key : Nat) : Dev :=
  let g := d.group key
  if g.state != .running && g.state != .held then d
  else
    let d := (d.setGroup key (dropTagged g d.time)).leaveCore key
    let g := d.group key
    let d := (d.setGroup key { g with
      state := .suspended, stopped := g.stopped || g.stopAt.isSome, core := 0xFF, stash := [], lent := [], toStep := [], queued := d.time,
      streamS := savedStream g.streamS, streamV := savedStream g.streamV,
      streamM := savedStream g.streamM, streamX := savedStream g.streamX }).writeImage key
    d.setGroup key { d.group key with saved := true }

/-! ### Placement -/

/-- The lowest free resident slot of a core. -/
def freeSlot (d : Dev) (core : Nat) : Nat := ((Map.fresh (d.core core).slots 8)).getD 0

/-- The mailboxes lose their entries when a group of another context is placed on a control core (R343). -/
def mailboxPlaced (d : Dev) (n : Nat) : Dev :=
  let keep (m : Mailbox) : Mailbox := if m.ctx == some n || m.ctx == none then m else {}
  { d with q250 := keep d.q250, q251 := keep d.q251 }

/-- A group put into a slot of a core. -/
def takeSlot (d : Dev) (key core : Nat) : Dev × Nat :=
  let s := d.freeSlot core
  let c := d.core core
  let d := d.setCore core { c with slots := Map.set c.slots s key }
  (if 128 ≤ core then d.mailboxPlaced (ctxOf key) else d, s)

/-- A stream as R237 starts it: entry point, argument, group index, and the stage word of a stage group; an event sent to it while
it was PENDING is kept (R271). -/
def freshStream (k : Kernel) (e : Engine) (idx : Nat) (g : Group) : Stream :=
  if !flag k.streams e.num then {}
  else
    let word : List (Nat × Reg) := match g.stage with
      | some (p, i) => [(3, ⟨BitVec.ofNat 64 (i + p * 256), false⟩)]
      | none => []
    { declared := true, event := (g.stream e).event, pc := BitVec.ofNat 64 (k.base + k.entries.getD e.num 0),
      r := [(1, g.arg), (2, ⟨BitVec.ofNat 64 idx, false⟩)] ++ word }

/-- The bindings that placement makes for the queue table of a kernel (R225, R234). -/
def bindTable (d : Dev) (n : Nat) (qs : List (Nat × Nat)) : Map Binding :=
  qs.foldl (fun m e =>
    let w := d.widestMode n e.2
    if w = 0 then m else Map.set m e.1 ⟨e.2, w, (d.queue e.2).round⟩) []

/-- First placement of a group (R234, R237). -/
def placeFresh (d : Dev) (key core : Nat) : Dev :=
  let n := ctxOf key
  let g := d.group key
  let k := d.kernel n g.kernel
  let (d, s) := d.takeSlot key core
  let d := d.bindKernel n g.kernel
  let st (e : Engine) : Stream := freshStream k e (idxOf key) g
  d.setGroup key { g with
    state := if g.stopped then .held else .running, core := core, slot := s, placed := some d.time, placedAt := d.time, runSince := d.time, lastIssue := d.time,
    rowsN := (k.regs + 31) / 32 * 32, recipesN := k.rcpn, view := k.view, viewNext := k.view,
    recipes := k.recipes, ports := d.bindTable n k.queues,
    streamS := st .S, streamV := st .V, streamM := st .M, streamX := st .X }

/-- A stream of a group that is placed again: its event latch is 1 (R270). -/
def wokenStream (x : Stream) : Stream := if x.declared then { x with event := true } else x

/-- Placement of a suspended group from its image (R211, R240): RUNNING, or HELD where it was saved held. The service entries that
still wait go to the new core; one that was discarded there is made afresh only after a STOP or a CHECKPOINT, and again only on a
core with a handler (R204). -/
def placeAgain (d : Dev) (key core : Nat) : Dev :=
  let (d, s) := (d.readImage key).takeSlot key core
  let c := d.core core
  let g := d.group key
  let g := if c.svec = 0 then { g with entries := g.entries.map (fun (e : Pending) => { e with lost := true }) } else g
  let held := g.stopped || g.heldBy.isSome
  let d := d.setGroup key { g with
    state := if held then .held else .running, core := core, slot := s, placedAt := d.time, runSince := d.time, lastIssue := d.time,
    view := g.viewNext,
    streamS := wokenStream g.streamS, streamV := wokenStream g.streamV,
    streamM := wokenStream g.streamM, streamX := wokenStream g.streamX }
  d.setCore core { c with pending := c.pending ++ g.entries.filter (fun e => !e.lost) }

/-- PLACEMENT of a group on a core. -/
def place (d : Dev) (key core : Nat) : Dev :=
  if (d.group key).state = .pending then d.placeFresh key core else d.placeAgain key core

/-! ### Requests -/

/-- The groups of a context in every state (R251). -/
def groupCount (d : Dev) (n : Nat) : Nat := (d.groups.filter (fun e => ctxOf e.1 == n)).length

/-- The lowest free group index of a context (R240). -/
def freeIndex (d : Dev) (n : Nat) : Nat :=
  ((List.range (d.groupCount n + 1)).find? (fun i => (Map.find d.groups (keyOf n i)).isNone)).getD 0

/-- A placement request for a new group (R240, R251): its index. -/
def request (d : Dev) (n kid : Nat) (arg : Reg) (pin : Nat) (stage : Option (Nat × Nat)) : Nat × Dev :=
  let i := d.freeIndex n
  (i, d.setGroup (keyOf n i)
    { kernel := kid, arg := arg, pin := pin, stage := stage, age := d.time, queued := d.time, notIdle := d.time + 1, notIdleBefore := d.time + 1 })

/-- A request that has not been placed is withdrawn (R254, R256, R369). -/
def withdraw (d : Dev) (key : Nat) : Dev :=
  let kid := (d.group key).kernel
  ({ d with groups := Map.del d.groups key }).cleanKernel (ctxOf key) kid

/-! ### Pipelines -/

/-- The groups of a pipeline. -/
def pipeGroups (d : Dev) (n p : Nat) : List Nat :=
  Map.keys (d.groups.filter (fun e => ctxOf e.1 == n && (e.2.stage.map (·.1)) == some p))

/-- The groups of a stage. -/
def stageGroups (d : Dev) (n p i : Nat) : List Nat :=
  Map.keys (d.groups.filter (fun e => ctxOf e.1 == n && e.2.stage == some (p, i)))

/-- The end of a DRAINING pipeline without groups (R254): kernels released, and the word to the group that drained it. -/
def pipeEnd (d : Dev) (n p : Nat) : Dev :=
  match Map.find (d.ctx n).pipes p with
  | none => d
  | some x =>
    if !x.draining || !(d.pipeGroups n p).isEmpty then d
    else
      let d := x.stages.foldl (fun d s => d.dropKernel n s.kernel) d
      let c := d.ctx n
      let d := d.setCtx n { c with pipes := Map.del c.pipes p }
      match x.drainedBy with
      | none => d
      | some i => if (d.group (keyOf n i)).core = 0xFF then d else d.notify (keyOf n i) (1 * 2 ^ 48 + p)

/-- A debug stop of a group that is no longer there ends (R393, log 28). -/
def stopLost (d : Dev) (key : Nat) : Dev :=
  let c := d.ctx (ctxOf key)
  if c.dbgStat = 1 && c.dbgGroup = idxOf key then d.setCtx (ctxOf key) { c with dbgStat := 2 } else d

/-- A placed group ends (R235, R250): its kernel reference returns, and its pipeline may end. -/
def endGroup (d : Dev) (key : Nat) : Dev :=
  let g := d.group key
  let d := ((d.removeGroup key).dropKernel (ctxOf key) g.kernel).stopLost key
  match g.stage with
  | some (p, _) => d.pipeEnd (ctxOf key) p
  | none => d

/-- RETIREMENT of a group whose declared streams have all retired (R250): tokens left are counted. -/
def retireGroup (d : Dev) (key : Nat) : Dev :=
  let g := d.group key
  (d.countOn g.core 28 (sumOf (·.2) g.tokens)).endGroup key

/-- A group marked to shrink (R254, R256). -/
def mark (d : Dev) (key : Nat) : Dev := d.setGroup key { d.group key with marked := true, markedAt := d.time }

/-- A stage's queues as its kernel's table binds them (R255): the input queue with its port, and the output queues. -/
def stageQueues (d : Dev) (n : Nat) (qs : List (Nat × Nat)) : Option (Nat × Nat) × List (Nat × Nat) × Nat :=
  let bs := (d.bindTable n qs).filter (fun b => (d.queue b.2.queue).kind == 0)
  let ins := bs.filter (fun b => b.2.mode == 1 || b.2.mode == 3)
  let outs := (bs.filter (fun b => b.2.mode == 2 || b.2.mode == 3)).map (fun b => (b.2.queue, b.2.round))
  match ins with
  | [] => (none, outs, 256)
  | b :: _ => (some (b.2.queue, b.2.round), outs, b.1)

/-- Whether a queue noted at PSTART still counts (R255). -/
def stillCounts (d : Dev) (q : Nat × Nat) : Bool := (d.queue q.1).state != .free && (d.queue q.1).round == q.2

/-- The shrink of a stage (R256): a PENDING group is withdrawn first, the last requested of them; else the most recently placed
unmarked group is marked. -/
def shrinkStage (d : Dev) (ks : List Nat) : Dev :=
  let un := ks.filter (fun k => !(d.group k).marked)
  let rank (k : Nat) : Nat :=
    match (d.group k).placed with
    | none => 2 ^ 64 + (d.group k).age
    | some t => t
  match un.foldl (fun (b : Option Nat) k => match b with
      | none => some k
      | some x => if rank x ≤ rank k then some k else some x) none with
  | none => d
  | some k => if (d.group k).placed.isNone then d.withdraw k else d.mark k

/-- The growth of a stage (R256): the most recently marked group is unmarked; else a new group is requested, below MAXGRP. -/
def growStage (d : Dev) (n p i : Nat) (ks : List Nat) (kid : Nat) (arg : Reg) : Dev :=
  match (ks.filter (fun k => (d.group k).marked)).foldl (fun (b : Option Nat) k => match b with
      | none => some k
      | some x => if (d.group x).markedAt ≤ (d.group k).markedAt then some k else some x) none with
  | some k => d.setGroup k { d.group k with marked := false }
  | none => if (d.ctx n).maxgrp ≤ d.groupCount n then d else (d.request n kid arg 256 (some (p, i))).2

/-- The evaluation of one stage (R256). -/
def evalStage (d : Dev) (n p i : Nat) : Dev :=
  match Map.find (d.ctx n).pipes p with
  | none => d
  | some x =>
    match x.stages[i]? with
    | none => d
    | some s =>
      let inCount := match s.inq with
        | some q => if d.stillCounts q then (d.queue q.1).entries.length else 0
        | none => 0
      let outs := (s.outq.filter d.stillCounts).map (fun q => ((d.queue q.1).entries.length, 2 ^ (d.queue q.1).logd))
      let idle := if inCount = 0 then s.idle + 1 else 0
      let c := d.ctx n
      let d := d.setCtx n { c with pipes := Map.set c.pipes p { x with stages := x.stages.set i { s with idle := idle } } }
      let ks := d.stageGroups n p i
      let g := (ks.filter (fun k => !(d.group k).marked)).length
      if g < s.lo || (g < s.hi && 2 * g < inCount && outs.all (fun o => 4 * o.1 ≤ 3 * o.2)) then d.growStage n p i ks s.kernel x.arg
      else if s.lo < g && (4 ≤ idle || outs.any (fun o => o.1 == o.2)) then d.shrinkStage ks
      else d

/-- Context slots whose groups may be placed (R195), in descending priority (R256, R257). -/
def activeCtxs (d : Dev) : List Nat :=
  sortBy (fun n => (7 - (d.ctx n).prio) * 64 + n)
    ((List.range 64).filter (fun n => (d.ctx n).state == .running || (d.ctx n).state == .faulted))

/-- STAGE EPOCH (R256): once in each epoch of 512 cycles, at its start. -/
def stageEpoch (d : Dev) : Dev :=
  if d.time % 512 != 0 || d.epochDone = d.time / 512 + 1 then d
  else
    let d := { d with epochDone := d.time / 512 + 1 }
    d.activeCtxs.foldl (fun d n =>
      (Map.keys ((d.ctx n).pipes.filter (fun e => !e.2.draining))).foldl (fun d p =>
        (List.range ((Map.get {} (d.ctx n).pipes p).stages.length)).foldl (fun d i => d.evalStage n p i) d) d) d

/-! ### The placement of requests -/

/-- Placement requests in the order of R257: descending priority, then first come first served. -/
def requests (d : Dev) : List Nat :=
  let ok (e : Nat × Group) : Bool :=
    (e.2.state == .pending || e.2.state == .suspended)
      && ((d.ctx (ctxOf e.1)).state == .running || (d.ctx (ctxOf e.1)).state == .faulted)
  let before (a b : Nat) : Bool :=
    let pa := (d.ctx (ctxOf a)).prio
    let pb := (d.ctx (ctxOf b)).prio
    if pa != pb then pb < pa else (d.group a).age ≤ (d.group b).age
  (Map.keys (d.groups.filter ok)).sortWith before

/-- Whether a group waits on its empty input port (R258): a stage group that runs and has a stream that waits to issue on a pop of its
stage's input port while the queue is empty. -/
def idles (d : Dev) (key : Nat) (g : Group) : Bool :=
  match g.stage with
  | none => false
  | some (p, i) =>
    match (Map.get {} (d.ctx (ctxOf key)).pipes p).stages[i]? with
    | none => false
    | some s =>
      g.state == .running && engines.any (fun e => (g.stream e).wait == .queue s.inPort)
        && (s.inq.map (fun q => d.stillCounts q && (d.queue q.1).entries.isEmpty)).getD false

/-- The record of the last cycles in which a group did not wait on its empty input port, when the cycles from now to `now + dt` are
over: `no` says in which of them it did not, none, the first alone or all. -/
def Group.noteIdle (g : Group) (now dt : Nat) (no : Option Bool) : Group :=
  match no with
  | none => g
  | some all =>
    let last := if all then now + dt - 1 else now
    let before :=
      if (g.notIdle - 1) / 512 = last / 512 then g.notIdleBefore
      else if now / 512 < last / 512 then 512 * (last / 512)
      else g.notIdle
    { g with notIdle := last + 1, notIdleBefore := before }

/-- The cycles up to `dt` from now recorded for the groups of stages (R258). -/
def trackIdle (d : Dev) (dt : Nat) : Dev :=
  if d.groups.all (fun e => e.2.stage.isNone) then d
  else
    let no (e : Nat × Group) : Option Bool :=
      if !d.idles e.1 e.2 then some true
      else if engines.any (fun x => (e.2.stream x).issuedAt == d.time + 1) then some false
      else none
    { d with groups := d.groups.map (fun e => (e.1, if e.2.stage.isNone then e.2 else Group.noteIdle e.2 d.time dt (no e))) }

/-- Whether a group has waited on its empty input port in each of the last `n` complete epochs (R258). -/
def waitedEpochs (d : Dev) (key n : Nat) : Bool :=
  let g := d.group key
  let e := d.time / 512
  let last := if 512 * e < g.notIdle then g.notIdleBefore else g.notIdle
  g.stage.isSome && n ≤ e && last ≤ 512 * (e - n)

/-- Whether some core can take a request now. -/
def placeable (d : Dev) (key : Nat) (reserved : List Nat) : Bool := (d.bestCore key reserved).isSome

/-- Resident groups on cores that a request may use (R258). -/
def inReach (d : Dev) (key : Nat) (reserved : List Nat) : List Nat :=
  Map.keys (d.groups.filter (fun e =>
    (e.2.state == .running || e.2.state == .held) && e.2.core < 128 && d.eligible key e.2.core && !reserved.contains e.2.core))

/-- Those of them that may be pre-empted: outside service mode (R200). -/
def victims (d : Dev) (key : Nat) (reserved : List Nat) : List Nat :=
  (d.inReach key reserved).filter (fun k => !(d.core (d.group k).core).service)

/-- Whether granules are what a request lacks on a core (R62). -/
def lacksGranules (d : Dev) (key core : Nat) : Bool :=
  let n := d.needOf key
  !n.whole && (d.core core).slots.length < 8 && n.recipes ≤ d.freeRecipes core && 32 * d.freeGranules core < n.rows

/-- Granules lent on a core, in order, until it is a candidate for a request; none where they do not make it one (R62). -/
def lendSteps (key core : Nat) : Dev → List Nat → Option Dev
  | d, [] => if d.candidate key core then some d else none
  | d, v :: vs => if d.candidate key core then some d else lendSteps key core (d.lend (v / 64) (v % 64)) vs

/-- A core made a candidate by lending to the request fully tagged granules of the groups of lower priority there, lowest priority first
(R62). Among groups of one priority the lowest number lends first, and of a group its lowest granule (log 90). -/
def lentOn (d : Dev) (key core : Nat) : Option Dev :=
  let prio (k : Nat) : Nat := (d.ctx (ctxOf k)).prio
  if !d.lacksGranules key core then none
  else
    let lenders := (d.inReach key []).filter (fun k => (d.group k).core = core && prio k < prio key)
    lendSteps key core d ((lenders.sortWith (fun a b => prio a ≤ prio b)).flatMap (fun k =>
      (lendable (d.group k) d.time).map (fun j => k * 64 + j)))

/-- The room that lending makes (R62, R258): on the core that R257 prefers among those that it makes candidates, since what is dropped is
lent to the new group. -/
def lendRoom (d : Dev) (key : Nat) (reserved : List Nat) : Option Dev :=
  let cores := allCores.filter (fun c => d.eligible key c && !reserved.contains c && (d.lentOn key c).isSome)
  let best := cores.foldl (fun (b : Option Nat) c => match b with
    | none => some c
    | some x => if d.betterCore (d.needOf key).mstream c x then some c else some x) none
  best.bind (d.lentOn key ·)

/-- Steps of making room taken in order until the request can be placed, if need be with granules lent to it (R62, R258). -/
def roomSteps (key : Nat) (reserved : List Nat) (act : Dev → Nat → Dev) : Dev → List Nat → Dev
  | d, [] => if d.placeable key reserved then d else (d.lendRoom key reserved).getD d
  | d, v :: vs =>
    if d.placeable key reserved then d
    else
      match d.lendRoom key reserved with
      | some d' => d'
      | none => roomSteps key reserved act (act d v) vs

/-- MAKING ROOM for a request (R62, R258): lending, then pre-emption of lower priorities, then of long waiters of its own. -/
def makeRoom (d : Dev) (key : Nat) (reserved : List Nat) : Dev :=
  let prio (k : Nat) : Nat := (d.ctx (ctxOf k)).prio
  let p := prio key
  let lower := (d.victims key reserved).filter (fun k => prio k < p)
  let order (a b : Nat) : Bool :=
    let wa := d.waitedEpochs a 1
    let wb := d.waitedEpochs b 1
    if wa != wb then wa else if prio a != prio b then prio a < prio b else (d.group b).placedAt ≤ (d.group a).placedAt
  let d2 := roomSteps key reserved suspend d (lower.sortWith order)
  let same := (d.victims key reserved).filter (fun k => prio k = p && d.waitedEpochs k 4)
  roomSteps key reserved suspend d2 same

/-- The cores that a request reserves against later ones: after it has waited 64 epochs, those it may use (R257). -/
def reservedBy (d : Dev) (key : Nat) : List Nat :=
  if d.time < (d.group key).queued + 64 * 512 then [] else allCores.filter (d.eligible key)

/-- The first request in the order of R257 that can be placed, with the room made for it and the core chosen. -/
def nextPlacement (d : Dev) : List Nat → List Nat → Option (Nat × Nat × Dev)
  | [], _ => none
  | r :: rs, reserved =>
    match d.bestCore r reserved with
    | some c => some (r, c, d)
    | none =>
      let d' := if (d.group r).pin = 0xF0 || (d.group r).pin = 0xF1 then d else d.makeRoom r reserved
      match d'.bestCore r reserved with
      | some c => some (r, c, d')
      | none => nextPlacement d rs (reserved ++ d.reservedBy r)

/-- GROUP PLACEMENT (R257, R258): the scheduler's next request is placed on the core chosen for it. The event names both; any
other group or core is not the scheduler's choice, and nothing happens. -/
def groupPlacement (d : Dev) (key core : Nat) : Dev :=
  match d.nextPlacement d.requests [] with
  | some (r, c, d') => if r = key && c = core then d'.place r c else d
  | none => d

/-! ### SPAWN (R251, R254) -/

/-- A status word 2^63 + n. -/
def spawnFail (n : Nat) : Word := BitVec.ofNat 64 (2 ^ 63 + n)

/-- A check that leaves the device as it is. -/
def orStop (d : Dev) (r : Res Dev) : Dev × Option Stop :=
  match r with
  | .ok d => (d, none)
  | .error e => (d, some e)

/-- What SPAWN, PSTART and PDRAIN ask before they read anything: no service code, no delay group, a clean operand (R202, R245, R251). -/
def spawnAllowed (d : Dev) (a : Reg) : Res Dev :=
  if d.cur.svc then trap 9 d.cur.pc.toNat
  else if d.stm.pend.isSome then trap 2 d.cur.pc.toNat
  else if a.p then commitReg a.v.toNat
  else .ok d

/-- SPAWN of a group (R251). A kernel that it has verified keeps its table entry where the SPAWN then faults (R232, R235). -/
def spawnOp (rd : Rd) (d : Dev) (fd fa fb place : Nat) : Dev × Option Stop :=
  let n := d.myCtx
  let a := d.reg fa
  let b := d.reg fb
  match d.spawnAllowed a with
  | .error e => (d, some e)
  | .ok d =>
    match d.verify rd n a.v.toNat with
    | .error e => (d.noteRefused n a.v.toNat e, some e)
    | .ok (kid, d) =>
      if 2048 < (d.kernel n kid).regs then d.orStop (kernelTrap a.v.toNat 9)
      else
        let fail (k : Nat) : Dev × Option Stop := (d.setReg fd ⟨spawnFail k, b.p⟩, none)
        if place < 128 && d.isAbsent place then fail 2
        else if place < 128 && !flag (d.ctx n).clumask (place / 8) then fail 3
        else if (d.ctx n).maxgrp ≤ d.groupCount n then fail 1
        else
          let (i, d) := d.request n kid b place none
          (d.setReg fd ⟨BitVec.ofNat 64 i, b.p⟩, none)

/-- The entries of a pipeline descriptor (R253, R254 step 2), each checked as soon as it is read: base, MIN, MAX. -/
def readStages (rd : Rd) (d : Dev) (base i : Nat) : Nat → Res (List (Nat × Nat × Nat) × Dev)
  | 0 => .ok ([], d)
  | n + 1 => do
    let (ws, d) ← readWords rd d (base + 0x10 + 16 * i) 2
    let k := (ws.getD 0 (0, false)).1
    let w := (ws.getD 1 (0, false)).1
    let lo := fld w 0 16
    let hi := fld w 16 16
    kernelCheck (lo ≤ hi && lo ≤ 1024 && hi != 0 && hi ≤ 1024 && fld w 32 32 == 0) base 11
    let (ss, d) ← readStages rd d base (i + 1) n
    pure ((k, lo, hi) :: ss, d)

/-- The stage kernels verified in order, each bound as soon as it is (R254 step 3): the device, the bound stages, and the first
failure, which reports the stage's KBASE. -/
def verifyStages (rd : Rd) (d : Dev) (n : Nat) :
    List (Nat × Nat × Nat) → Dev × List (Nat × Nat × Nat) × Option Stop
  | [] => (d, [], none)
  | (k, lo, hi) :: ss =>
    match d.verify rd n k with
    | .error (.trap t) => (d.noteRefused n k (.trap t), [], some (.trap { t with addr := BitVec.ofNat 64 k }))
    | .error e => (d, [], some e)
    | .ok (kid, d) =>
      if 2048 < (d.kernel n kid).regs then (d, [], some (.trap { cause := 4, addr := BitVec.ofNat 64 k, step := 9 }))
      else
        let r := verifyStages rd (d.bindKernel n kid) n ss
        (r.1, (kid, lo, hi) :: r.2.1, r.2.2)

/-- The descriptor of a PSTART read and checked (R254 steps 1 and 2): its stages. -/
def readPipe (rd : Rd) (d : Dev) (base : Nat) : Res (List (Nat × Nat × Nat) × Dev) := do
  let (ws, d) ← readWords rd d base 2
  let w0 := (ws.getD 0 (0, false)).1
  let w1 := (ws.getD 1 (0, false)).1
  let nst := fld w0 32 8
  kernelCheck (fld w0 0 32 == 0x45504950 && 1 ≤ nst && nst ≤ 64 && fld w0 40 24 == 0 && w1 == 0) base 11
  readStages rd d base 0 nst

/-- PSTART (R254, R255). Where a stage fails or all 16 pipelines are in use, nothing is bound, and the kernels that were verified keep
their table entries (R235). -/
def pstartOp (rd : Rd) (d : Dev) (fd fa fb : Nat) : Dev × Option Stop :=
  let n := d.myCtx
  let a := d.reg fa
  let b := d.reg fb
  match (do
    let d ← d.spawnAllowed a
    d.readPipe rd a.v.toNat : Res (List (Nat × Nat × Nat) × Dev)) with
  | .error e => (d, some e)
  | .ok (ss, d) =>
    let (d, ks, stop) := d.verifyStages rd n ss
    let unbound : Dev := ks.foldl (fun d k => d.dropKernel n k.1) d
    match stop, Map.fresh (d.ctx n).pipes 16 with
    | some e, _ => (unbound, some e)
    | none, none => (unbound.setReg fd ⟨spawnFail 4, b.p⟩, none)
    | none, some p =>
      let stages := ks.map (fun e =>
        let q := d.stageQueues n (d.kernel n e.1).queues
        ({ kernel := e.1, lo := e.2.1, hi := e.2.2, inq := q.1, outq := q.2.1, inPort := q.2.2 } : Stage))
      let c := d.ctx n
      let x : Pipeline := { arg := b, stages := stages }
      let d := d.setCtx n { c with pipes := Map.set c.pipes p x }
      (d.setReg fd ⟨BitVec.ofNat 64 p, b.p⟩, none)

/-- PDRAIN (R254): groups marked, those never placed withdrawn; a pipeline without groups ends at once (log 29). -/
def pdrainOp (d : Dev) (fd fa fb : Nat) : Res Dev :=
  let n := d.myCtx
  let a := d.reg fa
  let b := d.reg fb
  match d.spawnAllowed a with
  | .error e => .error e
  | .ok d =>
    let p := a.v.toNat % 16
    match Map.find (d.ctx n).pipes p with
    | none => .ok (d.setReg fd ⟨spawnFail 5, b.p⟩)
    | some x =>
      if x.draining then .ok (d.setReg fd ⟨spawnFail 5, b.p⟩)
      else
        let c := d.ctx n
        let d := d.setCtx n { c with pipes := Map.set c.pipes p { x with draining := true, drainedBy := some (idxOf d.cur.key) } }
        let d := (d.pipeGroups n p).foldl (fun d k =>
          if (d.group k).state = .pending then d.withdraw k else if (d.group k).marked then d else d.mark k) d
        .ok ((d.pipeEnd n p).setReg fd ⟨0, b.p⟩)

end Dev

def execGroupPlacement (g core : Nat) (s : State) : Host.Outcome State Fault Refusal :=
  event (·.groupPlacement g core) s

def execStageEpoch (s : State) : Host.Outcome State Fault Refusal := event (·.stageEpoch) s

end Sys2Proof.Machine
end

