-- ==== Sys2Proof/Machine/Residency.lean ====
section
/-!
DEFINITION. The residency unit (spec/15_expert.md R292 to R305): records, the tag store, fetches, evictions, victims, pins,
the predictor, and the events and registers that drive them.
-/

namespace Sys2Proof.Machine
open Word

/-! ### CRC-32C (R274) -/

/-- One bit of the shift register. -/
def crcBit (c : Nat) : Nat := if c % 2 = 1 then c / 2 ^^^ 0x82F63B78 else c / 2

/-- One byte. -/
def crcByte (c x : Nat) : Nat :=
  crcBit (crcBit (crcBit (crcBit (crcBit (crcBit (crcBit (crcBit (c ^^^ x))))))))

/-- CRC-32C of bytes from a running value. -/
def crc32c (bs : List Byte) (init : Nat) : Nat :=
  bs.foldl (fun c b => crcByte c b.toNat) (init ^^^ 0xFFFFFFFF) ^^^ 0xFFFFFFFF

/-! ### Records -/

/-- The model, the layer and the expert of an identifier (R292). -/
def idModel (id : Nat) : Nat := fld id 24 8
def idLayer (id : Nat) : Nat := fld id 12 12
def idExpert (id : Nat) : Nat := fld id 0 12

/-- The 64 KiB frames of a copy. -/
def framesOf (c : Copy) : Nat := (c.size + 65535) / 65536

/-- The states of R299 by their codes. -/
def copyCode (c : Copy) : Nat :=
  match c.state with
  | .fetching => 1
  | .evicting => 5
  | .faulted => 6
  | .resident => if c.inPond then (if c.pins = 0 then 3 else 4) else if c.inLake || Dev.Copy.lakeHome c then 2 else 0

/-- Whether a copy counts as resident for EDISP (R304). -/
def isResident (c : Copy) : Bool := 2 ≤ copyCode c && copyCode c ≤ 4

/-- Whether a copy is in its home state (R295). -/
def atHome (c : Copy) : Bool := c.state == .resident && !c.inPond && !c.inLake

/-- A record's fields are in range (R294). -/
def recordOk (r id : Nat) : Bool :=
  let n := fld r 32 8
  let copyOk (i : Nat) : Bool :=
    let b := fld r (8 * (0x10 + 0x1C * i)) 224
    let home := fld b 0 64
    let size := fld b 64 32
    let fmt := fld b 128 8
    let xv := sext (fld b 136 5) 5
    home % 4096 == 0 && size % 64 == 0 && 64 ≤ size && size ≤ 2 ^ 26
      && (if flag fmt 6 then home + size ≤ 16 * 10 ^ 12 else home + size ≤ 0xC000000000)
      && fld fmt 0 3 ≤ 4 && !flag fmt 7 && decide (-13 ≤ xv) && decide (xv ≤ 13) && fld b 141 3 == 0 && fld b 144 80 == 0
  fld r 0 32 == id && 1 ≤ n && n ≤ 4 && fld r 41 7 == 0 && fld r 60 4 == 0 && fld r 64 31 / 2 ^ 23 != 255
    && fld r 96 32 == 0 && (List.range n).all copyOk

/-- Copy `i` of a record, in its home state. -/
def copyOfRecord (r id i : Nat) : Copy :=
  let b := fld r (8 * (0x10 + 0x1C * i)) 224
  { id := id, copy := i, home := fld b 0 64, size := fld b 64 32, crc := fld b 96 32, fmt := fld b 128 8, xv := fld b 136 5,
    ncopy := fld r 32 8, sv := flag r 40, subx := fld r 48 12, sfac := fld r 64 32 }

namespace Dev

def model (d : Dev) (m : Nat) : Model := Map.get {} d.res.models m

/-- The copy of a tag entry. -/
def copyAt (d : Dev) (e : Nat) : Copy := Map.get {} d.res.copies e

def setCopy (d : Dev) (e : Nat) (c : Copy) : Dev := { d with res := { d.res with copies := Map.set d.res.copies e c } }

/-- The tag entry of a copy. -/
def findCopy (d : Dev) (id i : Nat) : Option Nat :=
  (d.res.copies.find? (fun e => e.2.id == id && e.2.copy == i)).map (·.1)

/-- The record of an expert as a number (R294). -/
def recordBits (d : Dev) (id : Nat) : Nat :=
  let m := d.model (idModel id)
  d.ld (m.etbase * 4096 + 128 * (idLayer id * (m.expm1 + 1) + idExpert id)) 128

/-- The checks of R292 in their order, and those of the record where the copy has no tag entry. -/
def checkCopy (d : Dev) (id i : Nat) : Res Unit := do
  let m := d.model (idModel id)
  trapIf (idModel id == 0xFF) 4 id
  trapIf (!m.valid || d.cur.svc || !flag m.ctxmask.toNat d.myCtx) 9 id
  trapIf (m.laym1 < idLayer id || m.expm1 < idExpert id) 4 id
  match d.findCopy id i with
  | some _ => pure ()
  | none => trapIf (!recordOk (d.recordBits id) id || fld (d.recordBits id) 32 8 ≤ i) 4 id

/-- The tag entry that a copy takes (R295): the lowest free one, else the replaceable one of oldest last use. -/
def entryFor (d : Dev) : Option Nat :=
  match Map.fresh d.res.copies (min 65536 (d.res.copies.length + 1)) with
  | some e => some e
  | none =>
    let ok (c : Copy) : Bool :=
      atHome c && c.pins == 0 && c.holders.isEmpty && !c.queues.any (fun q => (d.queue q.1).state == .opened)
    ((d.res.copies.filter (fun e => ok e.2)).foldl (fun (b : Option (Nat × Copy)) e => match b with
      | none => some e
      | some x => if e.2.last < x.2.last then some e else some x) none).map (·.1)

/-- The tag entry of a copy, taken where it has none; `none` where none can be taken. -/
def takeEntry (d : Dev) (id i : Nat) : Option (Nat × Dev) :=
  match d.findCopy id i with
  | some e => some (e, d)
  | none => d.entryFor.map (fun e => (e, d.setCopy e { copyOfRecord (d.recordBits id) id i with last := d.time }))

/-! ### Frames and victims (R300) -/

/-- Free Pond frames, lowest first. -/
def freePond (d : Dev) : List Nat :=
  let used := d.res.copies.flatMap (fun e => e.2.pond)
  (List.range 6144).filter (fun f => !used.contains f)

/-- Free frames of the Lake pool, as 4 KiB pages, lowest first. -/
def freeLake (d : Dev) : List Nat :=
  let used := d.res.copies.flatMap (fun e => e.2.lake)
  ((List.range d.res.lpoolN).map (fun i => d.res.lpool + 16 * i)).filter (fun f => !used.contains f)

/-- The next leg of a fetch: 0 from Plain to the Lake pool, 1 to Pond, 2 a check of the Lake home alone. The refetch of a FAULTED copy is
one transfer: its leg names the frames that it still lacks. -/
def legOf (c : Copy) : Nat :=
  match c.refetch with
  | some src => if src = 1 && !Copy.lakeHome c && c.lake.length != framesOf c then 0 else if c.target = 1 then 1 else 2
  | none => if !Copy.lakeHome c && !c.inLake then 0 else if c.target = 1 && !c.inPond then 1 else 2

/-- Whether a leg has its frames. -/
def legReady (c : Copy) : Bool :=
  match legOf c with
  | 0 => c.lake.length = framesOf c
  | 1 => c.pond.length = framesOf c
  | _ => true

/-- Whether a copy may be chosen as a victim in a tier by a fetch of a class; class 3 stands for any demand. -/
def victimOk (c : Copy) (pond : Bool) (cls : Nat) (queued : Bool) : Bool :=
  c.state == .resident && c.pins == 0 && c.holders.isEmpty && !queued && c.cls < cls
    && (if pond then c.inPond else c.inLake && !c.inPond)

/-- Whether a token queue of a copy holds entries. -/
def tokensQueued (d : Dev) (c : Copy) : Bool := c.queues.any (fun e => !(d.queue e.1).entries.isEmpty)

/-- The score of a victim (R300). -/
def score (d : Dev) (c : Copy) : Nat :=
  let rate := if c.inPond then d.res.lakeRate else d.res.plainRate
  ((d.time - c.last) / 1024) / ((c.size + rate - 1) / rate)

/-- The victim of highest score in a tier; the lower entry on a tie. -/
def victim (d : Dev) (pond : Bool) (cls : Nat) : Option Nat :=
  ((d.res.copies.filter (fun e => victimOk e.2 pond cls (d.tokensQueued e.2))).foldl (fun (b : Option (Nat × Copy)) e => match b with
    | none => some e
    | some x => if d.score x.2 < d.score e.2 then some e else some x) none).map (·.1)

/-- An eviction begun (R299). -/
def startEvict (d : Dev) (e : Nat) (toHome : Bool) : Dev :=
  let c := d.copyAt e
  d.setCopy e { c with state := .evicting, toHome := toHome, drain := false }

/-- Frames that evictions in progress will free in a tier. -/
def comingFrames (d : Dev) (pond : Bool) : Nat :=
  sumOf (fun e => if e.2.state != .evicting then 0
    else if pond then (if e.2.inPond then framesOf e.2 else 0) else if e.2.inPond then 0 else e.2.lake.length) d.res.copies

/-- Frames that waiting fetches need in a tier. -/
def wantedFrames (d : Dev) (pond : Bool) : Nat :=
  sumOf (fun e => if e.2.wait != 0 && (legOf e.2 == 1) == pond then framesOf e.2 else 0) d.res.copies

/-- Victims taken until the frames they will free cover what is needed (R300); at most as many as there are copies. -/
def takeVictims (d : Dev) (pond : Bool) (cls need : Nat) : Nat → Dev × Bool
  | 0 => (d, d.wantedFrames pond + need ≤ (if pond then d.freePond else d.freeLake).length + d.comingFrames pond)
  | n + 1 =>
    if d.wantedFrames pond + need ≤ (if pond then d.freePond else d.freeLake).length + d.comingFrames pond then (d, true)
    else
      match d.victim pond cls with
      | none => (d, false)
      | some v => takeVictims (d.startEvict v false) pond cls need n

/-- A prefetch dropped (R300): the copy stays where it is, and what the fetch has been given for the leg goes back. -/
def dropFetch (d : Dev) (e : Nat) : Dev :=
  let c := d.copyAt e
  (d.setCopy e { c with
    state := .resident, wait := 0, pond := if c.inPond then c.pond else [], lake := if c.inLake then c.lake else [] }).mcount 0

/-- The class by which a fetch chooses victims: its own for a prefetch, and one above all for a demand or a refetch (R300, R301). -/
def fetchClass (cls : Nat) : Nat := if 2 ≤ cls then 3 else cls

/-- The frames of the next leg of a fetch: taken where they are free; else victims are chosen and the fetch waits, or a prefetch that
finds too few is dropped (R300). -/
def allocLeg (d : Dev) (e : Nat) : Dev :=
  let c := d.copyAt e
  let f := framesOf c
  if legReady c then d.setCopy e { c with wait := 0 }
  else
    let pond := legOf c = 1
    let free := if pond then d.freePond else d.freeLake
    if f ≤ free.length then
      (if pond then d.setCopy e { c with pond := free.take f, wait := 0 } else d.setCopy e { c with lake := free.take f, wait := 0 })
    else
      let d0 := d
      let d := d.setCopy e { c with wait := if c.wait = 0 then d.time + 1 else c.wait }
      let r := d.takeVictims pond c.fcls 0 d.res.copies.length
      if r.2 || 2 ≤ c.fcls then r.1 else d0.dropFetch e

/-- Fetches that wait for frames tried again, the longest wait first. -/
def retryWaits (d : Dev) : Dev :=
  let ws := (d.res.copies.filter (fun e => e.2.wait != 0)).sortWith (fun a b => a.2.wait ≤ b.2.wait)
  ws.foldl (fun d e => d.allocLeg e.1) d

/-! ### Notifications (R302) -/

/-- The word to q252 of each group bound in pop mode to an open token queue of a copy. -/
def notifyCopy (d : Dev) (kind e : Nat) : Dev :=
  let c := d.copyAt e
  let w := kind * 2 ^ 48 + c.copy * 2 ^ 32 + c.id
  let bound (g : Group) : Bool :=
    g.ports.any (fun p => p.2.mode % 2 == 1 && d.bindingLive p.2 && c.queues.any (fun q => q.1 == p.2.queue && (d.queue q.1).state == .opened))
  ((Map.keys (d.groups.filter (fun x => bound x.2))).foldl (fun d k => d.notify k w) d)

/-! ### Fetches -/

/-- A fetch begun for a class (R299, R301): a copy that is resident keeps a higher class. -/
def startFetch (d : Dev) (e tier cls : Nat) : Dev :=
  let c := d.copyAt e
  let d1 := if c.state = .faulted then d.notifyCopy 3 e else d
  (d1.setCopy e { c with
    state := .fetching, target := tier, cls := if isResident c then max cls c.cls else cls, fcls := fetchClass cls, since := d.time
    again := none }).allocLeg e

/-- An eviction cancelled by a demand before its drain (R299): the state before it. -/
def cancelEvict (d : Dev) (e : Nat) : Dev :=
  let c := d.copyAt e
  (d.setCopy e { c with state := .resident, toHome := false }).retryWaits

/-- A demand for a tier (R299, R304): 0 Lake, 1 Pond. A FAULTED copy is fetched by EFETCH alone. -/
def demand (d : Dev) (e tier : Nat) : Dev :=
  let c0 := d.copyAt e
  if c0.drain then
    d.setCopy e { c0 with again := some (max tier (c0.again.getD 0)), cls := 2 }
  else
    let d := if c0.state = .evicting then d.cancelEvict e else d
    let c := { d.copyAt e with cls := 2 }
    let d := d.setCopy e c
    match c.state with
    | .fetching => d.setCopy e { c with target := max c.target tier, fcls := 3 }
    | .resident =>
      if c.inPond || (tier = 0 && (c.inLake || Copy.lakeHome c)) then d else d.startFetch e tier 2
    | _ => d

/-- EFETCH of a FAULTED copy (R299): the home copy is read again; an eviction to the home state that has not begun its drain ends. -/
def fetchHome (d : Dev) (e tier : Nat) : Dev :=
  let d := d.notifyCopy 3 e
  let c := d.copyAt e
  d.setCopy e { c with state := .resident, inPond := false, inLake := false, toHome := false, cls := 0 } |>.startFetch e tier 2

/-- The lines of a run of physical frames, and its bytes. -/
def frameBytes (d : Dev) (fs : List Nat) (n : Nat) : List Byte :=
  (fs.flatMap (fun f => d.lds f 65536)).take n

/-- The bytes a leg reads: of Plain, of the Lake pool or of the Lake home; with the poison of each line. -/
def legBytes (d : Dev) (flash : Memory) (c : Copy) (plain : Bool) : List Byte × List Bool :=
  let lines := (List.range (c.size / 64))
  if Copy.lakeHome c then
    (d.lds c.home c.size, lines.map (fun i => d.linePoisoned (lineOf c.home + i)))
  else if plain then (flash.bytes c.home c.size, lines.map (fun _ => false))
  else
    (d.frameBytes (c.lake.map (· * 4096)) c.size,
      lines.map (fun i => d.linePoisoned (lineOf (c.lake.getD (i / 1024) 0 * 4096) + i % 1024)))

/-- Bytes written into frames line by line, each with its poison. -/
def writeFrames (d : Dev) (fs : List Nat) (bs : List Byte) (ps : List Bool) : Dev :=
  ((List.range ps.length).zip ps).foldl (fun d e =>
    let a := fs.getD (e.1 / 1024) 0 + e.1 % 1024 * 64
    (d.takeBack a 64).storeBytes a ((bs.drop (64 * e.1)).take 64) e.2) d

/-- Physical addresses of frames. -/
def pondAddrs (c : Copy) : List Nat := c.pond.map (fun f => 0xF0000000000 + f * 65536)
def lakeAddrs (c : Copy) : List Nat := c.lake.map (· * 4096)

/-- One refetch begun (R299, R285): it takes the frames that it lacks, as a demand does. -/
def startRefetch (d : Dev) (e src : Nat) : Dev :=
  (d.setCopy e { d.copyAt e with refetch := some src, fcls := 3, since := d.time }).allocLeg e

/-- A copy becomes FAULTED (R299, R285): counted and told; `src` starts one refetch. -/
def faultCopy (d : Dev) (e : Nat) (src : Option Nat) : Dev :=
  let c := d.copyAt e
  let d := d.setCopy e { c with
    state := .faulted, refetch := none, wait := 0, again := none, drain := false, toHome := false }
  let d := (d.mcount 4).notifyCopy 2 e
  match src with
  | some s => d.startRefetch e s
  | none => d

/-- Lines of Lake that the host holds exclusively and that a leg reads: they are taken back first (R378). -/
def legLent (d : Dev) (c : Copy) (plain : Bool) : List Nat :=
  let runs : List (Nat × Nat) := if Copy.lakeHome c then [(c.home, c.size)] else if plain then [] else c.lake.map (fun f => (f * 4096, 65536))
  (d.link 0).lent.filter (fun l => runs.any (fun r => lineOf r.1 ≤ l && l ≤ lineOf (r.1 + r.2 - 1)))

/-- An unloading model takes a copy that has come to rest to its home state (R293). -/
def unloadCopy (d : Dev) (e : Nat) : Dev :=
  let c := d.copyAt e
  if (d.model (idModel c.id)).busy && !atHome c && c.refetch.isNone then
    (if c.state = .resident then d.startEvict e true else if c.state = .faulted then d.setCopy e { c with toHome := true } else d)
  else d

/-- Whether a copy has bytes of Plain on an NVMe controller that is mapped out (R20). -/
def plainLost (d : Dev) (c : Copy) : Bool :=
  let at_ (x : Nat) : Nat := x / (2 * 10 ^ 12)
  (List.range 8).any (fun n => flag d.nvmeMask n && at_ c.home ≤ n && n ≤ at_ (c.home + c.size - 1))

/-- The end of one leg of a fetch (R299); a read of a lost range of Plain is a read error (R20). -/
def legDone (d : Dev) (flash : Memory) (e : Nat) (failed : Bool) : Dev :=
  let c := d.copyAt e
  let leg := legOf c
  let readError := failed || (leg = 0 && d.plainLost c)
  let (bs, ps) := d.legBytes flash c (leg = 0)
  if readError || crc32c bs 0 != c.crc then
    (d.faultCopy e (if leg = 1 && !Copy.lakeHome c then some 1 else none)).unloadCopy e
  else
    match leg with
    | 0 =>
      let d := (d.mcount 1).writeFrames (lakeAddrs c) bs ps
      if c.target = 1 then (d.setCopy e { c with inLake := true }).allocLeg e
      else (d.setCopy e { c with inLake := true, state := .resident, pond := [] }).unloadCopy e
    | 1 =>
      let d := (d.mcount 2).writeFrames (pondAddrs c) bs ps
      (d.setCopy e { c with inPond := true, state := .resident }).unloadCopy e
    | _ => (d.setCopy e { c with state := .resident, pond := [] }).unloadCopy e

/-- The end of a refetch of a FAULTED copy (R299, R285). -/
def refetchDone (d : Dev) (flash : Memory) (e src : Nat) (failed : Bool) : Dev :=
  let c := d.copyAt e
  let readError := failed || (src = 1 && !Copy.lakeHome c && d.plainLost c)
  let (bs, ps) := d.legBytes flash c (src = 1)
  if readError || crc32c bs 0 != c.crc then (d.setCopy e { c with refetch := none }).unloadCopy e
  else
    let d := if src = 1 && !Copy.lakeHome c then (d.mcount 1).writeFrames (lakeAddrs c) bs ps else d
    let d := if c.target = 1 then d.writeFrames (pondAddrs c) bs ps else d
    let c := { c with
      state := .resident, refetch := none, inLake := c.inLake || (src = 1 && !Copy.lakeHome c), inPond := c.target = 1 }
    ((d.setCopy e c).notifyCopy 3 e).unloadCopy e

/-- Whether an access still holds a translation to one of the frames (R303, R321). -/
def holdsFrames (d : Dev) (fs : List Nat) : Bool :=
  d.waits.any (fun w => w.held.any (fun h => h.leaf.win && fs.contains h.leaf.pa))

/-- Translations to freed frames go from every TLB and every stash (R303). -/
def dropTranslations (d : Dev) (fs : List Nat) : Dev :=
  let gone (l : Nat) : Bool := fs.any (fun f => f ≤ l * 64 && l * 64 < f + 65536)
  let leaf (l : Leaf) : Bool := !(l.size == 16 && fs.contains l.pa)
  { d with
    cores := Map.mapV (fun (c : Core) => if c.tlb.all leaf then c else { c with tlb := c.tlb.filter leaf }) d.cores
    clusters := Map.mapV (fun (c : Cluster) => if c.tlb2.all leaf then c else { c with tlb2 := c.tlb2.filter leaf }) d.clusters
    groups := Map.mapV (fun g => if g.stash.isEmpty then g
      else { g with stash := g.stash.filter (fun (s : Nat × StashEntry) => !gone s.2.phys) }) d.groups }

/-- FETCH_COMPLETE (R299): the transfer in progress for a tag entry ends. A fetch that still waits for frames tries for them, and one whose
source the host holds asks for its lines (R378). A fetch into Lake of a copy that still has Pond frames, having been FAULTED there, gives
them back at its end, once no access holds a translation to them (R303). -/
def fetchComplete (d : Dev) (flash : Memory) (e : Nat) (readError : Bool) : Dev :=
  match Map.find d.res.copies e with
  | none => d
  | some c =>
    let plain := c.refetch.getD (if legOf c = 0 then 1 else 0) = 1
    if !legReady c then (if c.state = .fetching || (c.state = .faulted && c.refetch.isSome) then d.allocLeg e else d)
    else if !(d.legLent c plain).isEmpty then d.askLines 0 (d.legLent c plain)
    else
      let d := if Copy.lakeHome c then d.snoop none c.home c.size false else d
      match c.state with
      | .fetching =>
        if c.target = 1 || c.pond.isEmpty then d.legDone flash e readError
        else if d.holdsFrames (pondAddrs c) then d
        else (d.dropTranslations (pondAddrs c)).legDone flash e readError
      | .faulted =>
        match c.refetch with
        | some src => d.refetchDone flash e src readError
        | none => d
      | _ => d

/-! ### Evictions -/

/-- Whether a copy is on its way out of a tier: EVICTING, or FAULTED and asked to go to its home state (R299). -/
def leaving (c : Copy) : Bool := c.state == .evicting || (c.state == .faulted && c.toHome)

/-- The first two conditions of R303: every token queue is empty and there is no holder. -/
def evictable (d : Dev) (c : Copy) : Bool := c.holders.isEmpty && !d.tokensQueued c

/-- EVICTION_DRAIN_START (R303). -/
def drainStart (d : Dev) (e : Nat) : Dev :=
  match Map.find d.res.copies e with
  | none => d
  | some c => if leaving c && !c.drain && d.evictable c then d.setCopy e { c with drain := true } else d

/-- A copy without data above its home, of no class any more where it is ABSENT (R301). -/
def toRest (c : Copy) : Copy := if c.inPond || c.inLake || Copy.lakeHome c then c else { c with cls := 0 }

/-- EVICTION_COMPLETE (R299, R303): the frames are free; an eviction to the home state goes on from the Lake pool; a demand that
waited acts on the resulting state. -/
def evictComplete (d : Dev) (e : Nat) : Dev :=
  match Map.find d.res.copies e with
  | none => d
  | some c =>
    if !leaving c || !c.drain || !d.evictable c || d.holdsFrames (pondAddrs c ++ lakeAddrs c) then d
    else
      let d := d.mcount 3
      let again (d : Dev) : Dev :=
        match c.again with
        | some t => d.demand e t
        | none => d
      if c.state = .faulted then
        let d := (d.dropTranslations (pondAddrs c ++ lakeAddrs c)).notifyCopy 3 e
        again ((d.setCopy e (toRest { c with
          state := .resident, inPond := false, inLake := false, pond := [], lake := [], drain := false, toHome := false,
          again := none })).retryWaits)
      else
        let d := d.dropTranslations (if c.inPond then pondAddrs c else lakeAddrs c)
        let more := c.inPond && c.toHome && !Copy.lakeHome c
        let c' := if c.inPond then { c with inPond := false, pond := [] } else { c with inLake := false, lake := [] }
        let d := d.setCopy e (toRest { c' with
          state := if more then .evicting else .resident, drain := false, toHome := more, again := none })
        again d.retryWaits

/-! ### Models (R293) -/

/-- A token queue closed by the unit. -/
def closeToken (d : Dev) (q : Nat) : Dev :=
  if (d.queue q).state = .opened then (d.setQueue q { d.queue q with state := .closed }).reapQueue q else d

/-- The tag entries of a model. -/
def modelCopies (d : Dev) (m : Nat) : List Nat := Map.keys (d.res.copies.filter (fun e => idModel e.2.id == m))

def setModel (d : Dev) (m : Nat) (x : Model) : Dev := { d with res := { d.res with models := Map.set d.res.models m x } }

/-- A write to VALID of a model (R293). -/
def modelWrite (d : Dev) (m : Nat) (v : Bool) : Dev :=
  let x := d.model m
  if v then (if x.valid || x.busy || x.etbase = 0 then d else d.setModel m { x with valid := true })
  else if !x.valid || x.busy then d
  else
    let d := d.setModel m { x with busy := true }
    let es := d.modelCopies m
    let d := es.foldl (fun d e => (d.copyAt e).queues.foldl (fun d q => d.closeToken q.1) d) d
    es.foldl (fun d e => d.unloadCopy e) d

/-- MODEL_UNLOAD_COMPLETE (R293): once every copy is in its home state its entries go, with the pins on them. -/
def unloadComplete (d : Dev) (m : Nat) : Dev :=
  let x := d.model m
  let es := d.modelCopies m
  if !x.busy then d
  else if es.all (fun e => atHome (d.copyAt e) && (d.copyAt e).holders.isEmpty) then
    let d := { d with
      res := { d.res with copies := d.res.copies.filter (fun e => idModel e.2.id != m) },
      ctxs := Map.mapV (fun (c : Ctx) => { c with pins := c.pins.filter (fun p => !es.contains p.1) }) d.ctxs }
    d.setModel m { x with valid := false, busy := false }
  else es.foldl (fun d e => d.unloadCopy e) d

/-! ### Prefetches and the predictor (R300, R301, R305, R312) -/

/-- A prefetch of a class of a copy into a tier, dropped and counted where R300 or R305 says so. -/
def prefetch (d : Dev) (id i tier cls : Nat) : Dev :=
  let drop := d.mcount 0
  match d.takeEntry id i with
  | none => drop
  | some (e, d') =>
    let c := d'.copyAt e
    let have_ := c.inPond || (tier = 0 && (c.inLake || Copy.lakeHome c))
    match c.state with
    | .resident =>
      if have_ then drop
      else
        let leg := legOf { c with target := tier }
        let pond := leg = 1
        let (d2, ok) := d'.takeVictims pond cls (if leg = 2 then 0 else framesOf c) d'.res.copies.length
        if ok then d2.startFetch e tier cls else drop
    | .fetching => if tier ≤ c.target then drop else d'.setCopy e { c with target := tier }
    | _ => drop

/-- The predictor entry of an identifier (R305). -/
def predIndex (id : Nat) : Nat := fld id 0 12 ^^^ fld id 12 12

/-- One successor learnt (R305). -/
def learn (ss : List (Nat × Nat)) (t : Nat) : List (Nat × Nat) :=
  match ss.find? (fun s => s.2 != 0 && s.1 == t) with
  | some _ => ss.map (fun s => if s.2 != 0 && s.1 = t then (s.1, min 15 (s.2 + 1)) else s)
  | none =>
    let least := ((List.range 4).foldl (fun b i => if (ss.getD i (0, 0)).2 < (ss.getD b (0, 0)).2 then i else b) 0)
    ss.set least (t, 1)

/-- The predictor trained by a GATE with choices (R305), and the prefetches it asks for. -/
def trainPredictor (d : Dev) (chosen : List Nat) : Dev :=
  let g := d.grp
  let c := d.ctx d.myCtx
  let next := match g.lastTop, chosen with
    | s :: _, t :: _ => idModel s == idModel t && idLayer t == idLayer s + 1
    | _, _ => false
  let fresh : List (Nat × Nat) := List.replicate 4 (0, 0)
  let train (m : Map Pred) (s : Nat) : Map Pred :=
    let p := Map.get { tag := s, succ := fresh } m (predIndex s)
    let p := if p.tag = s then p else { tag := s, succ := fresh }
    Map.set m (predIndex s) { p with succ := (chosen.map idExpert).foldl learn p.succ }
  let preds := if next then g.lastTop.foldl train d.res.preds else d.res.preds
  let d := ({ d with res := { d.res with preds := preds } }).setGrp { g with lastTop := chosen }
  if !flag c.resPol 2 then d
  else chosen.foldl (fun d s =>
    match Map.find d.res.preds (predIndex s) with
    | none => d
    | some p =>
      if p.tag != s then d
      else (p.succ.filter (fun x => x.2 != 0 && d.res.rate ≤ x.2)).foldl (fun d x =>
        let id := s / 2 ^ 24 * 2 ^ 24 + (idLayer s + 1) % 4096 * 2 ^ 12 + x.1
        let i := fld c.resPol 4 2
        match d.checkCopy id i with
        | .ok _ => d.prefetch id i (fld c.resPol 3 1) 0
        | .error _ => d.mcount 0) d) d

/-! ### Pins (R301) -/

/-- Pond frames that pinned copies hold or will hold. -/
def pinnedFrames (d : Dev) : Nat := sumOf (fun e => if e.2.pins = 0 then 0 else framesOf e.2) d.res.copies

/-- The pins of a context removed (R195, R301). -/
def releasePins (d : Dev) (n : Nat) : Dev :=
  let c := d.ctx n
  let d := c.pins.foldl (fun d p => d.setCopy p.1 { d.copyAt p.1 with pins := (d.copyAt p.1).pins - p.2 }) d
  (d.setCtx n { d.ctx n with pins := [] }).retryWaits

end Dev

/-- FETCH_COMPLETE (R299). -/
def execFetchComplete (e : Nat) (readError : Bool) (s : State) : Host.Outcome State Fault Refusal :=
  event (·.fetchComplete s.mod.flash e readError) s

/-- EVICTION_DRAIN_START (R303). -/
def execEvictionDrainStart (e : Nat) (s : State) : Host.Outcome State Fault Refusal := event (·.drainStart e) s

/-- EVICTION_COMPLETE (R299, R303). -/
def execEvictionComplete (e : Nat) (s : State) : Host.Outcome State Fault Refusal := event (·.evictComplete e) s

/-- MODEL_VALID_WRITE (R293): bit 0 of the value is VALID. -/
def execModelValidWrite (m : Nat) (v : Word) (s : State) : Host.Outcome State Fault Refusal :=
  event (·.modelWrite m (flag v.toNat 0)) s

/-- MODEL_UNLOAD_COMPLETE (R293). -/
def execModelUnloadComplete (m : Nat) (s : State) : Host.Outcome State Fault Refusal := event (·.unloadComplete m) s

end Sys2Proof.Machine
end

