-- ==== Sys2Proof/Machine/SamplerRegs.lean ====
section
/-!
DEFINITION. The registers of the sampler units and of their sequence contexts (spec/18_sequence.md R344 to R346, R360).
-/

namespace Sys2Proof.Machine
open Word

/-- The value of an FP32 register field, or its reset value where the value is outside the field's range (R346). -/
def fieldF32 (ok : FVal → Bool) (reset v : Nat) : Nat := if ok (valF f32 v) then v else reset

/-- Finite, and finite and above 0. -/
def isFinite : FVal → Bool
  | .fin _ _ _ => true
  | _ => false
def isPositive (x : FVal) : Bool := isFinite x && FVal.lt FVal.zero x

/-- A register of a sequence context written whole (R346), from SMP_SEED (0x08) to SMP_PBASE (0x38). -/
def Seq.write (q : Seq) (off : Nat) (v : Word) : Seq :=
  let x := v.toNat
  let lo := fld x 0 32
  let hi := fld x 32 32
  let one := FVal.ofInt 1
  if off = 0x08 then { q with seed := v }
  else if off = 0x10 then { q with pos := v }
  else if off = 0x18 then
    { q with
      topp := fieldF32 (fun x => isPositive x && !FVal.lt one x) 0x3F800000 hi,
      temp := fieldF32 (fun x => isFinite x && !FVal.lt x FVal.zero) 0x3F800000 lo }
  else if off = 0x20 then
    { q with
      minp := fieldF32 (fun x => isFinite x && !FVal.lt x FVal.zero && !FVal.lt one x) 0 hi,
      topk := if fld x 0 18 ≤ 131072 then fld x 0 18 else 0 }
  else if off = 0x28 then { q with freq := fieldF32 isFinite 0 hi, pres := fieldF32 isFinite 0 lo }
  else if off = 0x30 then { q with rep := fieldF32 isPositive 0x3F800000 hi, fallback := lo }
  else if off = 0x38 && !q.valid then { q with pbase := fld x 12 40 }
  else q

/-- A register of a sequence context read (R346). -/
def Seq.read (q : Seq) (off : Nat) : Nat :=
  if off = 0x00 then q.seqid + q.resq * 2 ^ 32 + q.own * 2 ^ 48 + bit q.valid * 2 ^ 63
  else if off = 0x08 then q.seed.toNat
  else if off = 0x10 then q.pos.toNat
  else if off = 0x18 then q.temp + q.topp * 2 ^ 32
  else if off = 0x20 then q.topk + q.minp * 2 ^ 32
  else if off = 0x28 then q.pres + q.freq * 2 ^ 32
  else if off = 0x30 then q.fallback + q.rep * 2 ^ 32
  else if off = 0x38 then q.pbase * 2 ^ 12
  else if off = 0x40 then q.shadow.length * 2 ^ 48 + q.last * 2 ^ 56
  else 0

/-- The statuses of R349. -/
def stAllMasked : Nat := 1
def stNan : Nat := 2
def stIllegal : Nat := 3
def stMemFault : Nat := 4
def stPoison : Nat := 5
def stBadState : Nat := 6
def stRunaway : Nat := 7

namespace Dev

/-- A sampler unit, and a sequence context of it. -/
def sampler (d : Dev) (j : Nat) : Sampler := Map.get {} d.samplers j
def setSampler (d : Dev) (j : Nat) (u : Sampler) : Dev := { d with samplers := Map.set d.samplers j u }
def seq (d : Dev) (j s : Nat) : Seq := Map.get {} (d.sampler j).seqs s
def setSeq (d : Dev) (j s : Nat) (q : Seq) : Dev := d.setSampler j { d.sampler j with seqs := Map.set (d.sampler j).seqs s q }

/-- Whether a step of a sequence runs (R360). -/
def seqRunning (d : Dev) (j s : Nat) : Bool := ((d.sampler j).run.map (·.seq)) == some s

/-- A step ended with a status (R349): ALL-MASKED emits FALLBACK too. -/
def endStep (d : Dev) (j : Nat) (r : StepRun) (status : Nat) : Dev :=
  (d.endWaits (.unit j)).setSampler j { d.sampler j with
    run := some { r with ended := some status, emits := if status = stAllMasked then r.emits ++ [r.params.fallback] else r.emits } }

/-- SMP_UCFG written (R344, R345): RQ first, while EN = 0; EN only where RQ is an OPEN word queue of kind 1. -/
def ucfgWrite (d : Dev) (j : Nat) (v : Word) : Dev :=
  let u := d.sampler j
  let u := if u.en || u.rq = fld v.toNat 0 12 then u else { u.unqueue with rq := fld v.toNat 0 12 }
  let q := d.queue u.rq
  let ok := q.state == .opened && q.kind == 1 && !q.wide
  d.setSampler j { u with en := if flag v.toNat 12 then u.en || ok else false }

/-- VALID := 0 of a sequence context: the shadow table empties (R346). -/
def seqOff (d : Dev) (j s : Nat) : Dev := d.setSeq j s { d.seq j s with valid := false, shadow := [] }

/-- A write kept until the running step ends (R346). -/
def seqLate (d : Dev) (j s off : Nat) (v : Word) : Dev :=
  d.setSampler j { d.sampler j with late := (d.sampler j).late ++ [(s, off, v)] }

/-- SMP_SCFG written (R346): OWN, RESQ and SEQID while VALID = 0; VALID := 1 where BASE is not 0 and OWN is not FREE; VALID := 0
at the end of a running step. -/
def scfgWrite (d : Dev) (j s : Nat) (v : Word) : Dev :=
  let q := d.seq j s
  let x := v.toNat
  if q.valid then (if flag x 63 then d else if d.seqRunning j s then d.seqLate j s 0 0 else d.seqOff j s)
  else
    let q := { q with own := fld x 48 6, resq := fld x 32 12, seqid := fld x 0 32 }
    d.setSeq j s { q with valid := flag x 63 && q.pbase != 0 && (d.ctx q.own).state != .free, shadow := [] }

/-- Whether a request for a sequence is queued (R346, R360). -/
def seqQueued (d : Dev) (j s : Nat) : Bool :=
  let u := d.sampler j
  u.en && (d.queue u.rq).entries.any (fun e => fld e.v.toNat 0 8 == s)

/-- Any other register of a sequence context written (R346): at once, or at the end of the step that runs. SMP_POS written while a
request is queued holds from the start of its step on, and stands again after that step's own update. -/
def seqWrite (d : Dev) (j s off : Nat) (v : Word) : Dev :=
  if off = 0 then d.scfgWrite j s v
  else if d.seqRunning j s && off < 0x38 then d.seqLate j s off v
  else
    let d := d.setSeq j s ((d.seq j s).write off v)
    if off = 0x10 && d.seqQueued j s then d.seqLate j s off v else d

/-- The writes kept for the end of a step of sequence `s` applied in order, and those of program words too (R344, R346). -/
def applyLate (d : Dev) (j s : Nat) : Dev :=
  let u := d.sampler j
  let d := d.setSampler j { u with late := u.late.filter (fun e => e.1 != s), prog := u.progLate.foldl (fun m e => Map.set m e.1 e.2) u.prog, progLate := [] }
  (u.late.filter (fun e => e.1 == s)).foldl (fun d e => if e.2.1 = 0 then d.seqOff j e.1 else d.setSeq j e.1 ((d.seq j e.1).write e.2.1 e.2.2)) d

/-- A program word written (R344). -/
def progWrite (d : Dev) (j w v : Nat) : Dev :=
  let u := d.sampler j
  if u.run.isSome then d.setSampler j { u with progLate := Map.set u.progLate w v }
  else d.setSampler j { u with prog := Map.set u.prog w v }

/-- SMP_USTAT (R344). -/
def ustat (d : Dev) (j : Nat) : Nat :=
  let u := d.sampler j
  bit u.run.isSome + u.last * 2 ^ 8 + u.steps * 2 ^ 16 + u.drop * 2 ^ 32

/-- A read of SMP_USTAT clears DROP (R344). -/
def smpDropRead (d : Dev) (j : Nat) : Dev := d.setSampler j { d.sampler j with drop := 0 }

/-- A discarded request or push counted (R344). -/
def smpDrop (d : Dev) (j : Nat) : Dev := d.setSampler j { d.sampler j with drop := min 0xFFFF ((d.sampler j).drop + 1) }

/-- The sequences of a freed context become OFF, those of a running step at its end (R346, R360). -/
def freeSeqs (d : Dev) (n : Nat) : Dev :=
  (List.range 4).foldl (fun d j =>
    ((d.sampler j).seqs.filter (fun e => e.2.valid && e.2.own == n)).foldl (fun d e =>
      if d.seqRunning j e.1 then d.seqLate j e.1 0 0 else d.seqOff j e.1) d) d

end Dev

/-- The units are 0 to 3 and the sequence contexts 0 to 255 (R344). -/
def execSmpUcfgWrite (j : Nat) (v : Word) (s : State) : Host.Outcome State Fault Refusal :=
  event (fun d => if j < 4 then d.ucfgWrite j v else d) s

def execSmpScfgWrite (j q : Nat) (v : Word) (s : State) : Host.Outcome State Fault Refusal :=
  event (fun d => if j < 4 && q < 256 then d.scfgWrite j q v else d) s

def execSmpDropRead (j : Nat) (s : State) : Host.Outcome State Fault Refusal :=
  event (fun d => if j < 4 then d.smpDropRead j else d) s

end Sys2Proof.Machine
end

