-- ==== Sys2Proof/Machine/Context.lean ====
section
/-!
DEFINITION. The commands and the life of a context (spec/09_context.md R192 to R195, R199, R210), and service entry (R200).
-/

namespace Sys2Proof.Machine
open Word

namespace Dev

/-- The status of a context command (R194). -/
def ctxStatus (d : Dev) (n st : Nat) : Dev := d.setCtx n { d.ctx n with cmdst := st }

/-- Whether CREATE finds its ASID in use by another slot, or zero (R193). -/
def asidTaken (d : Dev) (n : Nat) : Bool :=
  (d.ctx n).asid = 0 || d.ctxs.any (fun e => e.1 != n && e.2.state != .free && e.2.asid == (d.ctx n).asid)

/-- The configuration checks of CREATE (R193). -/
def createOk (c : Ctx) : Bool :=
  1 ≤ c.maxgrp && c.maxgrp ≤ 1024 && c.maxq ≤ 4096 && c.clumask != 0 && c.fqBase != 0 && c.img != 0

/-- Whether a core serves an entry now: its groups wait to be saved (R200). -/
def inService (d : Dev) (key : Nat) : Bool := (d.group key).core != 0xFF && (d.core (d.group key).core).service

/-- The resident groups of a context. -/
def residents (d : Dev) (n : Nat) : List Nat := Map.keys (d.groups.filter (fun e => ctxOf e.1 == n && e.2.core != 0xFF))

/-- A group pre-empted by STOP or CHECKPOINT: its discarded service entries are made afresh where it is placed next (R204). -/
def suspendSaved (d : Dev) (key : Nat) : Dev :=
  let d := d.suspend key
  d.setGroup key { d.group key with entries := (d.group key).entries.map (fun (e : Pending) => { e with lost := false }) }

/-- Whether the site of a resident group is being replaced: a pre-emption waits for the spare (R371). -/
def onFrozen (d : Dev) (key : Nat) : Bool := (d.group key).core < 128 && !d.siteRuns (d.group key).core

/-- Every resident group pre-empted, but for those of a core in service mode or of a frozen site (R195, R200, R371). -/
def suspendAll (d : Dev) (n : Nat) : Dev :=
  ((d.residents n).filter (fun k => !d.inService k && !d.onFrozen k)).foldl suspendSaved d

/-- The end of a record's wait decides RUNNING or FAULTED (R195, R199). -/
def workState (c : Ctx) : CtxState := if c.waiting.isEmpty then .running else .faulted

/-- STOP (3) and CHECKPOINT (4) accepted (R193, R195). -/
def beginSave (d : Dev) (n cmd : Nat) : Dev := (d.setCtx n { d.ctx n with state := .saving, running := some cmd }).suspendAll n

/-- CTX_SAVE_COMPLETE (R195, R210): every group is saved. -/
def saveComplete (d : Dev) (n : Nat) : Dev :=
  let c := d.ctx n
  if c.state != .saving || c.running.isNone then d
  else
    let d := d.suspendAll n
    if !(d.residents n).isEmpty then d
    else
      let c := d.ctx n
      (d.setCtx n { c with
        state := if c.running = some 3 then .saved else workState c,
        cmdst := 0, running := none, saves := c.saves + 1 }).writeHeader n

/-- The translations of an ASID leave every TLB and walk cache (R195, R321). -/
def dropAsid (d : Dev) (asid : Nat) : Dev :=
  { d with
    cores := Map.mapV (fun (c : Core) => { c with tlb := c.tlb.filter (·.asid != asid) }) d.cores,
    clusters := Map.mapV (fun (c : Cluster) => { c with
      tlb2 := c.tlb2.filter (·.asid != asid), walks := c.walks.filter (·.asid != asid) }) d.clusters }

/-- The barriers of a freed context become IDLE, P kept (R265). -/
def freeBarriers (d : Dev) (n : Nat) : Dev :=
  let off (b : Barrier) : Barrier := if b.state != .idle && b.own = n then { phase := b.phase } else b
  { d with
    barriers := Map.mapV off d.barriers,
    clusters := Map.mapV (fun (c : Cluster) => { c with barriers := Map.mapV off c.barriers }) d.clusters }

/-- FREE (R195): queues, recipe entries, pins, barriers, TLB entries, keys, kernels and sequences of the context go. -/
def freeContext (d : Dev) (n : Nat) : Dev :=
  let asid := (d.ctx n).asid
  let keys := (Map.keys d.groups).filter (fun k => ctxOf k == n)
  let d := keys.foldl removeGroup d
  let own := Map.keys (d.queues.filter (fun e => e.2.state != .free && e.2.own == n))
  let d := (((own.foldl releaseQueue d).releasePins n).freeBarriers n).dropAsid asid
  let d := d.freeSeqs n
  let empty (m : Mailbox) : Mailbox := if m.ctx == some n then {} else m
  let d := { d with q250 := empty d.q250, q251 := empty d.q251, cores := Map.mapV (fun (c : Core) => { c with
    serving := if c.serving.map ctxOf == some n then none else c.serving }) d.cores }
  d.setCtx n { d.ctx n with
    state := .free, waiting := [], running := none, kernels := [], pipes := [], xkeys := [], cmdst := 0 }

/-- The status of a command written to CTX_CMD (R193, R194); `work` says that the module runs contexts. A command comes before a change
in the fault queue in the same cycle (R195): a context that has become FAULTED in it still takes a CHECKPOINT. -/
def ctxCheck (d : Dev) (work : Bool) (n code : Nat) : Nat :=
  let c := d.ctx n
  let st := c.state
  let from_ (ok : Bool) : Nat := if ok then 0 else 2
  if c.running.isSome && code != 6 then 1
  else if code = 1 then
    if st != .free || !work then 2
    else if d.asidTaken n then 3
    else if !createOk c then 4
    else 0
  else if code = 2 then from_ (st == .created && work)
  else if code = 3 then from_ (st == .running || st == .faulted)
  else if code = 4 then from_ (st == .running || (st == .faulted && c.faultedAt == d.time + 1))
  else if code = 5 then from_ (st == .saved && work)
  else if code = 6 then from_ (st != .free && st != .killed)
  else if code = 7 then from_ (st == .created || st == .saved || st == .killed)
  else 4

/-- The effect of a command that passes its checks (R193, R195). The status of STOP and CHECKPOINT comes at their end. -/
def ctxDo (d : Dev) (n code : Nat) : Dev :=
  let c := d.ctx n
  if code = 1 then d.setCtx n { c with state := .created, head := 0, tail := 0, seq := 0, cmdst := 0 }
  else if code = 2 then d.setCtx n { c with state := .running, cmdst := 0 }
  else if code = 3 then d.beginSave n 3
  else if code = 4 then d.beginSave n 4
  else if code = 5 then d.setCtx n { c with state := workState c, cmdst := 0 }
  else if code = 6 then (d.killContext n 0xFE none).ctxStatus n 0
  else d.freeContext n

/-- A command written to CTX_CMD (R193). -/
def ctxCommand (d : Dev) (work : Bool) (n code : Nat) : Dev :=
  let st := d.ctxCheck work n code
  if st = 0 then d.ctxDo n code else d.ctxStatus n st

/-- CTXS (codes 3 and 4) and CTXL (code 5) of a slot in a register (R209): the status, and the device. -/
def ctxFromDevice (d : Dev) (code : Nat) (slot : Word) : Nat × Dev :=
  if fld slot.toNat 6 58 != 0 then (4, d)
  else
    let n := slot.toNat % 64
    let st := d.ctxCheck true n code
    (st, (if st = 0 then d.ctxDo n code else d).ctxStatus n st)

/-- HEAD of the fault queue written (R192): a value among the positions from HEAD to TAIL releases records, and waiting ones
are written (R199). -/
def headWrite (d : Dev) (n head : Nat) : Dev :=
  let c := d.ctx n
  let cap := fqCap c
  let h := head % cap
  if (h + cap - c.head) % cap ≤ (c.tail + cap - c.head) % cap then
    let d := d.setCtx n { c with head := h }
    if h = c.head then d else d.drainRecords n c.waiting
  else d

/-- Words that fetch finds from an address on, up to the first that it cannot have (R201). -/
def fetchRun (d : Dev) (pc : Word) : Nat → List (Word × Nat)
  | 0 => []
  | n + 1 =>
    match d.access pc.toNat 8 8 .fetch pc.toNat with
    | .ok (pa, d') => (pc, d'.ld pa 8) :: fetchRun d (pc + 8) n
    | .error _ => []

/-- The words that the decoded queues of a core's V, M and X streams hold when service mode begins (R201): how far fetch has run
ahead, up to 32 words, is open (log 17). -/
def fillAhead (d : Dev) (core : Nat) : Dev :=
  (d.core core).slots.foldl (fun d s =>
    [Engine.V, .M, .X].foldl (fun d e =>
      let g := d.group s.2
      let x := g.stream e
      if !x.declared || x.retired then d
      else
        let n := d.free
        let have_ := x.decoded
        let more := fetchRun (d.curOf s.2 e) (x.pc + BitVec.ofNat 64 (8 * have_.length)) (32 - have_.length)
        n.2.setGroup s.2 (g.setStream e { x with decoded := have_ ++ more.take (n.1.toNat % 33 - have_.length) })) d) d

/-- Whether an S stream of a core has an access that has still to be performed: it is inside an instruction (R200, R384). -/
def insideAccess (d : Dev) (core : Nat) : Bool :=
  d.waits.any (fun w => match w.by_ with
    | .stream k e => e == .S && (d.group k).core == core
    | _ => false)

/-- SERVICE ENTRY (R200): once every S stream of the core is at an issue-group boundary, the service registers are loaded from the next
waiting entry and the S engine starts at the vector. Without a vector the entry is discarded (R204). -/
def enterService (d : Dev) (n : Nat) : Dev :=
  let c := d.core n
  match nextEntry c.pending with
  | none => d
  | some e =>
    if c.service || d.insideAccess n then d
    else if c.svec = 0 then d.loseEntry n e
    else
      let g := d.group e.key
      (d.fillAhead n).setCore n { c with
        pending := c.pending.erase e, service := true, serving := some e.key, sepc := e.pc, sstep := e.step, srec := BitVec.ofNat 64 e.record,
        cause := e.cause, strm := e.stream.num, gslot := g.slot, held := true, nest := 0, sepcWritten := false, ctxsOwn := false,
        atEntry := (c.svec, c.svcwm, c.sscr, c.svflags), entrySepc := e.pc, entrySstep := e.step,
        svc := { c.svc with pc := c.svec, retired := false, declared := true, loops := [], pend := none, skip := none, op := none, hoist := [], decoded := [], waitSince := d.time } }

/-- SERVICE ENTRY on a core whose site works (R200, R366). -/
def serviceEntry (d : Dev) (n : Nat) : Dev := if d.siteRuns n then d.enterService n else d

end Dev

/-- The slots are 0 to 63 (R192): an event at another number reaches no slot. -/
def onCtx (n : Nat) (f : Dev → Dev) (s : State) : Host.Outcome State Fault Refusal :=
  event (fun d => if n < 64 then f d else d) s

/-- Contexts run while the module is READY or DEGRADED (R11). -/
def Life.works : Life → Bool
  | .ready => true
  | .degraded => true
  | _ => false

def execServiceEntry (core : Nat) (s : State) : Host.Outcome State Fault Refusal :=
  event (fun d => if core < 128 || core = 0xF0 || core = 0xF1 then d.serviceEntry core else d) s

def execCtxCreate (n : Nat) (s : State) : Host.Outcome State Fault Refusal :=
  onCtx n (·.ctxCommand (Life.works s.mod.life) n 1) s

def execCtxStart (n : Nat) (s : State) : Host.Outcome State Fault Refusal :=
  onCtx n (·.ctxCommand (Life.works s.mod.life) n 2) s

def execCtxStop (n : Nat) (s : State) : Host.Outcome State Fault Refusal :=
  onCtx n (·.ctxCommand (Life.works s.mod.life) n 3) s

def execCtxCheckpoint (n : Nat) (s : State) : Host.Outcome State Fault Refusal :=
  onCtx n (·.ctxCommand (Life.works s.mod.life) n 4) s

def execCtxResume (n : Nat) (s : State) : Host.Outcome State Fault Refusal :=
  onCtx n (·.ctxCommand (Life.works s.mod.life) n 5) s

def execCtxKill (n : Nat) (s : State) : Host.Outcome State Fault Refusal :=
  onCtx n (·.ctxCommand (Life.works s.mod.life) n 6) s

def execCtxFree (n : Nat) (s : State) : Host.Outcome State Fault Refusal :=
  onCtx n (·.ctxCommand (Life.works s.mod.life) n 7) s

/-- A code that R193 does not list: 0, or above 7. -/
def execCtxBadCommand (n code : Nat) (s : State) : Host.Outcome State Fault Refusal :=
  onCtx n (fun d => if 1 ≤ code % 16 && code % 16 ≤ 7 then d else d.ctxCommand (Life.works s.mod.life) n (code % 16)) s

def execCtxSaveComplete (n : Nat) (s : State) : Host.Outcome State Fault Refusal := onCtx n (·.saveComplete n) s

def execFaultQueueHeadWrite (n head : Nat) (s : State) : Host.Outcome State Fault Refusal := onCtx n (·.headWrite n head) s

end Sys2Proof.Machine
end

