-- ==== Sys2Proof/Machine/Control.lean ====
section
/-!
DEFINITION. Class 0x3, control, but for SPAWN (spec/12_group.md R241 to R250, R259; spec/13_barrier.md R264 to R272).
-/

namespace Sys2Proof.Machine
open Word

namespace Dev

/-! ### Branches and loops -/

/-- A prepared target (R243): canonical and 8-byte aligned, or a fault with the target in the address field. -/
def setTarget (d : Dev) (bn : Nat) (t : Word) : Res Dev := do
  trapIf (!canonical t.toNat) 0x0B t.toNat
  trapIf (t.toNat % 8 != 0) 5 t.toNat
  let d := d.setBreg bn t
  pure (d.setStm { d.stm with pend := d.stm.pend.map (fun p => if p.link = some bn then { p with link := none } else p) })

/-- PBR of a register (R243): a poisoned target commits. -/
def pbrRegOp (d : Dev) (bn fa : Nat) : Res Dev :=
  if (d.reg fa).p then commitReg (d.reg fa).v.toNat else d.setTarget bn (d.reg fa).v

/-- A word that must not stand in a delay group of a taken branch (R245). -/
def notDelayed (d : Dev) : Res Unit := trapIf d.stm.pend.isSome 2 d.cur.pc.toNat

/-- BR and BRL (R244): the transfer is left pending for two issue groups; `bl` takes the address after them. -/
def branchOp (d : Dev) (bn cn mode n : Nat) (bl : Option Nat) : Res Dev := do
  d.notDelayed
  let c := d.creg cn
  if mode != 0 && c.p then commitReg 0
  else
    let take := mode = 0 || (mode = 1 && c.v) || (mode = 2 && !c.v)
    if !take then pure d
    else do
      trapIf (d.stm.loops.length < n) 2 d.cur.pc.toNat
      let t := d.breg bn
      let d := match bl with
        | some r => d.setBreg r d.cur.link
        | none => d
      pure (d.setStm { d.stm with pend := some ⟨t, 2, n, if d.cur.linkRead then none else bl⟩ })

/-- LOOP (R247, R248). -/
def loopOp (d : Dev) (i : Bool) (fa n : Nat) : Res Dev := do
  d.notDelayed
  let a := d.reg fa
  let count : Word := (if i then a.v else 0) + BitVec.ofNat 64 n
  if i && a.p then commitReg 0
  else do
    trapIf (d.stm.loops.length = 6) 2 d.cur.pc.toNat
    if count = 0 then pure (d.setStm { d.stm with skip := some (0, d.cur.next) })
    else pure (d.setStm { d.stm with loops := ⟨d.cur.next, count, 1⟩ :: d.stm.loops })

/-- LEND (R247): back to the start of the innermost loop, or out of it. The stream's PC already stands after the group. -/
def lendOp (d : Dev) : Res Dev := do
  d.notDelayed
  match d.stm.loops with
  | [] => trap 2 d.cur.pc.toNat
  | l :: ls =>
    if l.remaining.toNat > 1 then
      pure (d.setStm { d.stm with loops := { l with remaining := l.remaining - 1, iter := l.iter + 1 } :: ls, pc := l.start })
    else pure (d.setStm { d.stm with loops := ls })

/-! ### Rendezvous and retirement -/

/-- The streams of a mask other than the one that runs. -/
def partners (d : Dev) (mask : Nat) : List Engine := engines.filter (fun e => flag mask e.num && e != d.cur.eng)

/-- Whether a stream waits at an RDV, and with which mask. -/
def rdvMask (x : Stream) : Option Nat :=
  match x.wait with
  | .rendezvous m => if x.rdvGo then none else some m
  | _ => none

/-- RDV (R249): the last stream to arrive lets all of them go. A different mask or a retired partner is cause 0x19. -/
def rdvOp (d : Dev) (mask : Nat) : Res Dev := do
  d.notDelayed
  if d.stm.rdvGo then pure (d.setStm { d.stm with rdvGo := false, rdv := none })
  else
    let g := d.grp
    let other (e : Engine) : Bool := e != d.cur.eng && match rdvMask (g.stream e) with
      | some m => m != mask && (flag mask e.num || flag m d.cur.eng.num)
      | none => false
    match engines.find? other with
    | some e => .error (.trap { cause := 0x19, addr := BitVec.ofNat 64 mask, other := some e })
    | none =>
      let ps := d.partners mask
      if d.cur.svc then pure d
      else do
        trapIf (ps.any (fun e => (g.stream e).retired)) 0x19 mask
        if !d.stm.busy && ps.all (fun e => rdvMask (g.stream e) == some mask && !(g.stream e).busy) then
          pure (d.setGrp (ps.foldl (fun g e => g.setStream e { g.stream e with rdvGo := true }) g))
        else waitFor (.rendezvous mask)

/-- RETIRE (R250): it completes when every earlier instruction of the stream has retired. -/
def retireOp (d : Dev) : Res Dev := do
  d.notDelayed
  if d.stm.busy then waitFor .busy else pure (d.setStm { d.stm with retired := true })

/-- Whether every declared stream of a group has retired (R250). -/
def allRetired (g : Group) : Bool := engines.all (fun e => !(g.stream e).declared || (g.stream e).retired)

/-! ### Events -/

/-- Whether a group has a stream, in every state (R271): a PENDING group has those that its kernel declares. -/
def hasStream (d : Dev) (key : Nat) (e : Engine) : Bool :=
  let g := d.group key
  if g.state = .pending then flag (d.kernel (ctxOf key) g.kernel).streams e.num else (g.stream e).declared

/-- The event latches of a group set under a mask (R271); a stream that does not exist receives nothing and is counted. -/
def setEvents (d : Dev) (key mask : Nat) : Dev :=
  match Map.find d.groups key with
  | none => d.count 49 ((List.range 4).filter (flag mask)).length
  | some g =>
    let hit := engines.filter (fun e => flag mask e.num && d.hasStream key e)
    let lost := (engines.filter (fun e => flag mask e.num && !d.hasStream key e)).length
    (d.setGroup key (hit.foldl (fun g e => g.setStream e { g.stream e with event := true }) g)).count 49 lost

/-- SEV (R271). In service mode, which runs for no group and no context, nothing receives the event (log 30). -/
def sevOp (d : Dev) (fa mask : Nat) : Res Dev := do
  let a := (d.reg fa).v.toNat
  let kind := fld a 18 2
  trapIf (fld a 20 44 != 0 || fld a 16 2 != 0 || kind = 3 || (kind = 2 && fld a 1 15 != 0)) 4 a
  let drops (n : Nat) : Dev := d.count 49 n
  let all := ((List.range 4).filter (flag mask)).length
  if d.cur.svc then pure (drops all)
  else
    match kind with
    | 0 => pure (d.setEvents d.cur.key mask)
    | 1 => pure (d.setEvents (keyOf d.myCtx (fld a 0 16)) mask)
    | _ =>
      match d.controlGroup (if flag a 0 then 0xF1 else 0xF0) with
      | some k =>
        if ctxOf k = d.myCtx then pure ((d.setEvents k (mask % 2)).count 49 (all - mask % 2)) else pure (drops all)
      | none => pure (drops all)

/-! ### Barriers -/

/-- Barrier misuse (R269): cause 0x19 with G × 256 + b. -/
def misuse {α : Type} (g : Bool) (b : Nat) : Res α := trap 0x19 (bit g * 256 + b)

/-- A barrier of the module, or of the cluster of the executing core (R264). -/
def barrier (d : Dev) (g : Bool) (b : Nat) : Barrier :=
  if g then Map.get {} d.barriers b else Map.get {} (d.cluster (clusterOf d.cur.core)).barriers b

def setBarrier (d : Dev) (g : Bool) (b : Nat) (x : Barrier) : Dev :=
  if g then { d with barriers := Map.set d.barriers b x }
  else
    let n := clusterOf d.cur.core
    d.setCluster n { d.cluster n with barriers := Map.set (d.cluster n).barriers b x }

/-- Uses of a barrier that are misuse whatever its state (R269). -/
def noBarrier (d : Dev) (g : Bool) : Bool := d.cur.svc || (!g && 128 ≤ d.cur.core)

/-- Operations on a barrier of the cluster are held while a site of it migrates (R368). -/
def barrierHeld (d : Dev) (g : Bool) : Bool := !g && d.peerHeld d.cur.core

/-- An operation of the stream on a barrier, which the barrier unit has served (R266). -/
def barrierOp (d : Dev) (g : Bool) (b : Nat) (r : Res Dev) : Res Dev := r.map (·.serve (barUnit g (clusterOf d.cur.core) b))

/-- BARI (R265, R269). Whether a poisoned count commits, the rules do not agree: R87 commits a count and R174 lists no barrier among
the commit points; it does not commit (DESIGN CHOICE, log 85). -/
def bariOp (d : Dev) (g : Bool) (b fa : Nat) : Res Dev :=
  let a := (d.reg fa).v.toNat
  let n := a % 65536
  let x := d.barrier g b
  if d.noBarrier g then misuse g b
  else if d.barrierHeld g then waitFor .peer
  else if a / 65536 != 0 || (x.state != .idle && x.own != d.myCtx) || x.state == .counting then misuse g b
  else if n = 0 then (if x.state = .idle then .ok d else .ok (d.setBarrier g b { x with state := .idle, own := 0 }))
  else .ok (d.setBarrier g b { x with state := .armed, own := d.myCtx, tgt := n, rem := n })

/-- BARA (R265, R267, R269): it waits until every earlier instruction of the stream has retired. -/
def baraOp (d : Dev) (g : Bool) (b : Nat) : Res Dev :=
  let x := d.barrier g b
  if d.noBarrier g then misuse g b
  else if d.barrierHeld g then waitFor .peer
  else if d.stm.busy then waitFor .busy
  else if x.state = .idle || x.own != d.myCtx then misuse g b
  else
    let d := d.setStm { d.stm with arrival := some ⟨g, b, clusterOf d.cur.core, x.phase⟩ }
    if x.rem ≤ 1 then
      .ok (d.setBarrier g b { x with state := .released, phase := (x.phase + 1) % 65536, rem := x.tgt })
    else .ok (d.setBarrier g b { x with state := .counting, rem := x.rem - 1 })

/-- BARW (R268). -/
def barwOp (d : Dev) (g : Bool) (b : Nat) : Res Dev :=
  if d.noBarrier g then misuse g b
  else if d.barrierHeld g then waitFor .peer
  else
    match d.stm.arrival with
    | none => misuse g b
    | some r =>
      if r.g != g || r.b != b || r.cluster != clusterOf d.cur.core then misuse g b
      else if (d.barrier g b).phase = r.phase then waitFor .barrier
      else .ok (d.setStm { d.stm with arrival := none }).advance

end Dev

def execPbr (h : Hdr) (bn : Nat) (imm : Int) (s : State) : Host.Outcome State Fault Refusal :=
  stream h (fun d => d.setTarget bn (d.cur.pc + BitVec.ofInt 64 (imm * 8))) s

def execPbrReg (h : Hdr) (bn fa : Nat) (s : State) : Host.Outcome State Fault Refusal :=
  stream h (·.pbrRegOp bn fa) s

def execBr (h : Hdr) (bn cn mode n : Nat) (s : State) : Host.Outcome State Fault Refusal :=
  stream h (·.branchOp bn cn mode n none) s

/-- BRL (R244): the link is the address after the second delay group. -/
def execBrl (h : Hdr) (bn bl cn mode n : Nat) (s : State) : Host.Outcome State Fault Refusal :=
  stream h (·.branchOp bn cn mode n (some bl)) s

def execLoop (h : Hdr) (i : Bool) (fa n : Nat) (s : State) : Host.Outcome State Fault Refusal :=
  stream h (·.loopOp i fa n) s

def execLend (h : Hdr) (s : State) : Host.Outcome State Fault Refusal := stream h (·.lendOp) s

def execRdv (h : Hdr) (mask : Nat) (s : State) : Host.Outcome State Fault Refusal := stream h (·.rdvOp mask) s

def execWfe (h : Hdr) (s : State) : Host.Outcome State Fault Refusal :=
  stream h (fun d => if d.stm.event then .ok (d.setStm { d.stm with event := false }) else waitFor .event) s

def execSev (h : Hdr) (fa mask : Nat) (s : State) : Host.Outcome State Fault Refusal := stream h (·.sevOp fa mask) s

/-- PAUSE (R272): the stream yields for the `n` cycles after this one; PAUSE 0 has no effect. A stream that still
yields for longer goes on to do so (DESIGN CHOICE, log 90). -/
def execPause (h : Hdr) (n : Nat) (s : State) : Host.Outcome State Fault Refusal :=
  stream h (fun d => .ok (if n = 0 then d else d.setStm { d.stm with yieldUntil := max d.stm.yieldUntil (d.time + n + 1) })) s

def execNop (h : Hdr) (s : State) : Host.Outcome State Fault Refusal := stream h (fun d => .ok d) s

def execBari (h : Hdr) (g : Bool) (b fa : Nat) (s : State) : Host.Outcome State Fault Refusal :=
  stream h (fun d => d.barrierOp g b (d.bariOp g b fa)) s

def execBara (h : Hdr) (g : Bool) (b : Nat) (s : State) : Host.Outcome State Fault Refusal :=
  stream h (fun d => d.barrierOp g b (d.baraOp g b)) s

def execBarw (h : Hdr) (g : Bool) (b : Nat) (s : State) : Host.Outcome State Fault Refusal :=
  stream h (fun d => d.barrierOp g b (d.barwOp g b)) s

/-- RETIRE (R250): after the last declared stream the group itself retires. -/
def execRetire (h : Hdr) (s : State) : Host.Outcome State Fault Refusal :=
  conclude s (do
    let d ← s.dev.issue h (·.retireOp)
    if !d.cur.svc && d.stm.retired && Dev.allRetired d.grp then pure (d.retireGroup d.cur.key) else pure d)

def execSlk (h : Hdr) (n : Nat) (s : State) : Host.Outcome State Fault Refusal :=
  stream h (fun d => .ok (d.setStm { d.stm with slack := n })) s

end Sys2Proof.Machine
end

