-- ==== Sys2Proof/Machine/System.lean ====
section
/-!
DEFINITION. Class 0x4: traps, return from service, the CSRs, context instructions (spec/09_context.md R203 to R209), and
invalidation of translations (spec/16_page.md R322 to R325); faults of fetch and decoding (spec/02_word.md R36, R37).
-/

namespace Sys2Proof.Machine
open Word

namespace Dev

/-! ### CSRs -/

/-- The group whose CSRs 0x000 to 0x7FF are named: the stream's own, or in service mode the held group while it is resident
(R203). -/
def csrGroup (d : Dev) : Option Nat := if d.cur.svc then d.servedGroup d.cur.core else some d.cur.key

/-- COR_VIEW (R45). -/
def viewWord (v : View) : Nat := v.etype + v.trows * 2 ^ 16 + v.vbase * 2 ^ 32

/-- COR_RCPSTAT (R45). -/
def rcpStat (g : Group) : Nat :=
  let dropped := (g.rows.filter (fun e => isDropped e.2)).length
  let tagged := (g.rows.filter (fun e => e.2.tag != .live)).length
  dropped + tagged * 2 ^ 32

/-- COR_TOKA: FIFOs 0 to 5 as they stood at the start of the cycle (R263). -/
def tokaOf (g : Group) (now : Nat) : Nat := sumOf (fun i => startTokens g now i * 2 ^ (6 * i)) (List.range 6)

/-- COR_TOKB: FIFOs 6 to 11 as they stood at the start of the cycle, and the event latches (R263). -/
def tokbOf (g : Group) (now : Nat) : Nat :=
  sumOf (fun i => startTokens g now (6 + i) * 2 ^ (6 * i)) (List.range 6)
    + sumOf (fun e => bit (g.stream e).event * 2 ^ (36 + e.num)) engines

/-- CSRs 0x000 to 0x7FF of a group (R45, R71, R80, R81, R89, R164, R181, R263); `none` where no CSR has the number. -/
def groupCsr (d : Dev) (key csr : Nat) : Option Nat :=
  let g := if d.cur.svc || d.cur.eng == .S then d.group key else asStaged (d.group key) d.time
  match csr with
  | 0x020 => some (viewWord (if d.cur.svc then g.viewNext else g.view))
  | 0x021 => some (g.recipesN + g.lent.length * 2 ^ 9 + g.rowsN * 2 ^ 32)
  | 0x022 => some (rcpStat g)
  | 0x023 => some g.fflags
  | 0x024 => some g.xval
  | 0x025 => some g.srkey.toNat
  | 0x026 => some g.srctrV.toNat
  | 0x027 => some g.srctrX.toNat
  | 0x028 => some g.sflags
  | 0x030 => some g.thresh
  | 0x040 => some (d.ctx (ctxOf key)).key
  | 0x050 => some (tokaOf g d.time)
  | 0x051 => some (tokbOf g d.time)
  | _ => none

/-- The service CSRs (R203). -/
def serviceCsr (c : Core) (csr : Nat) : Option Nat :=
  match csr with
  | 0x800 => some c.sepc.toNat
  | 0x801 => some (c.cause + c.strm * 2 ^ 10 + bit c.held * 2 ^ 12 + c.gslot * 2 ^ 16 + c.nest * 2 ^ 24)
  | 0x802 => some c.srec.toNat
  | 0x803 => some c.svec.toNat
  | 0x804 => some c.svcwm
  | 0x805 => some c.sscr.toNat
  | 0x806 => some c.sstep.toNat
  | 0x807 => some c.svflags
  | _ => none

/-- Whether a number below 0x800 names a CSR. -/
def isGroupCsr (csr : Nat) : Bool :=
  [0x020, 0x021, 0x022, 0x023, 0x024, 0x025, 0x026, 0x027, 0x028, 0x030, 0x040, 0x050, 0x051].contains csr

/-- A CSR read (R205, R208). -/
def csrRead (d : Dev) (csr : Nat) : Res Nat :=
  if 0x800 ≤ csr then
    if !d.cur.svc then trap 9 d.cur.pc.toNat
    else
      match serviceCsr (d.core d.cur.core) csr with
      | some v => .ok v
      | none => trap 4 csr
  else if csr = 0x060 then .ok (d.time % 2 ^ 64)
  else if !isGroupCsr csr || (d.cur.eng != .S && (csr == 0x023 || csr == 0x028)) then trap 4 csr
  else
    match d.csrGroup with
    | some k => .ok ((d.groupCsr k csr).getD 0)
    | none => .ok 0

/-- The CSRs of a group kept as they stood before the first write of a cycle (R71, R81, R208). -/
def keepOld (g : Group) (now csr : Nat) : Group :=
  let o : OldCsr := if g.old.at_ = now + 1 then g.old else ⟨now + 1, g.xval, g.srkey, g.srctrV, g.srctrX, g.thresh, false, false⟩
  { g with old := { o with wroteV := o.wroteV || csr == 0x026, wroteX := o.wroteX || csr == 0x027 } }

/-- A group with one of its CSRs written in a cycle (R45, R71, R80, R81, R89, R164). A flag raised in the cycle stays. -/
def writeGroupCsr (g : Group) (now : Nat) (svc : Bool) (csr v : Nat) : Group :=
  let g := if [0x024, 0x025, 0x026, 0x027, 0x030].contains csr then keepOld g now csr else g
  let stay (f : Nat) : Nat := if g.raisedAt = now + 1 then v - (v &&& f) else v
  match csr with
  | 0x020 =>
    if svc then
      let x := g.viewNext
      let t := fld v 16 8
      let e := fld v 0 4
      { g with viewNext := {
          vbase := fld v 32 11,
          trows := if 1 ≤ t && t ≤ 64 then t else x.trows,
          etype := if 1 ≤ e && e ≤ 0xA then e else x.etype } }
    else g
  | 0x023 => { g with fflags := g.fflags - (g.fflags &&& stay g.raisedF) }
  | 0x024 => { g with xval := clampXval v }
  | 0x025 => { g with srkey := BitVec.ofNat 64 v }
  | 0x026 => { g with srctrV := BitVec.ofNat 64 v }
  | 0x027 => { g with srctrX := BitVec.ofNat 64 v }
  | 0x028 => { g with sflags := g.sflags - (g.sflags &&& stay g.raisedS) }
  | 0x030 => { g with thresh := fld v 0 8 + (if fld v 8 2 = 3 then 0 else fld v 8 2) * 2 ^ 8 }
  | _ => g

/-- A core with one of its service CSRs written in a cycle (R203, R204, R207). -/
def writeServiceCsr (c : Core) (now csr : Nat) (v : Word) : Core :=
  match csr with
  | 0x800 => { c with sepc := v, sstep := 0, sepcWritten := true }
  | 0x801 => { c with nest := fld v.toNat 24 8, held := flag v.toNat 12 }
  | 0x803 => { c with svec := BitVec.ofNat 64 (v.toNat / 8 * 8), svecAt := now + 1 }
  | 0x804 => { c with svcwm := v.toNat % 32, svcwmAt := now + 1 }
  | 0x805 => { c with sscr := v }
  | 0x806 => { c with sstep := v }
  | 0x807 => { c with svflags := c.svflags - (c.svflags &&& v.toNat) }
  | _ => c

/-- A write to COR_SEPC abandons the held stream's instruction and its pending transfer, and the stream fetches there (R207). -/
def abandonHeld (d : Dev) (n : Nat) (v : Word) : Dev :=
  match d.servedGroup n with
  | none => d
  | some k =>
    let e := Engine.ofNum (d.core n).strm
    let d := d.abandon k e (opHeld (d.group k) e)
    let g := d.group k
    d.setGroup k (g.setStream e { g.stream e with pc := v })

/-- A CSR written by the S stream (R205, R208). -/
def csrWrite (d : Dev) (csr : Nat) (v : Word) : Res Dev := do
  let _ ← d.csrRead csr
  if 0x800 ≤ csr then
    let d := d.setCore d.cur.core (writeServiceCsr (d.core d.cur.core) d.time csr v)
    pure (if csr = 0x800 then d.abandonHeld d.cur.core v else d)
  else if csr = 0x060 then pure d
  else
    match d.csrGroup with
    | some k => pure (d.setGroup k (writeGroupCsr (d.group k) d.time d.cur.svc csr v.toNat))
    | none => pure d

/-! ### Invalidation -/

/-- The checks of TLBI on its range and its ASID (R323): the cause and the address field of the first that fails. -/
def tlbiCheck (kind : Nat) (va len asid : Word) : Option (Nat × Word) :=
  let ranged := kind = 0 || kind = 2
  if ranged && !canonical va.toNat then some (0x0B, va)
  else if ranged && 2 ^ 54 - va.toNat % 2 ^ 54 < len.toNat then some (4, len)
  else if (kind = 0 || kind = 1) && 2 ^ 16 ≤ asid.toNat then some (4, asid)
  else none

/-- A waiting access with the translations that it holds and that an invalidation removes marked (R321, R326). -/
def markHeld (stays : Leaf → Bool) (w : AccWait) : AccWait :=
  { w with held := w.held.map (fun h => { h with leaf := { h.leaf with gone := h.leaf.gone || !stays h.leaf } }) }

/-- The core that makes an access; `none` for a sampler unit. -/
def coreOfWait (d : Dev) : Waiter → Option Nat
  | .stream k _ => some (d.group k).core
  | .op k _ => some (d.group k).core
  | .load k => some (d.group k).core
  | .service n => some n
  | .unit _ => none

/-- Whether an access that goes on holds a translation that has been removed (R324). A core whose site is frozen counts as having
applied every invalidation (R326). -/
def drains (d : Dev) : Bool :=
  d.waits.any (fun w => w.held.any (·.leaf.gone) && ((d.coreOfWait w.by_).map d.siteRuns).getD true)

/-- Removed translations forgotten, once a drain is over: what still waits translates again (R324). -/
def dropGone (d : Dev) : Dev := { d with waits := d.waits.map (fun w => { w with held := w.held.filter (fun h => !h.leaf.gone) }) }

/-- An invalidation applied everywhere (R323): TLB entries, walk-cache entries, stash entries and hoist-guard entries that the
range and the ASID name. -/
def invalidate (d : Dev) (kind : Nat) (va len asid : Word) : Dev :=
  let ranged := kind = 0 || kind = 2
  let lo := va.toNat % 2 ^ 54
  let hi := lo + len.toNat
  let overlap (a n : Nat) : Bool := !ranged || (a < hi && lo < a + n)
  let named (x : Nat) : Bool := kind = 2 || kind = 3 || x == asid.toNat
  let leafStays (l : Leaf) : Bool := !(named l.asid && overlap l.va (2 ^ l.size))
  let walkStays (w : WalkEntry) : Bool := !(named w.asid && overlap w.va (2 ^ (21 + 9 * w.lvl)))
  let group (e : Nat × Group) : Nat × Group :=
    if !named (d.ctx (ctxOf e.1)).asid then e
    else
      let g := e.2
      let st : Map StashEntry := g.stash.filter (fun s => !overlap (s.1 * 64) 64)
      let ho : List Hoist := g.streamS.hoist.filter (fun h => !overlap (h.ea % 2 ^ 54) (typeBytes h.t))
      (e.1, { g with stash := st, streamS := { g.streamS with hoist := ho } })
  if ranged && len = 0 then d
  else
    { d with
      cores := Map.mapV (fun (c : Core) => { c with tlb := c.tlb.filter leafStays }) d.cores,
      waits := d.waits.map (markHeld leafStays),
      clusters := Map.mapV (fun (c : Cluster) => { c with tlb2 := c.tlb2.filter leafStays, walks := c.walks.filter walkStays }) d.clusters,
      groups := d.groups.map group }

/-- TLBI (R322, R323). -/
def tlbiOp (d : Dev) (kind fd fa fb : Nat) : Res Dev :=
  if !d.cur.svc then trap 9 d.cur.pc.toNat
  else if (d.reg fa).p || (d.reg fb).p || (d.reg fd).p then commitReg 0
  else
    match tlbiCheck kind (d.reg fa).v (d.reg fb).v (d.reg fd).v with
    | some (c, a) => trap c a.toNat
    | none => .ok (d.invalidate kind (d.reg fa).v (d.reg fb).v (d.reg fd).v)

/-- TLBS (R324): it waits until every access that holds a removed translation has been performed. -/
def tlbsOp (d : Dev) : Res Dev := if !d.cur.svc then trap 9 d.cur.pc.toNat else if d.drains then waitFor .busy else .ok d.dropGone

/-- MOD_TLBC written (R325): the invalidation of MOD_TLBA and MOD_TLBL, applied at once (log 5); BUSY until the accesses that hold a
removed translation have been performed, and ignored while BUSY. -/
def tlbCommand (d : Dev) (v : Word) : Dev :=
  if d.tlbBusy && d.drains then d
  else
  let kind := fld v.toNat 16 2
  let asid := fld v.toNat 0 16
  let d := { d with tlbKind := kind, tlbAsid := asid }
  match tlbiCheck kind d.tlba d.tlbl (BitVec.ofNat 64 asid) with
  | some _ => { d with tlbStatus := 4, tlbBusy := false }
  | none => { d.invalidate kind d.tlba d.tlbl (BitVec.ofNat 64 asid) with tlbStatus := 0, tlbBusy := true }

/-! ### The rest -/

/-- ERET (R207). -/
def eretOp (d : Dev) : Res Dev := if d.cur.svc then .ok (d.returnService d.cur.core) else trap 9 d.cur.pc.toNat

/-- CTXS and CTXL (R209); the core remembers that its service code has had the context of its own held group saved. -/
def ctxOp (d : Dev) (code fd fa : Nat) : Res Dev :=
  if !d.cur.svc then trap 9 d.cur.pc.toNat
  else
    let x := d.reg fa
    let own := ((d.core d.cur.core).serving.map ctxOf) == some (x.v.toNat % 64)
    let (st, d) := d.ctxFromDevice code x.v
    let d := if own && st = 0 && code != 5 then d.setCore d.cur.core { d.core d.cur.core with ctxsOwn := true } else d
    .ok (d.setReg fd ⟨BitVec.ofNat 64 st, x.p⟩)

end Dev

/-- TRAP (R206): cause 0x20 with the code; the record's resume PC is the next word. -/
def execTrap (h : Hdr) (code : Nat) (s : State) : Host.Outcome State Fault Refusal :=
  stream h (fun _ => Sys2Proof.Machine.trap 0x20 code) s

def execEret (h : Hdr) (s : State) : Host.Outcome State Fault Refusal := stream h (·.eretOp) s

/-- CSRR (R205, R208). -/
def execCsrr (h : Hdr) (fd csr : Nat) (s : State) : Host.Outcome State Fault Refusal :=
  stream h (fun d => do
    let v ← d.csrRead csr
    pure (d.setReg fd ⟨BitVec.ofNat 64 v, false⟩)) s

/-- CSRW (R205, R208). -/
def execCsrw (h : Hdr) (fa csr : Nat) (s : State) : Host.Outcome State Fault Refusal :=
  stream h (fun d => d.csrWrite csr (d.reg fa).v) s

/-- CSRX (R205, R208): the old value is read, then the CSR takes sa; sd has the poison of sa (R87). -/
def execCsrx (h : Hdr) (fd fa csr : Nat) (s : State) : Host.Outcome State Fault Refusal :=
  stream h (fun d => do
    let v ← d.csrRead csr
    let d' ← d.csrWrite csr (d.reg fa).v
    pure (d'.setReg fd ⟨BitVec.ofNat 64 v, (d.reg fa).p⟩)) s

def execTlbi (h : Hdr) (kind fd fa fb : Nat) (s : State) : Host.Outcome State Fault Refusal :=
  stream h (·.tlbiOp kind fd fa fb) s

def execTlbs (h : Hdr) (s : State) : Host.Outcome State Fault Refusal :=
  stream h (·.tlbsOp) s

def execCtxsStop (h : Hdr) (fd fa : Nat) (s : State) : Host.Outcome State Fault Refusal := stream h (·.ctxOp 3 fd fa) s

def execCtxsCheckpoint (h : Hdr) (fd fa : Nat) (s : State) : Host.Outcome State Fault Refusal := stream h (·.ctxOp 4 fd fa) s

def execCtxl (h : Hdr) (fd fa : Nat) (s : State) : Host.Outcome State Fault Refusal := stream h (·.ctxOp 5 fd fa) s

def execTlbCommand (v : Word) (s : State) : Host.Outcome State Fault Refusal := event (·.tlbCommand v) s

/-- A failed check of decoding (R22 to R37), raised against the stream that `cur` names: the failing word and its address. -/
def execDecodeFault (cause word addr : Nat) (s : State) : Host.Outcome State Fault Refusal :=
  conclude s (.error (.trap { cause := cause, addr := BitVec.ofNat 64 addr, word := some word }))

/-- A fetch that fails (R37, R316): the record's word is 0. -/
def execFetchFault (cause addr : Nat) (s : State) : Host.Outcome State Fault Refusal :=
  conclude s (.error (.trap { cause := cause, addr := BitVec.ofNat 64 addr, word := some 0 }))

end Sys2Proof.Machine
end

