-- ==== Sys2Proof/Machine/CorePower.lean ====
section
/-!
DEFINITION. Sites, freezing, migration and the power of clusters (spec/19_core.md R362 to R376).
-/

namespace Sys2Proof.Machine
open Word

/-- The code of a site state (R364). -/
def SState.code : SState → Nat
  | .healthy => 0
  | .spare => 1
  | .mappedOut => 2
  | .suspect => 3
  | .frozen => 4
  | .migrating => 5
  | .retained => 6
  | .gated => 7

/-- The state with a code below 4, as the record has it (R13). -/
def SState.ofCode : Nat → SState
  | 0 => .healthy
  | 1 => .spare
  | 3 => .suspect
  | _ => .mappedOut

/-- The code of a power state (R373). -/
def PState.code : PState → Nat
  | .active => 0
  | .quiescing => 1
  | .quiesced => 2
  | .saving => 3
  | .saved => 4
  | .retained => 5
  | .gated => 6
  | .waking => 7

/-- The code of a barrier state (R375). -/
def BState.code : BState → Nat
  | .idle => 0
  | .armed => 1
  | .counting => 2
  | .released => 3

def BState.ofCode : Nat → BState
  | 0 => .idle
  | 1 => .armed
  | 2 => .counting
  | _ => .released

namespace Dev

/-! ### Freezing (R364 to R366) -/

/-- A freeze trigger, FREEZE or MAP_OUT at a site (R364): a working site freezes, a spare is mapped out, and in RETAINED and GATED
it is refused with CMDST 2 (R374). -/
def freezeSite (d : Dev) (s : Nat) : Dev :=
  let x := d.site s
  match x.state with
  | .healthy => d.setSite s { x with state := .frozen }
  | .suspect => d.setSite s { x with state := .frozen }
  | .spare => d.setSite s { x with state := .mappedOut }
  | .retained | .gated => d.setSite s { x with cmdst := 2 }
  | _ => d

/-- The PC of a group's lowest declared stream (R370). -/
def lowestPc (g : Group) : Word :=
  match engines.find? (fun e => (g.stream e).declared) with
  | some e => (g.stream e).pc
  | none => 0

/-- The notice of a freeze (R370): the group is not held. -/
def freezeNotice (d : Dev) (key core step : Nat) (g : Group) (addr : Word) : Dev :=
  d.emitRecord (ctxOf key)
    { cause := 0x31, group := idxOf key, lcore := core, pc := lowestPc g, addr := addr, step := BitVec.ofNat 64 step }

/-- A freeze trigger at a control core (R372): its group ends with a notice, the mailboxes empty, and it tests itself. The
notice's address field names a site, and a control core has none: a free value (log 16). -/
def freezeControl (d : Dev) (core : Nat) : Dev :=
  let d := (d.core core).slots.foldl (fun d e =>
    let g := d.group e.2
    let (w, d) := d.free
    (d.endGroup e.2).freezeNotice e.2 core 2 g w) d
  let d := { d with q250 := {}, q251 := {} }
  d.setCore core { frozen := true }

/-- A freeze trigger at a logical or control core (R365); a number from 256 on names physical site `core - 256`, and so a SPARE too. -/
def freezeCore (d : Dev) (core : Nat) : Dev :=
  if 256 ≤ core then (if core < 400 then d.freezeSite (core - 256) else d)
  else if core = 0xF0 || core = 0xF1 then (if (d.core core).frozen then d else d.freezeControl core)
  else if core < 128 && !d.isAbsent core then d.freezeSite (d.siteOf core)
  else d

/-- The command FREEZE of a site (R364): CMDST 2 where it is refused. -/
def freezeRefused (d : Dev) (c s : Nat) : Bool :=
  let st := (d.site s).state
  st == .mappedOut || st == .frozen || st == .migrating || (d.cluster c).power != .active

def siteFreeze (d : Dev) (c i : Nat) : Dev :=
  let s := 9 * c + i
  if d.freezeRefused c s then d.setSite s { d.site s with cmdst := 2 }
  else (d.setSite s { d.site s with cmdst := 0 }).freezeSite s

/-- The command CLEAR of a site (R364). -/
def siteClear (d : Dev) (c i : Nat) : Dev :=
  let s := 9 * c + i
  let x := d.site s
  if x.state != .suspect || (d.cluster c).power != .active then d.setSite s { x with cmdst := 2 }
  else d.setSite s { x with state := .healthy, corr := 0, cmdst := 0 }

/-- A HEALTHY site whose CORR has reached THR becomes SUSPECT (R363, R364). -/
def suspectCheck (d : Dev) (s : Nat) : Dev :=
  let x := d.site s
  if x.state = .healthy && (d.cluster (s / 9)).errthr ≤ x.corr then d.setSite s { x with state := .suspect } else d

/-- CLU_ERRTHR written (R363). -/
def errthrWrite (d : Dev) (c v : Nat) : Dev :=
  let t := v % 2 ^ 16
  let d := d.setCluster c { d.cluster c with errthr := if t = 0 then 1 else t }
  (sitesOf c).foldl suspectCheck d

/-- A corrected soft error (R364, R388): a site without clock has none. -/
def correctedError (d : Dev) (s : Nat) : Dev :=
  let x := d.site s
  if x.state = .mappedOut || x.state = .retained || x.state = .gated then d
  else
    let d := d.setSite s { x with corr := min 0xFFFF (x.corr + 1) }
    let d := { d with
      counters := Map.upd {} d.counters s (bump d.time · 43 1), lifetime := { d.lifetime with corr := min 0xFFFF (d.lifetime.corr + 1) } }
    d.suspectCheck s

/-- An uncorrectable soft error counted (R388, R396): counter 44 for a clean copy, 45 for a dirty copy or a row. -/
def countUncorrectable (d : Dev) (s i : Nat) : Dev :=
  let d := { d with lifetime := { d.lifetime with uncorr := min 0xFFFF (d.lifetime.uncorr + 1) } }
  if s < 144 then { d with counters := Map.upd {} d.counters s (bump d.time · i 1) } else d

/-- A clean copy of a line in the L1 data cache of a core discarded (R177). -/
def dropCopy (d : Dev) (core line : Nat) : Dev :=
  let c := d.core core
  if c.l1.any (fun x => x.line == line) then d.setCore core { c with l1 := c.l1.filter (fun x => x.line != line) } else d

/-- An uncorrectable soft error (R51, R63, R177, R179, R365): a dirty copy or a row is poisoned, a clean copy is discarded, and an
error in control state freezes the site. One in a recipe entry or in a row's tag goes with the tables to the spare, and a replay that
needs it faults, until RCPDEF or RCPSET writes the entry anew (DESIGN CHOICE, log 85). -/
def uncorrectable (d : Dev) (s : Nat) : SoftError → Dev
  | .memoryLine line dirty =>
    if dirty then (d.setLinePoison line true).countUncorrectable s 45 else (d.dropCopy (d.site s).lcore line).countUncorrectable s 44
  | .stashLine key line =>
    match Map.find (d.group key).stash line with
    | none => d
    | some e =>
      if e.dirty then (d.setLinePoison e.phys true).countUncorrectable s 45
      else (d.setGroup key { d.group key with stash := Map.del (d.group key).stash line }).countUncorrectable s 44
  | .row key r =>
    let g := d.group key
    if g.core = 0xFF || g.rowsN ≤ r || isDropped (Map.get {} g.rows r) then d
    else
      let rows := Map.upd {} g.rows r (fun (x : Row) => { x with p := true })
      (d.setGroup key { g with rows := rows }).countUncorrectable s 45
  | .tagTable key r =>
    let g := d.group key
    if g.core = 0xFF then d
    else if (RowTag.id? (Map.get {} g.rows r).tag).isNone then d.freezeCore g.core
    else (d.setGroup key { g with rows := Map.upd {} g.rows r (fun (x : Row) => { x with bad := true }) }).freezeCore g.core
  | .recipeTable key id =>
    let g := d.group key
    if g.core = 0xFF then d
    else if g.recipesN ≤ id then d.freezeCore g.core
    else (d.setGroup key { g with recipes := Map.upd {} g.recipes id (fun (x : Recipe) => { x with bad := true }) }).freezeCore g.core
  | .control core => d.freezeCore core

/-- Whether an engine of a core has had a stream for 2^20 cycles, of a group or of the service mode, and has issued nothing in them (R365);
whether one of its streams is ready, the schedule asks (`engineReady`). -/
def stalled (d : Dev) (core : Nat) (e : Engine) : Bool :=
  let c := d.core core
  let has (g : Group) : Bool :=
    g.state == .running && (g.stream e).declared && !(g.stream e).retired && g.runSince + 2 ^ 20 ≤ d.time
  let service := c.service && e == .S && !c.svc.retired && c.svc.waitSince + 2 ^ 20 ≤ d.time
  (c.slots.any (fun x => has (d.group x.2)) || service) && Map.get 0 c.engAt e.num + 2 ^ 20 ≤ d.time + 1

/-- Sites that froze begin their migration in the next cycle (R364, R371): in ascending order each takes the cluster's spare,
if none has it. A core whose service engine has halted freezes (R365). -/
def beginMigrations (d : Dev) : Dev :=
  let halted := Map.keys (d.cores.filter (fun e => e.2.halted && !e.2.frozen))
  let frozen := Map.keys (d.sites.filter (fun e => e.2.state == .frozen))
  let begin_ (d : Dev) (s : Nat) : Dev :=
    let taken := (sitesOf (s / 9)).map (fun x => if (d.site x).state == .migrating then (d.site x).dest else 255)
    let spare := ((sitesOf (s / 9)).find? (fun x => (d.site x).state == .spare && !taken.contains x)).getD 255
    d.setSite s { d.site s with state := .migrating, dest := spare }
  let d := { d with cores := Map.mapV (fun (c : Core) => if c.halted then { c with halted := false } else c) d.cores }
  halted.foldl freezeCore (frozen.foldl begin_ d)

/-! ### Migration (R367 to R370) -/

/-- A stream moved to the spare: hoist guards gone, the yield over, the event latch at 1, its operation as after a pre-emption
(R164, R171, R270, R272, R286, R366). -/
def movedStream (x : Stream) : Stream :=
  Dev.wokenStream { x with hoist := [], decoded := [], yieldUntil := 0, op := x.op.map Dev.restartOp, load := x.load.map Dev.restartOp }

/-- A group moved to the spare (R366, R367): tagged rows dropped, stash entries and guards gone. -/
def movedGroup (g : Group) (now : Nat) : Group :=
  let g := dropTagged g now
  { g with
    stash := [], streamS := movedStream g.streamS, streamV := movedStream g.streamV,
    streamM := movedStream g.streamM, streamX := movedStream g.streamX }

/-- The service entry of a moved core made again, with the registers as they stood at entry (R366). -/
def reenter (d : Dev) (n : Nat) : Dev :=
  let c := d.core n
  if !c.service then d.setCore n { c with tlb := [] }
  else
    let (vec, wm, scr, fl) := c.atEntry
    d.setCore n { c with
      tlb := [], svec := vec, svcwm := wm, sscr := scr, svflags := fl, held := true, nest := 0, sepcWritten := false,
      sepc := c.entrySepc, sstep := c.entrySstep,
      svc := { c.svc with pc := vec, retired := false, loops := [], pend := none, skip := none, op := none, hoist := [], decoded := [] } }

/-- Work pinned to a logical core that has become ABSENT ends (R369). -/
def endPinned (d : Dev) (n : Nat) : Dev :=
  (Map.keys (d.groups.filter (fun e => e.2.pin == n))).foldl (fun d k =>
    if (d.group k).placed.isNone then d.withdraw k else d.endGroup k) d

/-- A logical core becomes ABSENT (R369): its groups are saved for placement elsewhere, or end where they are pinned to it. -/
def makeAbsent (d : Dev) (n site : Nat) : Dev :=
  let keys := (d.core n).slots.map (·.2)
  let was := keys.map (fun k => (k, d.group k))
  let d := d.leaveService n
  let d := keys.foldl (fun d k =>
    if (d.ctx (ctxOf k)).state == .killed then d.removeGroup k
    else if (d.group k).pin = n then d
    else d.suspend k) d
  let d := d.endPinned n
  let d := { d with lcores := Map.set d.lcores n 255 }
  let d := d.setCore n { d.core n with pending := [], tlb := [], slots := [], credits := [], readySince := [] }
  was.foldl (fun d e =>
    if (d.ctx (ctxOf e.1)).state == .killed then d
    else d.freezeNotice e.1 n (if e.2.pin = n then 2 else 1) e.2 (BitVec.ofNat 64 site)) d

/-- A site's logical number handed on (R364, R367): to a spare, or to none. An access that has not been performed translates again on the
spare (R326, R366). -/
def handOn (d : Dev) (s spare : Nat) : Dev :=
  let n := (d.site s).lcore
  let d := d.setSite s { d.site s with state := .mappedOut, lcore := 0xFF, dest := 255 }
  if 128 ≤ n then d
  else if spare < 144 && (d.site spare).state = .spare then
    let keys := (d.core n).slots.map (·.2)
    let d := keys.foldl (fun d k => d.setGroup k (movedGroup (d.group k) d.time)) d
    let d := { d with waits := d.waits.filter (fun w => d.coreOfWait w.by_ != some n) }
    let d := (d.setSite spare { d.site spare with state := .healthy, lcore := n }).reenter n
    let d := { d with lcores := Map.set d.lcores n spare }
    keys.foldl (fun d k =>
      if (d.ctx (ctxOf k)).state == .killed then d else d.freezeNotice k n 0 (d.group k) (BitVec.ofNat 64 s)) d
  else d.makeAbsent n s

/-- MIGRATION_COMPLETE (R367): a site that is FROZEN or MIGRATING becomes MAPPED-OUT. -/
def migrationComplete (d : Dev) (s : Nat) : Dev :=
  let x := d.site s
  if x.state = .migrating then d.handOn s x.dest
  else if x.state = .frozen then
    let d := d.beginMigrations
    d.handOn s (d.site s).dest
  else d

/-- Logical cores that are ABSENT (R12). -/
def absentCores (d : Dev) : Nat := ((List.range 128).filter d.isAbsent).length

/-- Clusters that still hold a SPARE site (R12): those with a site whose state is SPARE now. Whether a cluster that is RETAINED or
GATED, its spare kept as PREV, still counts is not said; it does not count (DESIGN CHOICE, log 85). -/
def sparesLeft (d : Dev) : Nat := ((List.range 16).filter (fun c => (sitesOf c).any (fun s => (d.site s).state == .spare))).length

/-! ### Cluster power (R373 to R376) -/

/-- The groups resident in a cluster (R373). -/
def clusterGroups (d : Dev) (c : Nat) : List Nat :=
  ((List.range 8).map (fun i => (d.core (8 * c + i)).slots.map (·.2))).flatten

/-- Resident groups of a cluster pre-empted, but for those of a core in service mode or of a frozen site (R371). -/
def quiesceGroups (d : Dev) (c : Nat) : Dev :=
  ((d.clusterGroups c).filter (fun k => !d.inService k && !d.onFrozen k)).foldl suspend d

/-- The status of a power command. -/
def pwrStatus (d : Dev) (c st : Nat) : Dev := d.setCluster c { d.cluster c with pwrCmdst := st }

/-- A cluster enters a power state; the time of the transition is noted (R373). -/
def pwrEnter (d : Dev) (c : Nat) (p : PState) : Dev :=
  let x := d.cluster c
  d.setCluster c { x with power := p, ctime := (d.time - x.since) % 2 ^ 32, since := d.time }

/-- A power command or wake accepted: CMDST 0, and the transition begins. -/
def pwrAccept (d : Dev) (c : Nat) (p : PState) : Dev :=
  d.setCluster c { d.cluster c with power := p, pwrCmdst := 0, since := d.time }

/-- The address of the retention record (R375). -/
def recordBase (d : Dev) (c : Nat) : Nat := (d.cluster c).rbase * 4096

/-- Sites stop (R364). -/
def retainSites (d : Dev) (c : Nat) : Dev :=
  (sitesOf c).foldl (fun d s =>
    let x := d.site s
    if x.state = .healthy || x.state = .spare || x.state = .suspect then d.setSite s { x with state := .retained, prev := x.state }
    else d) d

/-- The rail goes (R364, R374): sites GATED, the service registers of the cores lost. -/
def gateSites (d : Dev) (c : Nat) : Dev :=
  let d := (sitesOf c).foldl (fun d s =>
    if (d.site s).state = .retained then d.setSite s { d.site s with state := .gated } else d) d
  (List.range 8).foldl (fun d i => d.setCore (8 * c + i) {}) d

/-- ABORT, and a wake of a cluster that is not yet off (R374). -/
def pwrBack (d : Dev) (c : Nat) : Dev :=
  let p := (d.cluster c).power
  if p = .quiescing || p = .quiesced || p = .saved then (d.pwrAccept c .active)
  else if p = .saving then d.setCluster c { d.cluster c with abortWhenSaved := true, pwrCmdst := 0 }
  else d.pwrStatus c 2

/-- The command with a code (R373, R374). -/
def pwrCode (d : Dev) (c code : Nat) : Dev :=
  let p := (d.cluster c).power
  match code with
  | 1 => if p = .active then (d.pwrAccept c .quiescing).quiesceGroups c else d.pwrStatus c 2
  | 2 =>
    if p != .quiesced then d.pwrStatus c 2
    else if (d.cluster c).rbase = 0 || 0xC000000000 < d.recordBase c + 0x240 then d.pwrStatus c 4
    else d.pwrAccept c .saving
  | 3 => if p = .saved then ((d.pwrAccept c .saved).pwrEnter c .retained).retainSites c else d.pwrStatus c 2
  | 4 => if p = .retained then ((d.pwrAccept c .retained).pwrEnter c .gated).gateSites c else d.pwrStatus c 2
  | 5 => d.pwrBack c
  | _ => d.pwrStatus c 4

/-- PWR_CWAKE written (R374). -/
def pwrWake (d : Dev) (c : Nat) : Dev :=
  let p := (d.cluster c).power
  if p = .retained then (d.pwrAccept c .waking).setCluster c { (d.pwrAccept c .waking).cluster c with wcause := 1 }
  else if p = .gated then (d.pwrAccept c .waking).setCluster c { (d.pwrAccept c .waking).cluster c with wcause := 2 }
  else d.pwrBack c

/-- Whether a migration runs in a cluster (R371). -/
def migrates (d : Dev) (c : Nat) : Bool :=
  (sitesOf c).any (fun s => (d.site s).state == .frozen || (d.site s).state == .migrating)

/-- A power command by its code, or a wake as code 16 (R373). -/
def pwrDo (d : Dev) (c code : Nat) : Dev := if code = 16 then d.pwrWake c else d.pwrCode c code

/-- A command or a wake given to a cluster (R373): refused from its own cores, and ignored while BUSY; BUSY too is a command that waits
for the migrations of the cluster (R371). -/
def pwrCommand (d : Dev) (c : Nat) (own : Bool) (code : Nat) : Dev :=
  let x := d.cluster c
  if x.power = .waking || x.pwrNext.isSome then d
  else if own then d.pwrStatus c 2
  else if d.migrates c then d.setCluster c { x with pwrNext := some code }
  else d.pwrDo c code

/-- A power command that has waited for migrations is done once there is none (R371). -/
def pwrResume (d : Dev) (c : Nat) : Dev :=
  let x := d.cluster c
  match x.pwrNext with
  | none => d
  | some code => if d.migrates c then d else (d.setCluster c { x with pwrNext := none }).pwrDo c code

/-- CLUSTER_QUIESCED (R374). -/
def quiesced (d : Dev) (c : Nat) : Dev :=
  if (d.cluster c).power != .quiescing || d.migrates c then d
  else
    let d := d.quiesceGroups c
    if (d.clusterGroups c).isEmpty && (d.cluster c).sessions.isEmpty then d.pwrEnter c .quiesced else d

/-- A barrier as the retention record holds it (R375). -/
def barrierWord (b : Barrier) : Nat := b.state.code + b.own * 2 ^ 8 + b.tgt * 2 ^ 16 + b.rem * 2 ^ 32 + b.phase * 2 ^ 48

/-- The retention record (R375). -/
def retentionRecord (d : Dev) (c : Nat) : List Byte :=
  let x := d.cluster c
  let head := toBytes 4 0x52544E43 ++ toBytes 4 c ++ toBytes 8 x.lease ++ toBytes 8 x.errthr
    ++ (sitesOf c).map (fun s => BitVec.ofNat 8 (d.site s).state.code) ++ toBytes 27 0
  let bars := ((List.range 64).map (fun b => toBytes 8 (barrierWord (Map.get {} x.barriers b)))).flatten
  head ++ toBytes 4 (crc32c (head ++ bars) 0) ++ bars

/-- CLUSTER_SAVE_DONE (R374): the record is written, and the caches of translations are empty. -/
def saveDone (d : Dev) (c : Nat) : Dev :=
  let x := d.cluster c
  if x.power != .saving || d.migrates c then d
  else
    let d := d.storeBytes (d.recordBase c) (d.retentionRecord c) false
    let d := (List.range 8).foldl (fun d i => d.setCore (8 * c + i) { d.core (8 * c + i) with tlb := [] }) d
    let d := d.setCluster c { d.cluster c with tlb2 := [], walks := [], abortWhenSaved := false }
    d.pwrEnter c (if x.abortWhenSaved then .active else .saved)

/-- A barrier whose owner is FREE now becomes IDLE, P kept (R375). -/
def orphanBarriers (d : Dev) (c : Nat) : Dev :=
  let off (b : Barrier) : Barrier := if b.state != .idle && (d.ctx b.own).state == .free then { phase := b.phase } else b
  d.setCluster c { d.cluster c with barriers := Map.mapV off (d.cluster c).barriers }

/-- The state of a cluster restored from its record (R375); `bytes` are the site bytes of the configuration record. -/
def restoreCluster (d : Dev) (c : Nat) (bytes : List Nat) : Dev :=
  let a := d.recordBase c
  let bs := d.lds a 0x240
  let at_ (o n : Nat) : Nat := ofBytes ((bs.drop o).take n)
  let x := d.cluster c
  let ok := at_ 0 4 = 0x52544E43 && at_ 4 4 = c && at_ 0x3C 4 = crc32c (bs.take 0x3C ++ bs.drop 0x40) 0
  let bar (i : Nat) : Nat × Barrier :=
    let w := at_ (0x40 + 8 * i) 8
    (i, { state := BState.ofCode (fld w 0 2), own := fld w 8 6, tgt := fld w 16 16, rem := fld w 32 16, phase := fld w 48 16 })
  let back (d : Dev) (i : Nat) : Dev :=
    let s := 9 * c + i
    let y := d.site s
    let code := if ok then at_ (0x18 + i) 1 else bytes.getD s 0
    if y.state != .gated then d
    else d.setSite s { y with state := if code = 2 || 3 < code then y.prev else SState.ofCode code }
  let d := if ok then
      d.setCluster c { x with lease := at_ 8 2, errthr := at_ 0x10 2, barriers := ((List.range 64).map bar).filter (fun b => b.2 != {}) }
    else d.setCluster c { x with lease := 0x100, errthr := 64, barriers := [], wcause := 3 }
  (List.range 9).foldl back d

/-- CLUSTER_WAKE_DONE (R364, R374, R375): `failed` lists the sites of the cluster that failed their self-test. -/
def wakeDone (d : Dev) (c : Nat) (failed : List Nat) (bytes : List Nat) : Dev :=
  let x := d.cluster c
  if x.power != .waking then d
  else
    let d := if x.wcause = 2 then d.restoreCluster c bytes else d
    let d := (sitesOf c).foldl (fun d s =>
      let y := d.site s
      if y.state = .retained then d.setSite s { y with state := y.prev } else d) d
    let d := d.orphanBarriers c
    let bad := (sitesOf c).filter (fun s => failed.contains (s % 9) && (d.site s).state != .mappedOut)
    let d := (bad.filter (fun s => (d.site s).state == .spare)).foldl freezeSite d
    let d := (bad.filter (fun s => (d.site s).state != .mappedOut)).foldl (fun d s =>
      d.handOn s (((sitesOf c).find? (fun y => (d.site y).state == .spare && !bad.contains y)).getD 255)) d
    d.pwrEnter c .active

end Dev

/-! ### Events -/

/-- A change that may leave a logical core ABSENT: the module is then DEGRADED (R11, R369). -/
def withLoss (f : Dev → Dev) (s : State) : Host.Outcome State Fault Refusal :=
  let d := f s.dev
  let life := if s.mod.life = .ready && s.dev.absentCores < d.absentCores then .degraded else s.mod.life
  .next { s with mod := { s.mod with life := life }, dev := d }

/-- An event at site `i` of cluster `c`. -/
def onSite (c i : Nat) (f : Dev → Dev) (s : State) : Host.Outcome State Fault Refusal :=
  event (fun d => if c < 16 && i < 9 then f d else d) s

/-- An event at a cluster. -/
def onCluster (c : Nat) (f : Dev → Dev) (s : State) : Host.Outcome State Fault Refusal :=
  event (fun d => if c < 16 then f d else d) s

def execSiteFreeze (c i : Nat) (s : State) : Host.Outcome State Fault Refusal := onSite c i (·.siteFreeze c i) s

def execSiteClear (c i : Nat) (s : State) : Host.Outcome State Fault Refusal := onSite c i (·.siteClear c i) s

def execErrthrWrite (c v : Nat) (s : State) : Host.Outcome State Fault Refusal := onCluster c (·.errthrWrite c v) s

def execCorrectedSoftError (site : Nat) (s : State) : Host.Outcome State Fault Refusal :=
  event (fun d => if site < 144 then d.correctedError site else d) s

def execUncorrectableSoftError (site : Nat) (e : SoftError) (s : State) : Host.Outcome State Fault Refusal :=
  event (·.uncorrectable site e) s

def execCheckerError (core : Nat) (s : State) : Host.Outcome State Fault Refusal := event (·.freezeCore core) s

def execIssueStallLimit (core : Nat) (eng : Engine) (s : State) : Host.Outcome State Fault Refusal :=
  event (fun d => if d.stalled core eng then d.freezeCore core else d) s

def execMigrationComplete (site : Nat) (s : State) : Host.Outcome State Fault Refusal :=
  withLoss (fun d => if site < 144 then (d.migrationComplete site).pwrResume (site / 9) else d) s

def execPwrQuiesce (c : Nat) (own : Bool) (s : State) : Host.Outcome State Fault Refusal :=
  onCluster c (fun d => d.pwrCommand c own 1) s

def execPwrSave (c : Nat) (own : Bool) (s : State) : Host.Outcome State Fault Refusal :=
  onCluster c (fun d => d.pwrCommand c own 2) s

def execPwrClkoff (c : Nat) (own : Bool) (s : State) : Host.Outcome State Fault Refusal :=
  onCluster c (fun d => d.pwrCommand c own 3) s

def execPwrRailoff (c : Nat) (own : Bool) (s : State) : Host.Outcome State Fault Refusal :=
  onCluster c (fun d => d.pwrCommand c own 4) s

def execPwrAbort (c : Nat) (own : Bool) (s : State) : Host.Outcome State Fault Refusal :=
  onCluster c (fun d => d.pwrCommand c own 5) s

/-- A code outside 1 to 5 (R373). -/
def execPwrBadCommand (c : Nat) (own : Bool) (code : Nat) (s : State) : Host.Outcome State Fault Refusal :=
  onCluster c (fun d => if 1 ≤ code % 16 && code % 16 ≤ 5 then d else d.pwrCommand c own (code % 16)) s

def execPwrWake (c : Nat) (own : Bool) (s : State) : Host.Outcome State Fault Refusal :=
  onCluster c (fun d => d.pwrCommand c own 16) s

def execClusterQuiesced (c : Nat) (s : State) : Host.Outcome State Fault Refusal := onCluster c (·.quiesced c) s

def execClusterSaveDone (c : Nat) (s : State) : Host.Outcome State Fault Refusal := onCluster c (·.saveDone c) s

def execClusterWakeDone (c : Nat) (failed : List Nat) (s : State) : Host.Outcome State Fault Refusal :=
  withLoss (fun d => if c < 16 then d.wakeDone c failed s.mod.active.sites else d) s

end Sys2Proof.Machine
end

