-- ==== Sys2Proof/Machine/Expert.lean ====
section
/-!
DEFINITION. Class 0xA, expert residency (spec/15_expert.md R304, R306 to R312).
-/

namespace Sys2Proof.Machine
open Word WellFormed

/-! ### GATE (R307) -/

/-- Whether one candidate comes before another: value descending, lane ascending. -/
def gateBefore (a b : Nat × FVal) : Bool := FVal.lt b.2 a.2 || (!FVal.lt a.2 b.2 && a.1 ≤ b.1)

/-- The weights of the selected logits, as FP32 codes, with flags. -/
def gateWeights (xs : List FVal) : List Nat × Nat :=
  match xs with
  | [] => ([], 0)
  | .inf false :: _ =>
    let n := (xs.filter (· == .inf false)).length
    let r := rne f32 (.fin false 1 n)
    (xs.map (fun x => if x == .inf false then r.1 else 0), r.2)
  | .inf true :: _ =>
    let r := rne f32 (.fin false 1 xs.length)
    (xs.map (fun _ => r.1), r.2)
  | x0 :: _ =>
    let es := xs.map (fun x =>
      let dj := rneOp f32 (x.add x0.negate)
      let ej := match valF f32 dj.1 with
        | .fin s n d => rne f32 (expVal s n d)
        | .inf true => (0, 0)
        | v => rne f32 v
      (ej.1, dj.2 ||| ej.2))
    let s := es.tail.foldl (fun (a : Nat × Nat) e => let r := faddF f32 a.1 e.1; (r.1, a.2 ||| r.2)) ((es.headD (0, 0)).1, 0)
    let ws := es.map (fun e => fdivF f32 e.1 s.1)
    (ws.map (·.1), (es ++ ws).foldl (fun f e => f ||| e.2) s.2)

/-- The route words of a GATE, with flags and the lanes chosen. -/
def gateWords (t k base : Nat) (act : List Bool) (v : RowBits) : List Nat × Nat × List Nat :=
  let vals := (lanesOf (laneBits t) (laneCount t) v).map (valF (fmtOf t))
  let lanes := (((List.range (laneCount t)).zip vals).zip act).filterMap (fun e => if e.2 then some e.1 else none)
  let sel := ((lanes.filter (fun e => !e.2.isNan)).sortWith gateBefore).take k
  let w := gateWeights (sel.map (·.2))
  let nan := if lanes.any (fun e => e.2.isNan) then fNV else 0
  let words := (List.range k).map (fun j =>
    match sel[j]? with
    | some e => w.1.getD j 0 * 2 ^ 32 + (base + e.1) % 2 ^ 32
    | none => 0xFFFFFFFF)
  (words, w.2 ||| nan, sel.map (·.1))

namespace Dev

/-- GATE (R307). The words carry the poison of vA and of the mask, as R307 says. -/
def gateOp (d : Dev) (v : VField) (q km1 aB fA : Nat) : Res Dev := do
  let t ← d.vtype [1, 2] v.t
  trapIf (256 ≤ q) 4 d.cur.pc.toNat
  let f ← d.resolve q true false .instr
  trapIf (match f with
    | .pool n => (d.queue n).kind != 0 && (d.queue n).kind != 1
    | _ => true) 0x16 q
  let mp := d.maskP v
  let (x, d) ← d.src fA
  let base := (d.reg aB).v.toNat % 2 ^ 32
  let (ws, fl, sel) := gateWords t (km1 + 1) base (d.active v (laneCount t)) x.v
  let d ← d.pushN q f (ws.map (fun w => ⟨BitVec.ofNat 16384 w, mp || x.p⟩))
  pure ((d.raiseF 0 fl).trainPredictor (sel.map (fun i => (base + i) % 2 ^ 32)))

/-! ### ERES (R308) -/

/-- The identifier in a register: a poisoned one commits (R306). -/
def idOf (d : Dev) (fa : Nat) : Res Nat := if (d.reg fa).p then commitReg 0 else .ok ((d.reg fa).v.toNat % 2 ^ 32)

/-- The residency unit has served the stream that `cur` names at a copy (R299). -/
def atCopy (d : Dev) (id i : Nat) : Dev :=
  match d.findCopy id i with
  | some e => d.serve (copyUnit e)
  | none => d

/-- An operation of the stream on the copy that a register and an index name (R299). -/
def copyOp (d : Dev) (fa i : Nat) (r : Res Dev) : Res Dev := r.map (·.atCopy ((d.reg fa).v.toNat % 2 ^ 32) i)

/-- The open token queue of a context for a copy. -/
def tokenQueue (d : Dev) (c : Copy) (n : Nat) : Option Nat :=
  (c.queues.find? (fun e => e.2 == n && (d.queue e.1).state == .opened)).map (·.1)

/-- The status word of a tag entry (R308). -/
def copyStatus (d : Dev) (e : Nat) : Nat :=
  let c := d.copyAt e
  copyCode c + c.cls * 2 ^ 4 + min c.pins 0xFFFF * 2 ^ 16 + e * 2 ^ 32
    + (match d.tokenQueue c d.myCtx with
      | some q => q * 2 ^ 48 + 2 ^ 60
      | none => 0)

/-- ERES (R308). -/
def eresOp (d : Dev) (fd fa c form : Nat) : Res Dev := do
  let put (d : Dev) (x : Nat) : Dev := d.setReg fd ⟨BitVec.ofNat 64 x, false⟩
  if form = 2 then do
    let _ ← d.idOf fa
    let h := (d.reg fa).v.toNat
    let e := fld h 26 16
    pure (put d (if canonical h && d.inWindow (h % 2 ^ 54) && (Map.find d.res.copies e).isSome then d.copyStatus e else 0xF))
  else do
    let id ← d.idOf fa
    d.checkCopy id c
    let pol := (d.ctx d.myCtx).resPol
    if form = 1 && !flag pol 0 then pure (put d 0)
    else
      match d.takeEntry id c with
      | none => pure (put d (if form = 1 then 0 else 0xF))
      | some (e, d) => pure (put d (if form = 1 then fld pol 42 12 * 2 ^ 42 + e * 2 ^ 26 else d.copyStatus e))

/-! ### EDISP (R304, R309, R310) -/

/-- The estimate E of R304 in cycles for a copy; `none` is infinite. A fetch counts as wholly ahead until its event (log 32). -/
def estimate (d : Dev) (c : Copy) : Option Nat :=
  let ahead (plain : Bool) (before : Nat) : Nat :=
    sumOf (fun x => if x.2.state == .fetching && (legOf x.2 == 0) == plain && !(x.2.id == c.id && x.2.copy == c.copy)
      && x.2.since < before then x.2.size else 0) d.res.copies
  match c.state with
  | .faulted => none
  | .fetching =>
    let plain := legOf c = 0
    let rate := if plain then d.res.plainRate else d.res.lakeRate
    some ((ahead plain c.since + c.size + rate - 1) / rate)
  | _ => some ((ahead true (d.time + 1) + c.size + d.res.plainRate - 1) / d.res.plainRate)

/-- The target of a dispatch (R304) for the copy asked for, which need not have a tag entry: the entry of a substitute or `none` for
the copy itself, the weight, and OUT. -/
def chooseTarget (d : Dev) (c : Copy) (w : Nat) : Res (Option Nat × Nat × Nat) := do
  let pol := d.ctx d.myCtx
  let miss := fld pol.resPol 8 2
  if isResident c then pure (none, w, 0)
  else
    let late := match d.estimate c with
      | none => true
      | some n => pol.resBudget < n
    let sub : Option Nat :=
      if !c.sv || miss = 0 || (miss = 2 && !late) then none
      else (d.findCopy (c.id / 4096 * 4096 + c.subx) c.copy).filter (fun k => isResident (d.copyAt k))
    match sub with
    | some k => pure (some k, (fmulF f32 w c.sfac).1, 2)
    | none => do
      trapIf (c.state == .faulted) 0x18 c.id
      pure (none, w, 1)

/-- The lowest FREE pool queue of a context's reserved range, while it owns fewer open queues than MAXQ (R302, R309). -/
def freeTokenQueue (d : Dev) (n : Nat) : Option Nat :=
  let c := d.ctx n
  if c.maxq ≤ d.openQueues n then none
  else ((List.range (fld c.resTq 0 8)).map (fld c.resTq 52 12 + ·)).find? (fun q => q < 4096 && (d.queue q).state == .free)

/-- A token queue opened (R302). -/
def openToken (d : Dev) (n e q : Nat) : Dev :=
  let t := (d.ctx n).resTq
  let logd := fld t 8 4
  let d := d.setQueue q { d.queue q with
    kind := 3, logd := logd, wide := true, own := n, pctx := n, cctx := n,
    base := fld t 12 40 + (q - fld t 52 12) * 2 ^ logd * 2048 / 4096, state := .opened, entries := [], drop := 0, reserved := 0 }
  d.setCopy e { d.copyAt e with queues := Map.set (d.copyAt e).queues q n }

/-- The token stored with its route trailer, and the result word (R302, R309). -/
def dispatchTo (d : Dev) (fd k q w id out new : Nat) (row : RowData) (sa sb : Reg) : Dev :=
  let c := d.copyAt k
  let v := row.v.toNat % 2 ^ (8 * 2032) + (id + w * 2 ^ 32 + fld sb.v.toNat 16 48 * 2 ^ 64) * 2 ^ (8 * 2032)
  let d := d.putTail ⟨BitVec.ofNat 16384 v, row.p || sa.p || sb.p⟩ (.pool q)
  let d := d.setCopy k { c with last := d.time, cls := 2 }
  d.setReg fd ⟨BitVec.ofNat 64 (c.id * 2 ^ 32 + out * 2 ^ 14 + new * 2 ^ 12 + q), sb.p⟩

/-- EDISP with op = DISP (R309). -/
def edispOp (d : Dev) (fd fa fb c : Nat) : Res Dev := do
  let id ← d.idOf fa
  let sa := d.reg fa
  let sb := d.reg fb
  let b := sb.v.toNat
  let refused : Dev := d.setReg fd ⟨BitVec.ofNat 64 (3 * 2 ^ 14), sb.p⟩
  if id = 0xFFFFFFFF then pure refused
  else do
    d.checkCopy id c
    trapIf (fld b 11 5 != 0 || d.grp.rowsN ≤ fld b 0 11) 4 d.cur.pc.toNat
    let row ← d.readRow (fld b 0 11)
    let found : Option Nat := d.findCopy id c
    match found with
    | some e => if (d.copyAt e).drain then waitFor (.copy e) else pure ()
    | none => pure ()
    let d : Dev := match found with
      | some e => if (d.copyAt e).state = CopyState.evicting then d.cancelEvict e else d
      | none => d
    let asked : Copy := match found with
      | some e => d.copyAt e
      | none => copyOfRecord (d.recordBits id) id c
    let (sub, w, out) ← d.chooseTarget asked (fld sa.v.toNat 32 32)
    match sub.orElse (fun _ => (d.takeEntry id c).map (fun (x : Nat × Dev) => x.1)) with
    | none => pure refused
    | some k => do
      let d : Dev := if sub.isSome then d else
        let d : Dev := ((d.takeEntry id c).map (fun (x : Nat × Dev) => x.2)).getD d
        if out = 1 then d.demand k 0 else d
      let n := d.myCtx
      match d.tokenQueue (d.copyAt k) n with
      | none =>
        match d.freeTokenQueue n with
        | none => pure refused
        | some q => pure ((d.openToken n k q).dispatchTo fd k q w id out 1 row sa sb)
      | some q =>
        if d.roomOf (.pool q) = 0 then waitFor (.queue (4096 + q)) else pure (d.dispatchTo fd k q w id out 0 row sa sb)

/-- EDISP with op = CLOSE (R310). -/
def edispCloseOp (d : Dev) (fd fa : Nat) : Res Dev := do
  let id ← d.idOf fa
  d.checkCopy id 0
  let qs := (d.res.copies.filter (fun e => e.2.id / 4096 == id / 4096)).flatMap (fun e =>
    (e.2.queues.filter (fun q => q.2 == d.myCtx && (d.queue q.1).state == .opened)).map (·.1))
  pure ((qs.foldl closeToken d).setReg fd ⟨BitVec.ofNat 64 qs.length, false⟩)

/-! ### Pins, fetches, evictions, hints (R311, R312) -/

/-- EPIN (R311): the refusals in the order 2, 3, 4, 2, 1 (log 62). -/
def epinOp (d : Dev) (fd fa i : Nat) : Res Dev := do
  let id ← d.idOf fa
  d.checkCopy id i
  let st (d : Dev) (x : Nat) : Dev := d.setReg fd ⟨BitVec.ofNat 64 x, false⟩
  match d.takeEntry id i with
  | none => pure (st d 2)
  | some (e, d') =>
    let c := d'.copyAt e
    let n := d.myCtx
    let pins := (d.ctx n).pins
    if c.state = .faulted then pure (st d 3)
    else if c.pins = 65535 then pure (st d 4)
    else if (Map.find pins e).isNone && 256 ≤ pins.length then pure (st d 2)
    else if c.pins = 0 && 3072 < d'.pinnedFrames + framesOf c then pure (st d 1)
    else
      let d' := d'.setCopy e { c with pins := c.pins + 1 }
      let d' := d'.setCtx n { d'.ctx n with pins := Map.upd 0 pins e (· + 1) }
      pure (st (d'.demand e 1) 0)

/-- EUNPIN (R311). -/
def eunpinOp (d : Dev) (fd fa i : Nat) : Res Dev := do
  let id ← d.idOf fa
  d.checkCopy id i
  let st (d : Dev) (x : Nat) : Dev := d.setReg fd ⟨BitVec.ofNat 64 x, false⟩
  let n := d.myCtx
  match d.findCopy id i with
  | none => pure (st d 1)
  | some e =>
    match Map.find (d.ctx n).pins e with
    | none => pure (st d 1)
    | some k =>
      let c := d.copyAt e
      let pins := if k ≤ 1 then Map.del (d.ctx n).pins e else Map.set (d.ctx n).pins e (k - 1)
      let d := (d.setCtx n { d.ctx n with pins := pins }).setCopy e { c with pins := c.pins - 1 }
      pure (st d.retryWaits 0)

/-- EFETCH (R311). -/
def efetchOp (d : Dev) (fd fa i tier : Nat) : Res Dev := do
  let id ← d.idOf fa
  d.checkCopy id i
  let st (d : Dev) (x : Nat) : Dev := d.setReg fd ⟨BitVec.ofNat 64 x, false⟩
  match d.takeEntry id i with
  | none => pure (st d 2)
  | some (e, d') =>
    let c := d'.copyAt e
    if c.drain then pure (st (d'.demand e tier) 0)
    else if c.state = .faulted then (if c.refetch.isSome then pure (st d' 1) else pure (st (d'.fetchHome e tier) 0))
    else
      let c := if c.state = .evicting then { c with state := .resident } else c
      let already := if c.state = .fetching then tier ≤ c.target
        else c.inPond || (tier = 0 && (c.inLake || Copy.lakeHome c))
      pure (st (d'.demand e tier) (bit already))

/-- A FAULTED copy asked to go to its home state (R299): at once when R303 allows it, else it stays FAULTED until then. -/
def evictFaulted (d : Dev) (e : Nat) : Dev :=
  let d1 := d.setCopy e { d.copyAt e with refetch := none, wait := 0, toHome := true }
  if d.evictable (d.copyAt e) then (d1.drainStart e).evictComplete e else d1

/-- EEVICT (R311): to 0 LAKE, 1 HOME. -/
def eevictOp (d : Dev) (fd fa i to_ : Nat) : Res Dev := do
  let id ← d.idOf fa
  d.checkCopy id i
  let st (d : Dev) (x : Nat) : Dev := d.setReg fd ⟨BitVec.ofNat 64 x, false⟩
  match d.findCopy id i with
  | none => pure (st d 0)
  | some e =>
    let c := d.copyAt e
    if c.pins != 0 then pure (st d 1)
    else
      match c.state with
      | .fetching => pure (st d 2)
      | .evicting => pure (st (if to_ = 1 && c.inPond then d.setCopy e { c with toHome := true } else d) 0)
      | .faulted => pure (st (if to_ = 1 then d.evictFaulted e else d) 0)
      | .resident =>
        if c.inPond || (to_ = 1 && c.inLake) then pure (st (d.startEvict e (to_ = 1)) 0) else pure (st d 0)

/-- EPRED (R312). -/
def epredOp (d : Dev) (fa i tier : Nat) : Res Dev := do
  let id ← d.idOf fa
  d.checkCopy id i
  pure (d.prefetch id i tier 1)

end Dev

def execGate (h : Hdr) (v : VField) (q km1 aB fA : Nat) (s : State) : Host.Outcome State Fault Refusal :=
  stream h (·.gateOp v q km1 aB fA) s

def execEres (h : Hdr) (fd fa c form : Nat) (s : State) : Host.Outcome State Fault Refusal :=
  stream h (fun d => if form = 2 then d.eresOp fd fa c form else d.copyOp fa c (d.eresOp fd fa c form)) s

def execEdisp (h : Hdr) (fd fa fb c : Nat) (s : State) : Host.Outcome State Fault Refusal :=
  stream h (fun d => d.copyOp fa c (d.edispOp fd fa fb c)) s

def execEdispClose (h : Hdr) (fd fa : Nat) (s : State) : Host.Outcome State Fault Refusal := stream h (·.edispCloseOp fd fa) s

def execEpin (h : Hdr) (fd fa c : Nat) (s : State) : Host.Outcome State Fault Refusal :=
  stream h (fun d => d.copyOp fa c (d.epinOp fd fa c)) s

def execEunpin (h : Hdr) (fd fa c : Nat) (s : State) : Host.Outcome State Fault Refusal :=
  stream h (fun d => d.copyOp fa c (d.eunpinOp fd fa c)) s

def execEfetch (h : Hdr) (fd fa c tier : Nat) (s : State) : Host.Outcome State Fault Refusal :=
  stream h (fun d => d.copyOp fa c (d.efetchOp fd fa c tier)) s

def execEevict (h : Hdr) (fd fa c tgt : Nat) (s : State) : Host.Outcome State Fault Refusal :=
  stream h (fun d => d.copyOp fa c (d.eevictOp fd fa c tgt)) s

def execEpred (h : Hdr) (fa c tier : Nat) (s : State) : Host.Outcome State Fault Refusal :=
  stream h (fun d => d.copyOp fa c (d.epredOp fa c tier)) s

end Sys2Proof.Machine
end

