-- ==== Sys2Proof/Machine/Replay.lean ====
section
/-!
DEFINITION. The replay of a dropped row as an event (spec/03_register.md R62 to R64): a lent granule is reclaimed first.
-/

namespace Sys2Proof.Machine
open Word

namespace Dev

/-- A group for which no granule can be reclaimed is pre-empted (R63); outside service mode, where nothing is (R200). -/
def preemptReader (d : Dev) (key : Nat) : Dev := if (d.core (d.group key).core).service then d else d.suspend key

/-- Whether a stream of a group waits for the granule of a row that it writes whole (R62). -/
def waitsGranule (g : Group) (r : Nat) : Bool := engines.any (fun e => (g.stream e).wait == .granule r)

/-- RECIPE_REPLAY: the core replays a row that a stream waits for, or gets back the granule of a row that is to be written whole
(R63, R64). Without a granule for it, the reading group is pre-empted; a replay that fails faults its waiters, and their record names
the row that they wait for. -/
def replayEvent (d : Dev) (key r : Nat) : Dev :=
  let g := d.group key
  let ws := replayWaiters g r
  if g.state != .running || !d.siteRuns g.core || !isDropped (rowIn g r) then d
  else if waitsGranule g r then
    match d.reclaim key [r / 32] (r / 32) with
    | some d => d
    | none => d.preemptReader key
  else if ws.isEmpty then d
  else
    match d.replayRows key [] [r] with
    | .ok d => d
    | .error (.wait _) => d.preemptReader key
    | .error (.trap _) => ws.foldl (fun d e => d.replayFault key r e) d

end Dev

def execRecipeReplay (g r : Nat) (s : State) : Host.Outcome State Fault Refusal :=
  event (·.replayEvent g r) s

end Sys2Proof.Machine
end

