-- ==== Sys2Proof/Machine/LongOps.lean ====
section
/-!
DEFINITION. Instructions that have issued and not retired: their results written at retirement, their tokens and their end
(spec/02_word.md R22, spec/03_register.md R49, R50, R61, spec/13_barrier.md R261).
-/

namespace Sys2Proof.Machine
open Word

namespace Dev

/-- The operation in progress of a stream of a group that is placed on a site that runs, where it takes its next step: while the group is
RUNNING, and once after a fault or a stop has held it (R198, R393). -/
def opOf (d : Dev) (key : Nat) (e : Engine) : Option LongOp :=
  match Map.find d.groups key with
  | none => none
  | some g =>
    if (g.state = .running || (g.state = .held && g.toStep.contains e)) && g.core != 0xFF && d.siteRuns g.core then (g.stream e).op
    else none

/-- The operation of a stream replaced. -/
def setOp (d : Dev) (key : Nat) (e : Engine) (o : LongOp) : Dev :=
  let g := d.group key
  d.setGroup key (g.setStream e { g.stream e with op := some o })

/-- `cur` at a step of the operation in progress of a stream. -/
def curStep (d : Dev) (key : Nat) (e : Engine) : Dev :=
  let d := d.curOf key e
  match ((d.group key).stream e).op with
  | some o => { d with cur := { d.cur with step := true, pc := o.pc, group := o.pc, word := o.word } }
  | none => { d with cur := { d.cur with step := true } }

/-- `cur` at the MBCW in progress of a group. -/
def curOfLoad (d : Dev) (key : Nat) : Dev :=
  let d := d.curOf key .M
  match (d.group key).streamM.load with
  | some o => { d with cur := { d.cur with load := true, pc := o.pc, group := o.pc, word := o.word } }
  | none => { d with cur := { d.cur with load := true } }

/-- A step of an operation that is over: a held group has no more of that stream to wait for (R198), and the step has no access that
waits. -/
def stepOver (d : Dev) (key : Nat) (e : Engine) : Dev :=
  let d := d.endWaits (.op key e)
  match Map.find d.groups key with
  | some g => if g.state = .held && g.toStep.contains e then d.setGroup key { g with toStep := g.toStep.filter (· != e) } else d
  | none => d

/-- The word that PT fills of an instruction. -/
def ptOf (i : Instr) : Nat := (i.hdr?.map (·.pt)).getD 0

/-- The retirement of an operation (R22, R261): its stream is free for the next, and its token goes out. -/
def finishOp (d : Dev) (key : Nat) (e : Engine) (o : LongOp) : Dev :=
  let g := d.group key
  let d := d.setGroup key (g.setStream e { g.stream e with op := none })
  ({ d with cur := { d.cur with key := key, eng := e, svc := false, core := g.core } }).fillToken (ptOf o.ins)

/-- The dropped rows that lose their tag when rows are written (R61). -/
def losers (g : Group) (full : Bool) (rs : List Nat) : List Nat :=
  ((rs.flatMap (fun r => (if full then [] else [r]) ++ dependents g r)).eraseDups).filter (fun x => isDropped (rowIn g x))

/-- Rows made ready to be written by an operation in progress (R61 to R63): dropped rows that lose their tag are replayed first, and a
lent granule with a row that is written comes back. -/
def readyRows (d : Dev) (key : Nat) (full : Bool) (rs : List Nat) : Res Dev :=
  let g := d.group key
  let lose := losers g full rs
  let keep := replayGranules g (rs ++ lose)
  match d.reclaimAll key keep ((rs.map (· / 32)).eraseDups) with
  | none => waitFor (.granule (rs.headD 0))
  | some d => d.replayRows key keep lose

/-- What comes of a step of an operation in progress that reads or writes rows: a group without a granule for a replay is pre-empted,
and a replay that fails faults the stream at the step, with nothing of it done (R63). -/
def afterReplays (d : Dev) (key : Nat) (e : Engine) (o : LongOp) : Res Dev → Dev
  | .ok d => d
  | .error (.wait _) => d.preemptReader key
  | .error (.trap t) => (d.curStep key e).takeFault { t with step := o.step, pc := some o.pc, word := some o.word }

/-- A row written at retirement or at a slab (R49, R51, R163); it and the rows that read it lose their tags (R61). -/
def retireRow (d : Dev) (key r : Nat) (v : RowBits) (p full : Bool) (sat : Bool := false) : Dev :=
  let g := d.group key
  let clear (m : Map Row) (x : Nat) : Map Row := Map.upd {} m x (fun y => { y with tag := .live })
  let rows := (r :: dependents g r).foldl clear g.rows
  d.setGroup key { g with rows := Map.upd {} rows r (fun x => { x with v := v, p := if full then p else p || x.p, sat := sat, dirty := true }) }

/-- The waits that a write of a row makes its instruction keep before it issues (R61, R63). -/
def rowWritable (d : Dev) (r : Nat) (full : Bool) : Res Unit := do
  d.inBounds r
  let _ ← d.clearTags r full
  pure ()

/-- Whether a stream of another group of the core, or of this one, runs an operation of a kind. -/
def unitBusy (d : Dev) (e : Engine) (p : Instr → Bool) : Bool :=
  (d.core d.cur.core).slots.any (fun s =>
    (d.group s.2).state == .running && (((d.group s.2).stream e).op.map (fun o => p o.ins)).getD false)

/-- An operation begun by the stream that `cur` names. -/
def begin (d : Dev) (o : LongOp) : Dev := d.setStm { d.stm with op := some { o with word := d.cur.word, pc := d.cur.pc } }

end Dev
end Sys2Proof.Machine
end

