-- ==== Sys2Proof/Machine/Links.lean ====
section
/-!
DEFINITION. The links to host and peers (spec/20_link.md R377 to R385), and requests of other agents to Lake lines
(spec/08_line.md R179, R191).
-/

namespace Sys2Proof.Machine
open Word

/-- The code of a port state (R382). -/
def LState.code : LState → Nat
  | .down => 0
  | .training => 1
  | .up => 2
  | .degraded => 3
  | .fenced => 4
  | .recovering => 5

/-- Whether a port carries accesses. -/
def LState.carries : LState → Bool
  | .up => true
  | .degraded => true
  | _ => false

/-- The full width of a port (R377). -/
def fullWidth (p : Nat) : Nat := if p = 0 then 16 else 8

/-- Whether a rate, a width and a flit size are supported at a port (R377). -/
def linkSupported (p rate width : Nat) (flit68 allow68 : Bool) : Bool :=
  (rate == 64 || rate == 32 || rate == 16) && (width == 8 || width == 4 || (width == 16 && p == 0))
    && (!flit68 || (p == 0 && rate != 64 && allow68))

namespace Dev

/-- A trained port: UP at full width and 64 GT/s, else DEGRADED (R383). -/
def trained (d : Dev) (p rate width : Nat) (flit68 : Bool) : Dev :=
  let l := d.link p
  let up := rate = 64 && width = fullWidth p
  d.setLink p { l with
    state := if up then .up else .degraded, rate := rate, width := width, flit := bit flit68, everUp := l.everUp || up }

/-- TRAINING_DONE (R383); what R377 does not list is refused, and the port goes on training. -/
def trainingDone (d : Dev) (p rate width : Nat) (flit68 : Bool) : Dev :=
  let l := d.link p
  if l.state = .training && linkSupported p rate width flit68 l.allow68 then d.trained p rate width flit68 else d

/-- The link retrains in RECOVERING (R383). -/
def recoveryDone (d : Dev) (p rate width : Nat) : Dev :=
  let l := d.link p
  if l.state = .recovering && linkSupported p rate width (l.flit == 1) l.allow68 then d.trained p rate width (l.flit == 1) else d

/-- A port state changed from given states. -/
def linkMove (d : Dev) (p : Nat) (from_ : List LState) (dst : LState) : Dev :=
  if from_.contains (d.link p).state then d.setLink p { d.link p with state := dst } else d

/-- The accesses that wait for a port. -/
def linkWaiters (d : Dev) (p : Nat) : List AccWait := d.waits.filter (·.port == some p)

/-- Whether an access that waits for a port has had no response (R385): it has still to be sent, or a line of the far side has not been
answered. A Lake line that the host has been asked to give back is no access of the far side: the fence itself ends that wait
(log 90). -/
def unanswered (w : AccWait) : Bool :=
  w.lines.isEmpty || w.lines.any (fun x => targetOf (64 * x) != .lake && !w.got.contains x)

/-- `cur` at what waits. -/
def curWaiting (d : Dev) : Waiter → Dev
  | .stream k e => d.curOf k e
  | .op k e => d.curStep k e
  | .load k => d.curOfLoad k
  | .service core =>
    let x := (d.core core).svc
    { d with cur := { core := core, svc := true, key := keyOf 64 65535, pc := x.pc, group := x.pc, word := x.waitWord } }
  | .unit j => { d with cur := { core := 0xF0, unit := j, sampler := true } }

/-- The step that the fault of a waiter names. -/
def waiterStep (d : Dev) : Waiter → Nat
  | .op k e => (((d.group k).stream e).op.map (·.step)).getD 0
  | _ => 0

/-- A pending access that a fence ends, while it still waits: cause 0x30 (R385), and in the step of a sampler unit MEMFAULT (R348). A
control core that verifies a kernel finds the port FENCED when it goes on (R342). -/
def fenceFault (d : Dev) (w : AccWait) : Dev :=
  if !d.waits.contains w then d
  else
    match w.by_ with
    | .unit j =>
      match (d.sampler j).run with
      | some r => (d.endStep j r stMemFault).endWaits w.by_
      | none => d.endWaits w.by_
    | by_ =>
      if (by_.group?.map (fun k => (Map.find d.groups k).isNone)).getD false then d.endWaits by_
      else (d.curWaiting by_).takeFault { cause := 0x30, step := d.waiterStep by_ }

/-- ENTRY TO FENCED (R383, R385): lines held by the host exclusively are poisoned in Lake, dirty host lines are poisoned in
place, clean ones go, and accesses without a response fault; what has been answered to an access is its own (log 34). -/
def fence (d : Dev) (p cause : Nat) : Dev :=
  let l := d.link p
  if l.state != .up && l.state != .degraded && l.state != .recovering then d
  else
    let ws := (d.linkWaiters p).filter unanswered
    let f := { d with poisoned := (l.dirty ++ l.lent).foldl (fun m x => insertNat x m) d.poisoned }
    let f := f.setLink p { l with
      state := .fenced, losses := min 0xFFFF (l.losses + 1), fcause := cause,
      lines := l.lines.filter l.dirty.contains, asked := [], lent := [], shared := [], lastUse := [] }
    { ws.foldl fenceFault f with cur := d.cur }

/-- FENCE_COMPLETE (R383): every poisoned host copy is discarded. -/
def fenceComplete (d : Dev) (p : Nat) : Dev :=
  let l := d.link p
  if l.state != .fenced then d
  else
    let d := { d with poisoned := l.dirty.foldl (fun m x => eraseNat x m) d.poisoned }
    d.setLink p { l with state := .down, rate := 0, width := 0, flit := 0, ide := false, lines := [], dirty := [] }

/-- A line that has been answered to the accesses that wait for it (R381, R385). -/
def answer (d : Dev) (p line : Nat) : Dev :=
  { d with waits := d.waits.map (fun w =>
      if w.port = some p && w.lines.contains line then { w with got := insertNat line w.got } else w) }

/-- A response over a port (R378, R381, R384): a line asked for arrives, or a Lake line that the host held comes back. A line of the
host may be kept, one of a peer belongs to the accesses that asked for it alone. A response without data completes a write. -/
def linkResponse (d : Dev) (p : Nat) (r : LinkReply) : Dev :=
  let l := d.link p
  if !LState.carries l.state || (Map.find l.asked r.line).isNone then d
  else
    let d := if r.bytes.length = 64 then d.storeBytes (r.line * 64) r.bytes r.poison else d
    let l := d.link p
    (d.setLink p { l with
      asked := Map.del l.asked r.line
      lines := if targetOf (r.line * 64) = .host then insertNat r.line l.lines else l.lines
      lent := eraseNat r.line l.lent, shared := eraseNat r.line l.shared
      lastUse := Map.del l.lastUse r.line }).answer p r.line

/-- The entries of the snoop filter (R378). -/
def filterSize : Nat := 4194304

/-- The entry of the snoop filter that the host used longest ago. -/
def oldestCopy (l : Link) : Option Nat :=
  (l.lastUse.foldl (fun (b : Option (Nat × Nat)) e => match b with
    | none => some e
    | some x => if e.2 < x.2 then some e else b) none).map (·.1)

/-- A new copy of a Lake line granted to the host, `own` for an exclusive one: when the snoop filter is full, its least recently used entry
is taken back first, and the request is made again (R378). -/
def grantCopy (d : Dev) (line : Nat) (own : Bool) : Dev :=
  let l := d.link 0
  let known := l.lent.contains line || l.shared.contains line
  let full := filterSize ≤ l.lent.length + l.shared.length
  match (if known || !full then none else oldestCopy l) with
  | some old => d.askLines 0 [old]
  | none =>
    let l := { l with lastUse := Map.set l.lastUse line d.uses }
    let d := { d with uses := d.uses + 1 }
    if own then d.setLink 0 { l with lent := insertNat line l.lent, shared := eraseNat line l.shared }
    else if l.lent.contains line then d.setLink 0 l
    else d.setLink 0 { l with shared := insertNat line l.shared }

/-- A request of the host or a peer to a Lake line (R191, R378, R381): a host read takes a copy, a write stores a line. A
request to a line that the host holds waits until it is taken back, and one to a line that a frozen site held dirty is made again
later (R368). Dirty stash entries of the line move (R179). -/
def lakeAccess (d : Dev) (p : Nat) (q : LakeReq) : Dev :=
  if !LState.carries (d.link p).state then d
  else
    let l := d.link 0
    match q with
    | .read line own =>
      if targetOf (line * 64) != .lake || d.frozenDirty (line * 64) 64 then d
      else if p != 0 then (if l.lent.contains line then d.askLines 0 [line] else d.snoop none (line * 64) 64 false)
      else (d.snoop none (line * 64) 64 false).grantCopy line own
    | .write line bytes poison =>
      if targetOf (line * 64) != .lake || bytes.length != 64 || d.frozenDirty (line * 64) 64 then d
      else if p != 0 && (l.lent.contains line || l.shared.contains line) then d.askLines 0 [line]
      else
        let d := (d.snoop none (line * 64) 64 true).storeBytes (line * 64) bytes poison
        d.setLink 0 { d.link 0 with lent := eraseNat line (d.link 0).lent
                                    lastUse := if (d.link 0).shared.contains line then (d.link 0).lastUse else Map.del (d.link 0).lastUse line }
    | .release line =>
      if p = 0 then d.setLink 0 { l with
          lent := eraseNat line l.lent, shared := eraseNat line l.shared, lastUse := Map.del l.lastUse line }
      else d

/-- A request of another agent at a stash entry (R179); one at an entry that a frozen site holds dirty is made again later (R368). -/
def stashRemote (d : Dev) (key line : Nat) (write : Bool) : Dev :=
  match Map.find d.groups key with
  | none => d
  | some g =>
    match Map.find g.stash line with
    | none => d
    | some e =>
      if !e.dirty || (g.core < 128 && siteHolds (d.site (d.siteOf g.core))) then d
      else if write then d.setGroup key { g with stash := Map.del g.stash line }
      else d.setGroup key { g with stash := Map.set g.stash line { e with dirty := false } }

/-- The IDE keys of a port set (R377): integrity and encryption are active from then on (log 35). -/
def setIdeKey (d : Dev) (p : Nat) (key : Word) : Dev :=
  d.setLink p { d.link p with keys := (d.link p).keys ++ [key], ide := true }

end Dev

/-- The ports are 0 to 2 (R382). -/
def onPort (p : Nat) (f : Dev → Dev) (s : State) : Host.Outcome State Fault Refusal :=
  event (fun d => if p < 3 then f d else d) s

def execPerstRelease (s : State) : Host.Outcome State Fault Refusal := event (·.linkMove 0 [.down] .training) s

/-- TRAIN: peer ports in DOWN (R382). -/
def execLnkTrain (p : Nat) (s : State) : Host.Outcome State Fault Refusal :=
  onPort p (fun d => if p = 0 then d else d.linkMove p [.down] .training) s

def execLnkFence (p : Nat) (s : State) : Host.Outcome State Fault Refusal := onPort p (·.fence p 5) s

def execTrainingDone (p rate width : Nat) (flit68 : Bool) (s : State) : Host.Outcome State Fault Refusal :=
  onPort p (·.trainingDone p rate width flit68) s

def execTrainingTimeout (p : Nat) (s : State) : Host.Outcome State Fault Refusal := onPort p (·.linkMove p [.training] .down) s

def execLinkRecoveryEntry (p : Nat) (s : State) : Host.Outcome State Fault Refusal :=
  onPort p (·.linkMove p [.up, .degraded] .recovering) s

def execRecoveryDone (p rate width : Nat) (s : State) : Host.Outcome State Fault Refusal :=
  onPort p (·.recoveryDone p rate width) s

def execRecoveryTimeout (p : Nat) (s : State) : Host.Outcome State Fault Refusal :=
  onPort p (fun d => if (d.link p).state = .recovering then d.fence p 1 else d) s

def execUncorrectableFlitError (p : Nat) (s : State) : Host.Outcome State Fault Refusal := onPort p (·.fence p 2) s

def execIdeIntegrityFailure (p : Nat) (s : State) : Host.Outcome State Fault Refusal := onPort p (·.fence p 3) s

def execSurpriseDown (p : Nat) (s : State) : Host.Outcome State Fault Refusal := onPort p (·.fence p 4) s

def execFenceComplete (p : Nat) (s : State) : Host.Outcome State Fault Refusal := onPort p (·.fenceComplete p) s

def execHostLakeAccess (q : LakeReq) (s : State) : Host.Outcome State Fault Refusal := event (·.lakeAccess 0 q) s

/-- A peer reaches the module over port 1 or 2. -/
def execPeerLakeAccess (p : Nat) (q : LakeReq) (s : State) : Host.Outcome State Fault Refusal :=
  onPort p (fun d => if p = 0 then d else d.lakeAccess p q) s

def execStashRemoteAccess (g line : Nat) (write : Bool) (s : State) : Host.Outcome State Fault Refusal :=
  event (·.stashRemote g line write) s

def execLinkResponse (p : Nat) (r : LinkReply) (s : State) : Host.Outcome State Fault Refusal := onPort p (·.linkResponse p r) s

def execIdeKm (p : Nat) (key : Word) (s : State) : Host.Outcome State Fault Refusal := onPort p (·.setIdeKey p key) s

end Sys2Proof.Machine
end

