-- ==== Sys2Proof/Machine/Tile.lean ====
section
/-!
DEFINITION. The arithmetic of the matrix engine (spec/04_element.md R82 to R86, spec/07_tile.md R151 to R155): format words,
weight images, block records, slabs.
-/

namespace Sys2Proof.Machine
open Word

/-! ### The format word (R153) -/

def fwFmt (fw : Nat) : Nat := fld fw 60 4
def fwSp (fw : Nat) : Nat := fld fw 55 2
def fwWsc (fw : Nat) : Bool := flag fw 54
def fwAsc (fw : Nat) : Bool := flag fw 53
def fwInt (fw : Nat) : Bool := flag fw 52
def fwXv (fw : Nat) : Int := sext (fld fw 47 5) 5
def fwK (fw : Nat) : Nat := fld fw 33 11 + 1
def fwN (fw : Nat) : Nat := fld fw 24 9 + 1

/-- The planes of a weight format (R82). -/
def planes (fmt : Nat) : Nat :=
  match fmt with
  | 0 => 1
  | 1 => 2
  | 2 => 3
  | 3 => 3
  | _ => 6

/-- The balanced-ternary planes of a weight (R82). -/
def tritPlanes (w : Int) : Nat → List Int
  | 0 => []
  | n + 1 =>
    let r := w % 3
    let t := if r = 2 then -1 else r
    t :: tritPlanes ((w - t) / 3) n

/-- The checks of R153. -/
def fwOk (fw : Nat) : Bool :=
  fwFmt fw ≤ 4 && fld fw 57 3 == planes (fwFmt fw) && (fwWsc fw || fwFmt fw == 4)
    && decide (-13 ≤ fwXv fw) && decide (fwXv fw ≤ 13) && (fwFmt fw == 3 || fwXv fw == 0) && fld fw 44 3 == 0 && fld fw 0 24 == 0

/-! ### Weight images (R154) -/

/-- The bits of a weight code. -/
def weightBits (fmt : Nat) : Nat :=
  match fmt with
  | 0 => 2
  | 4 => 8
  | _ => 4

/-- Kept weights of a block at N:8, and N (R83). -/
def keptPer (sp : Nat) : Nat := 2 ^ (sp - 1)

/-- The bytes of a block record (R154). -/
def recordSize (fmt sp : Nat) : Nat :=
  if sp = 0 then 4 * weightBits fmt
  else (4 * keptPer sp * weightBits fmt + 7) / 8 + (12 * keptPer sp + 7) / 8

/-- The bytes of a panel, of a slab and of an image, and the slabs and strips of a format word. -/
def panelSize (fw : Nat) : Nat := 1024 * recordSize (fwFmt fw) (fwSp fw) + (if fwWsc fw then 2048 else 0)
def stripsOf (fw : Nat) : Nat := (fwN fw + 127) / 128
def slabsOf (fw : Nat) : Nat := (fwK fw + 255) / 256
def slabSize (fw : Nat) : Nat := stripsOf fw * panelSize fw
def imageSize (fw : Nat) : Nat := slabsOf fw * slabSize fw

/-- The integer of a weight code and its invalid-code events (R66, R82). -/
def weightInt (fmt : Nat) (xv : Int) (c : Nat) : Int × Nat :=
  match fmt with
  | 0 => trit c
  | 1 => (3 * (trit (c / 4)).1 + (trit c).1, (trit (c / 4)).2 + (trit c).2)
  | 2 => (sext c 4, 0)
  | 3 => (fp4Half xv c, 0)
  | _ => (sext c 8, 0)

/-- The 32 weights of a block record and its invalid-code events (R66, R83). Kept weights that name one position add up, and a
rejected weight still counts its own reserved codes (DEDUCED, log 39). -/
def blockWeights (fmt sp : Nat) (xv : Int) (r : Nat) : List Int × Nat :=
  let bits := weightBits fmt
  if sp = 0 then
    let ws := (List.range 32).map (fun j => weightInt fmt xv (fld r (bits * j) bits))
    (ws.map (·.1), sumOf (·.2) ws)
  else
    let k := keptPer sp
    let base := 8 * ((4 * k * bits + 7) / 8)
    let ix (j : Nat) : Nat := fld r (base + 3 * j) 3
    let bad (j : Nat) : Bool := j % k != 0 && ix j ≤ ix (j - 1)
    let val (j : Nat) : Int × Nat := weightInt fmt xv (fld r (bits * j) bits)
    let js := List.range (4 * k)
    let at_ (p : Nat) : Int :=
      (js.filter (fun j => j / k = p / 8 && ix j = p % 8 && !bad j)).foldl (fun (x : Int) j => x + (val j).1) 0
    ((List.range 32).map at_, sumOf (fun j => (val j).2 + (if bad j then 1 else 0)) js)

/-! ### A slab -/

/-- One block of a column: its weights and its scale code, 0x7F0 for an absent scale. -/
structure WBlock where
  w : List Int
  sc : Nat
  deriving DecidableEq, Repr

/-- The blocks of the columns of a slab that are read (R155), with the invalid-code events: `img` holds the slab's bytes. -/
def slabColumns (fw s img : Nat) : List (List WBlock) × Nat :=
  let b := recordSize (fwFmt fw) (fwSp fw)
  let blocks := (List.range 8).filter (fun j => 256 * s + 32 * j < fwK fw)
  let col (n : Nat) : List (WBlock × Nat) :=
    let panel := n / 128 * panelSize fw
    blocks.map (fun j =>
      let i := 8 * (n % 128) + j
      let r := blockWeights (fwFmt fw) (fwSp fw) (fwXv fw) (fld img (8 * (panel + i * b)) (8 * b))
      let sc := if fwWsc fw then fld img (8 * (panel + 1024 * b + 2 * i)) 12 else 0x7F0
      (⟨r.1, sc⟩, r.2))
  let cols := (List.range (fwN fw)).map col
  (cols.map (·.map (·.1)), sumOf (fun c => sumOf (·.2) c) cols)

/-- Whether a scale code is reserved (R72). -/
def scaleReserved (c : Nat) : Bool := fld c 4 8 == 255 && c != 0xFFF

/-- The byte offset in the image of the first reserved weight scale that a slab reads (R160). -/
def badWeightScale (fw s : Nat) (cols : List (List WBlock)) : Option Nat :=
  if fwInt fw then none
  else
    let b := recordSize (fwFmt fw) (fwSp fw)
    ((List.range cols.length).zip cols).findSome? (fun e =>
      ((List.range e.2.length).zip e.2).findSome? (fun x =>
        if scaleReserved x.2.sc then
          some (s * slabSize fw + e.1 / 128 * panelSize fw + 1024 * b + 2 * (8 * (e.1 % 128) + x.1))
        else none))

/-- The exact block sum of R84. -/
def blockDot (a w : List Int) : Int := (List.zipWith (· * ·) a w).foldl (· + ·) 0

/-- A term of R84: `none` for a NaN block. The fraction is exact. -/
def blockTerm (h : Nat) (p : Int) (sa sw : Nat) : Option (Int × Nat) :=
  match scaleVal sa, scaleVal sw with
  | some (.fin _ n d), some (.fin _ k e) => some (p * n * k, d * e * h)
  | _, _ => none

/-- One accumulator lane of a slab in the FP32 mode (R84): code and flags. -/
def slabF (h : Nat) (a : List (List Int)) (sa : List Nat) (ws : List WBlock) (acc : Nat) : Nat × Nat :=
  let terms := (a.zip (sa.zip ws)).map (fun e => blockTerm h (blockDot e.1 e.2.2.w) e.2.1 e.2.2.sc)
  if terms.any (·.isNone) then (f32.nan, fNV)
  else
    let s := (terms.filterMap id).foldl (fun (x : Int × Nat) y =>
      if x.2 = y.2 then (x.1 + y.1, x.2) else (x.1 * y.2 + y.1 * x.2, x.2 * y.2)) (0, 1)
    let t := rne f32 (.fin (s.1 < 0) s.1.natAbs s.2)
    let r := faddF f32 acc t.1
    (r.1, t.2 ||| r.2)

/-- One accumulator lane of a slab in the INT32 mode (R85): the lane, and whether it was clamped. -/
def slabI (a : List (List Int)) (ws : List WBlock) (acc : Nat) : Nat × Bool :=
  let s := (a.zip ws).foldl (fun (x : Int) e => x + blockDot e.1 e.2.w) (sext acc 32)
  if s < -(2 ^ 31 : Nat) then (2 ^ 31, true)
  else if (2 ^ 31 - 1 : Nat) < s then (2 ^ 31 - 1, true)
  else (ofInt s 32, false)

/-- The activations of a row in the blocks of a slab; lanes at or beyond K are zero (R158). -/
def actBlocks (fw s : Nat) (v : RowBits) : List (List Int) :=
  ((List.range 8).filter (fun j => 256 * s + 32 * j < fwK fw)).map (fun j =>
    (List.range 32).map (fun i =>
      let k := 256 * s + 32 * j + i
      if k < fwK fw then sext (fld v.toNat (8 * k) 8) 8 else 0))

/-- The activation scale codes of a row in the blocks of a slab (R158): lane 64 × SLOT + block of the scale row. -/
def actScales (fw s slot : Nat) (v : Option RowBits) : List Nat :=
  ((List.range 8).filter (fun j => 256 * s + 32 * j < fwK fw)).map (fun j =>
    match v with
    | some r => fld r.toNat (16 * (64 * slot + 8 * s + j)) 12
    | none => 0x7F0)

/-- A row of accumulators after a slab: the row, flags, and whether a lane was clamped. -/
def slabRow (fw : Nat) (a : List (List Int)) (sa : List Nat) (cols : List (List WBlock)) (acc : RowBits) : RowBits × Nat × Bool :=
  let old := lanesOf 32 512 acc
  let h := if fwFmt fw = 3 then 2 else 1
  if fwInt fw then
    let rs := (cols.zip old).map (fun e => slabI a e.1 e.2)
    (rowOf 32 (rs.map (·.1) ++ old.drop (fwN fw)), 0, rs.any (·.2))
  else
    let rs := (cols.zip old).map (fun e => slabF h a sa e.1 e.2)
    (rowOf 32 (rs.map (·.1) ++ old.drop (fwN fw)), rs.foldl (fun f r => f ||| r.2) 0, false)

/-- One lane of MDEQ (R170): the exact product, rounded once. -/
def mdeqLane (td : Nat) (acc : Bool) (x : Nat) (c r : Option Nat) : Nat × Nat :=
  let v : FVal × Nat := (if acc then FVal.ofInt (sext x 32) else valF f32 x, 0)
  let by_ (v : FVal × Nat) (s : Option Nat) : FVal × Nat :=
    match s with
    | none => v
    | some k => let p := v.1.mul (valF f32 k); (p.1, v.2 ||| p.2)
  let p := by_ (by_ v c) r
  let o := cvtCode td none p.1
  (o.1, o.2 ||| p.2)

end Sys2Proof.Machine
end

