-- ==== Sys2Proof/Machine/Matrix.lean ====
section
/-!
DEFINITION. Class 0x8, matrix (spec/07_tile.md R152 to R173): MMT, MMV and its Pass, the weight halves, MDEQ, MSTAT, and the
events of slabs, sessions and swaps.
-/

namespace Sys2Proof.Machine
open Word

/-- An MMT or MMV in progress (R171). `ws` is 0, 1 for a half, 2 for q249, 3 for the address and 4 for the handle form. -/
structure MatOp where
  row : Nat
  ws : Nat
  m : Nat
  fw : Nat
  /-- The weight address: aW, or the offset in the copy of entry `entry`. -/
  base : Nat
  entry : Nat
  /-- The path has been chosen since the last restart (R164). -/
  chosen : Bool
  /-- The accumulator has been staged since the last restart. -/
  staged : Bool
  /-- The paths its completed steps ran on: bit 0 core, bit 1 bank (R166). -/
  ran : Nat
  /-- The report for MSTAT, but for its MIX bit. -/
  report : Nat
  /-- COR_PASS as staged at issue (R164, R208). -/
  pass : Nat
  /-- Poison of the index row or the format word; of the carry. -/
  p : Bool
  carryP : Bool
  carry : List Byte
  index : RowBits
  acts : List RowData
  scales : List RowData
  /-- The accumulator rows as staged, and as the slabs since have made them (R160). -/
  acc : List RowData
  deriving DecidableEq, Repr

/-- An MMT or MMV as the plain data of an operation in progress. -/
def MatOp.pack (x : MatOp) (i : Instr) (step : Nat) : LongOp :=
  { ins := i, word := 0, pc := 0, step := step,
    n := [x.row, x.ws, x.m, x.fw, x.base, x.entry, bit x.chosen, bit x.staged, x.ran, x.report, bit x.carryP, x.pass]
      ++ x.carry.map (·.toNat),
    regs := [], rows := ⟨x.index, false⟩ :: (x.acts ++ x.acc ++ x.scales), mask := {}, p := x.p, res := [] }

/-- The MMT or MMV of an operation in progress. -/
def MatOp.unpack (o : LongOp) : MatOp :=
  let f (i : Nat) : Nat := o.n.getD i 0
  { row := f 0, ws := f 1, m := f 2, fw := f 3, base := f 4, entry := f 5, chosen := f 6 == 1, staged := f 7 == 1,
    ran := f 8, report := f 9, p := o.p, carryP := f 10 == 1, pass := f 11, carry := (o.n.drop 12).map (BitVec.ofNat 8),
    index := (o.rows.headD {}).v, acts := (o.rows.drop 1).take (f 2), acc := (o.rows.drop (1 + f 2)).take (f 2),
    scales := o.rows.drop (1 + 2 * f 2) }

/-- The rows of the accumulator of an operation. -/
def MatOp.rows (x : MatOp) : List Nat := (List.range x.m).map (x.row + ·)

/-- The operation in progress at a step, with the place of its instruction. -/
def MatOp.at_ (x : MatOp) (o : LongOp) (step : Nat) : LongOp := { MatOp.pack x o.ins step with word := o.word, pc := o.pc }

/-- Whether an operation is an MMT or MMV. -/
def isMat : Instr → Bool
  | .mmt .. | .mmv .. | .mmvHandle .. => true
  | _ => false

/-- What MSTAT reports of an MMV: with MIX where its steps have run on both paths (R166). -/
def MatOp.status (x : MatOp) : Nat := x.report + 16 * bit (x.ran == 3)

/-- Lane `m` of the index row (R158). -/
def indexLane (v : RowBits) (m : Nat) : Nat := fld v.toNat (32 * m) 32
def aRow (l : Nat) : Nat := fld l 0 11
def sRow (l : Nat) : Nat := fld l 16 11
def sSlot (l : Nat) : Nat := fld l 27 4

namespace Dev

/-! ### The weight buffer (R156) -/

/-- The halves of the group are in the buffer, or come into an empty one; else the swap is awaited. -/
def needHalves (d : Dev) : Res Dev :=
  let c := d.core d.cur.core
  match c.weights with
  | none => .ok (d.setCore d.cur.core { c with weights := some d.cur.key })
  | some k => if k = d.cur.key then .ok d else waitFor .swap

/-- A half of a group. -/
def halfOf (g : Group) (h : Nat) : Half := if h = 0 then g.wb0 else g.wb1

/-- Bytes loaded into half `h` of a group from byte 0, with the poison of each line. -/
def loadHalf (d : Dev) (key h : Nat) (bs : List Byte) (ps : List Bool) : Dev :=
  let g := d.group key
  let x := halfOf g h
  let po := ((List.range ps.length).zip ps).foldl (fun m e => if e.2 then insertNat e.1 m else eraseNat e.1 m) x.p
  let x : Half := { x with bytes := x.bytes.writeBytes 0 bs, p := po, dirty := true }
  d.setGroup key (if h = 0 then { g with wb0 := x } else { g with wb1 := x })

/-- WEIGHT_SWAP (R156, R366): the halves present go to their owner's image where they were loaded since they were last restored, and
those of a group that waits for them are read back; nothing is swapped on a site that does not run. -/
def weightSwap (d : Dev) (core key : Nat) : Dev :=
  let c := d.core core
  let g := d.group key
  let needs := g.streamM.wait == .swap || g.streamM.load.isSome
    || (g.streamM.op.map (fun o => isMat o.ins && (MatOp.unpack o).ws < 2)).getD false
  match c.weights with
  | none => d
  | some k =>
    if k = key || g.core != core || (g.state != .running && g.state != .held) || !needs || !d.siteRuns core then d
    else
      let d := (d.writeHalves k false).readHalves key
      (d.setCore core { d.core core with weights := some key }).countOn core 31 1

/-- Whether an MMT in progress of a stream reads a half (R157). -/
def readsHalf (x : Stream) (h : Nat) : Bool :=
  match x.op with
  | some o => isMat o.ins && (MatOp.unpack o).ws == h
  | none => false

/-- The half that an MBCW in progress loads (R157, R168). -/
def loadsHalf (x : Stream) (h : Nat) : Bool := (x.load.map (fun o => o.n.headD 0 == h)).getD false

/-! ### The units of the M engine (R157) -/

/-- An array instruction waits while the array unit of the core is busy. -/
def arrayFree (d : Dev) : Res Unit := if d.stm.op.isSome || d.unitBusy .M isMat then waitFor .busy else .ok ()

/-- Whether a group is a participant of an open session. -/
def joined (d : Dev) (key : Nat) : Bool :=
  d.clusters.any (fun e => e.2.sessions.any (fun x => x.2.count != 0 && x.2.joined.any (fun j => j.key == key)))

/-- A load waits while the loader unit of the core is busy: with an MBCW of its own stream, or with one of another group that has
joined its session. -/
def loaderFree (d : Dev) : Res Unit :=
  if d.stm.load.isSome || (d.core d.cur.core).slots.any (fun s => (d.group s.2).streamM.load.isSome && d.joined s.2) then waitFor .busy
  else .ok ()

/-! ### The Pass (R164, R166) -/

/-- The physical address of a byte of the image, where it lies in Pond or Lake; `none` elsewhere. -/
def imageAt (d : Dev) (x : MatOp) (off : Nat) : Option Nat :=
  let inTier (pa : Nat) : Option Nat := if targetOf pa = .lake || targetOf pa = .pond then some pa else none
  if x.ws = 4 then (Copy.place (d.copyAt x.entry) (x.base + off)).bind inTier
  else
    match d.access ((x.base + off) % 2 ^ 64) 1 1 .load 0 with
    | .ok (pa, _) => inTier pa
    | .error _ => none

/-- The tier and the target unit of an image that lies whole in Pond or whole in Lake. -/
def imageUnit (d : Dev) (x : MatOp) : Option (Nat × Nat) :=
  let n := imageSize x.fw
  let pages := (List.range (n / 4096 + 2)).map (fun i => min (4096 * i) (n - 1))
  let ps := pages.map (d.imageAt x)
  match d.imageAt x 0 with
  | none => none
  | some pa =>
    let t := targetOf pa
    if ps.all (fun p => (p.map targetOf) == some t) then
      some (if t = .pond then (0, (pa - 0xF0000000000) / (96 * 2 ^ 20) * 64 + fld pa 12 6) else (1, fld pa 12 6 / 4))
    else none

/-- A dispatch of the Pass, at issue and at each restart (R164): the path chosen, with the report of R166. -/
def dispatch (d : Dev) (x : MatOp) : MatOp × Dev :=
  let mode := fld x.pass 8 2
  let thr := fld x.pass 0 8
  let u := d.imageUnit x
  let occ := (Config.occupancy d.fresh).toNat
  let elig := u.isSome
  let busyTarget := elig && thr ≤ occ
  let bank := mode != 1 && x.m ≤ 4 && elig && (mode = 2 || !busyTarget)
  let (tier, unit_) := u.getD (0, 0)
  let rep := bit bank + 2 * bit elig + 4 * bit busyTarget + 8 * bit (4 < x.m)
    + (if elig then occ * 2 ^ 8 + unit_ * 2 ^ 16 + tier * 2 ^ 24 else 0)
  ({ x with chosen := true, report := rep }, { d with fresh := d.fresh + 1 })

/-! ### Issue of MMT and MMV -/

/-- The rows a tile of the view takes (R46). -/
def tileRow (d : Dev) (t : Nat) : Nat := d.grp.view.vbase + t * d.grp.view.trows

/-- A tile inside the window (R46). -/
def tileOk (d : Dev) (t : Nat) : Bool := d.tileRow t + d.grp.view.trows ≤ d.grp.rowsN

/-- Waits for dropped rows among the activation rows that the lanes name (R63). -/
def actsReady (d : Dev) (ix : RowBits) : Nat → Res Unit
  | 0 => .ok ()
  | m + 1 => do
    actsReady d ix m
    let r := aRow (indexLane ix m)
    if r < d.grp.rowsN && isDropped (d.row r) then waitFor (.replay r []) else pure ()

/-- The index lanes checked (R158): the lane's value and its number where one is wrong. -/
def laneFault (d : Dev) (fw : Nat) (ix : RowBits) (m : Nat) : Option (Nat × Nat) :=
  ((List.range m).find? (fun j =>
    let l := indexLane ix j
    flag l 31 || fld l 11 5 != 0 || d.grp.rowsN ≤ aRow l || (fwAsc fw && d.grp.rowsN ≤ sRow l))).map
    (fun j => (indexLane ix j, j))

/-- Rows by a list of numbers. -/
def readEach (d : Dev) : List Nat → Res (List RowData)
  | [] => .ok []
  | r :: rs => do
    let x ← d.readRow r
    let xs ← readEach d rs
    pure (x :: xs)

/-- The accumulator rows of a tile may be written (R61, R63). -/
def accReady (d : Dev) (row : Nat) : Nat → Res Unit
  | 0 => .ok ()
  | m + 1 => do
    accReady d row m
    d.rowWritable (row + m) false

/-- The accumulator of an operation staged from its rows as they stand (R160, R171). -/
def stageAcc (d : Dev) (row m : Nat) : List RowData := (List.range m).map (fun j => ⟨(d.row (row + j)).v, (d.row (row + j)).p⟩)

/-- The waits of an MMT or MMV that keep its group from being ready (R152, R157): the array unit, the halves or the first entry of
q249, and what the weights themselves wait for. -/
def matReady (d : Dev) (ws : Nat) (weights : Dev → Res Unit) : Res Dev := do
  d.arrayFree
  if ws < 2 && loadsHalf d.stm ws then waitFor .busy else pure ()
  let d ← if ws < 2 then d.needHalves else pure d
  let d0 := d
  if ws = 2 && (d0.readyEntries .q249).isEmpty then waitFor (.queue 249) else pure ()
  weights d
  pure d

/-- The issue of MMT and MMV (R172): once nothing is waited for, checks in order, then the format word is popped, the operands are
staged and the Pass of an MMV is dispatched. `weights` are the waits for the weights; `more` makes the checks of order 6 and gives
the base, the tag entry and the device they leave. -/
def matIssue (d : Dev) (i : Instr) (t fI ws mm : Nat) (weights : Dev → Res Unit) (more : Dev → Nat → Res (Nat × Nat × Dev)) :
    Res Dev := do
  let m := mm + 1
  let d ← d.matReady ws weights
  if fI < 0x800 then d.inBounds fI else pure ()
  let (x, d) ← d.src fI
  d.actsReady x.v m
  if d.tileOk t && m ≤ d.grp.view.trows then d.accReady (d.tileRow t) m else pure ()
  match d.readyEntries .q248 with
  | [] => trap 0x11 0
  | w :: _ => do
    let fw := (w.v.setWidth 64 : Word).toNat
    trapIf (!fwOk fw) 4 fw
    trapIf (!d.tileOk t || d.grp.view.trows < m) 4 d.cur.pc.toNat
    match d.laneFault fw x.v m with
    | some (l, j) => .error (.trap { cause := 4, addr := BitVec.ofNat 64 l, step := j })
    | none => do
      let lanes := (List.range m).map (indexLane x.v)
      let acts ← d.readEach (lanes.map aRow)
      let scales ← if fwAsc fw then d.readEach (lanes.map sRow) else pure []
      let (base, entry, d) ← more d fw
      let d := d.setGrp { d.grp with q248 := d.grp.q248.drop 1 }
      let (carry, carryP, d) := if ws = 2 then
          (toBytes 2048 (d.grp.q249.headD {}).v.toNat, (d.grp.q249.headD {}).p, d.setGrp { d.grp with q249 := d.grp.q249.drop 1 })
        else ([], false, d)
      let o : MatOp :=
        { row := d.tileRow t, ws := ws, m := m, fw := fw, base := base, entry := entry, chosen := false, staged := true,
          ran := 0, report := 0, pass := (asStaged d.grp d.time).thresh, p := x.p || w.p, carryP := carryP, carry := carry, index := x.v,
          acts := acts, scales := scales, acc := d.stageAcc (d.tileRow t) m }
      let (o, d) := if 3 ≤ ws then d.dispatch o else (o, d)
      pure (d.begin (MatOp.pack o i 0))

/-- The issue of an MMT or MMV with what stays of it where it stops: the demand of EFETCH to Lake for a copy that it waits for (R162),
and the report of an MMV that faulted before its dispatch, which had no path yet (R166, log 87). -/
def matStart (d : Dev) (i : Instr) (t fI ws mm : Nat) (weights : Dev → Res Unit) (more : Dev → Nat → Res (Nat × Nat × Dev)) :
    Dev × Option Stop :=
  match d.matIssue i t fI ws mm weights more with
  | .ok d => (d, none)
  | .error (.wait (.copy e)) => (d.demand e 0, some (.wait (.copy e)))
  | .error (.trap x) => (if ws < 3 then d else d.setGrp { d.grp with mmv := 8 * bit (3 < mm) }, some (.trap x))
  | .error e => (d, some e)

/-- Order 6 of R172 for MMT: the size of an image in a half. -/
def mmtMore (ws : Nat) (d : Dev) (fw : Nat) : Res (Nat × Nat × Dev) := do
  trapIf (ws < 2 && 131072 < imageSize fw) 4 d.cur.pc.toNat
  pure (0, 0, d)

/-- Order 6 of R172 for the address form of MMV. -/
def mmvMore (aW : Nat) (d : Dev) (_ : Nat) : Res (Nat × Nat × Dev) := do
  let a := d.reg aW
  if a.p then commitReg a.v.toNat else pure ()
  trapIf (a.v.toNat % 64 != 0) 5 a.v.toNat
  pure (a.v.toNat, 0, d)

/-- Order 6 of R172 for the handle form (R162, R296): alignment, the copy named, its state and its format. -/
def handleMore (aW : Nat) (d : Dev) (fw : Nat) : Res (Nat × Nat × Dev) := do
  let a := d.reg aW
  let h := a.v.toNat
  if a.p then commitReg h else pure ()
  trapIf (h % 64 != 0) 5 h
  trapIf (!canonical h || !d.inWindow (h % 2 ^ 54)) 4 h
  let e := fld h 26 16
  match Map.find d.res.copies e with
  | none => trap 4 h
  | some c => do
    trapIf (!d.mayUse d.myCtx c.id) 9 h
    trapIf (c.state == .faulted) 0x18 c.id
    trapIf (fld c.fmt 0 3 != fwFmt fw || fld c.fmt 3 2 != fwSp fw || (fwFmt fw == 3 && fld c.xv 0 5 != fld fw 47 5)
      || flag c.fmt 5) 4 h
    let d := if c.state = .evicting then d.cancelEvict e else d
    let c := d.copyAt e
    pure (fld h 0 26, e, (d.serve (copyUnit e)).setCopy e { c with holders := insertNat d.cur.key c.holders, last := d.time, cls := 2 })

/-- The handle form waits for a copy that is not resident, and for the end of an eviction whose drain has begun (R162, R299). -/
def handleReady (aW : Nat) (d : Dev) : Res Unit :=
  let h := (d.reg aW).v.toNat
  let e := fld h 26 16
  match Map.find d.res.copies e with
  | none => .ok ()
  | some c =>
    if (d.reg aW).p || h % 64 != 0 || !canonical h || !d.inWindow (h % 2 ^ 54) || !d.mayUse d.myCtx c.id || c.state == .faulted then .ok ()
    else if c.drain || (Copy.place c 0).isNone then waitFor (.copy e)
    else .ok ()

/-! ### Slabs (R160, R171) -/

/-- The bytes of a slab of a half. -/
def halfSlab (d : Dev) (x : MatOp) (s : Nat) : Nat × Bool :=
  let h := halfOf d.grp x.ws
  let n := slabSize x.fw
  (h.bytes.read (s * n) n, h.p.any (fun l => s * n / 64 ≤ l && l ≤ (s * n + n - 1) / 64))

/-- Bytes of a copy from an offset: zeros beyond its end. -/
def copyBytes (d : Dev) (c : Copy) (off n : Nat) : Nat × Bool :=
  let pieces := (List.range (n / 64 + 2)).filterMap (fun i =>
    let lo := max off ((off / 64 + i) * 64)
    let hi := min (off + n) ((off / 64 + i) * 64 + 64)
    if hi ≤ lo then none else some (lo, hi - lo))
  let bs := pieces.flatMap (fun p => match Copy.place c p.1 with
    | some pa => if zeroBase ≤ pa then List.replicate p.2 0 else d.lds pa p.2
    | none => List.replicate p.2 0)
  (ofBytes bs, pieces.any (fun p => match Copy.place c p.1 with
    | some pa => pa < zeroBase && d.linePoisoned (lineOf pa)
    | none => false))

/-- The accesses of a slab of a copy in Lake or Pond performed (R368, R378). -/
def copyAccess (d : Dev) (c : Copy) (off n : Nat) : Res Dev :=
  (linesOf off n).foldlM (fun d p => match Copy.place c p.1 with
    | some pa => if zeroBase ≤ pa then pure d else (d.performed pa p.2 .load).map (·.2)
    | none => pure d) d

/-- The weights of a slab: their bytes, their poison, and the device and carry after they are read. `none`: not all there. What the
slab takes from q249 stays in the carry until the slab has completed (R161). -/
def slabImage (d : Dev) (x : MatOp) (s : Nat) : Res (Option (Nat × Bool) × MatOp × Dev) :=
  let n := slabSize x.fw
  if x.ws < 2 then
    let c := d.core d.cur.core
    match c.weights with
    | some k => if k = d.cur.key then .ok (some (d.halfSlab x s), x, d) else .ok (none, x, d)
    | none => .ok (some (d.halfSlab x s), x, d.setCore d.cur.core { c with weights := some d.cur.key })
  else if x.ws = 2 then
    let lack := (n - x.carry.length + 2047) / 2048
    let es := (d.readyEntries .q249).take lack
    let d := d.dropHead es.length .q249
    let x := { x with carry := x.carry ++ es.flatMap (fun e => toBytes 2048 e.v.toNat), carryP := x.carryP || es.any (·.p) }
    .ok (if n ≤ x.carry.length then some (ofBytes (x.carry.take n), x.carryP) else none, x, d)
  else if x.ws = 3 then do
    let (ps, d) ← d.accessLines .load (linesOf (x.base + s * n) n)
    pure (some (ofBytes (d.readPieces ps), d.piecesPoisoned ps), x, d)
  else do
    let c := d.copyAt x.entry
    trapIf (c.state == .faulted) 0x18 c.id
    if (Copy.place c (x.base + s * n)).isNone then waitFor (.copy x.entry)
    else do
      let d ← d.copyAccess c (x.base + s * n) n
      pure (some (d.copyBytes c (x.base + s * n) n), x, d)

/-- An operation that goes on (R164, R171): its path chosen and its accumulator staged anew after a restart, from the rows as they
stand; dropped rows among them are replayed first (R63). -/
def restage (d : Dev) (x : MatOp) : Res (MatOp × Dev) :=
  let (x, d) := if 3 ≤ x.ws && !x.chosen then d.dispatch x else (x, d)
  if x.staged then .ok (x, d)
  else do
    let d ← d.replayRows d.cur.key [] (x.rows.filter (fun r => isDropped (d.row r)))
    pure ({ x with staged := true, acc := d.stageAcc x.row x.m }, d)

/-- The accumulator rows of a slab written (R160, R163, R173): lanes below N from the staged accumulator, whatever another
stream has written there since (R176); the other lanes as they stand. -/
def slabRows (d : Dev) (x : MatOp) (s img : Nat) (imgP : Bool) : Res (Dev × MatOp × Nat) :=
  let (cols, ic) := slabColumns x.fw s img
  let lane (m : Nat) : Nat := indexLane x.index m
  let badA := if fwInt x.fw then none else
    (List.range x.scales.length).find? (fun m =>
      (actScales x.fw s (sSlot (lane m)) (some (x.scales.getD m {}).v)).any scaleReserved)
  match badA, badWeightScale x.fw s cols with
  | some m, _ => trap 4 (sRow (lane m))
  | none, some a => trap 4 a
  | none, none =>
    let key := d.cur.key
    let n := 32 * fwN x.fw
    let full := fwN x.fw = 512
    let step (a : Dev × List RowData × Nat) (m : Nat) : Dev × List RowData × Nat :=
      let d := a.1
      let r := x.row + m
      let sa := x.scales[m]?
      let old := x.acc.getD m {}
      let y := slabRow x.fw (actBlocks x.fw s (x.acts.getD m {}).v) (actScales x.fw s (sSlot (lane m)) (sa.map (·.v))) cols old.v
      let p := x.p || imgP || (x.acts.getD m {}).p || (sa.map (·.p)).getD false || old.p
      let v : RowBits := BitVec.ofNat 16384 (y.1.toNat % 2 ^ n + (d.row r).v.toNat / 2 ^ n * 2 ^ n)
      let sat := fwInt x.fw && ((d.row r).sat || y.2.2)
      (d.retireRow key r v p full sat, a.2.1 ++ [⟨y.1, p⟩], a.2.2 ||| y.2.1)
    (d.readyRows key full x.rows).map (fun d =>
      let (d, acc, fl) := (List.range x.m).foldl step (d, [], 0)
      ((d.raiseF 5 (if ic = 0 then fl else fl ||| fIC)).count 40 ic, { x with acc := acc }, ic))

/-- The report of an MMV that retires or faults (R166). -/
def putStatus (d : Dev) (key : Nat) (x : MatOp) : Dev :=
  if 3 ≤ x.ws then d.setGroup key { d.group key with mmv := x.status } else d

/-- A slab that has completed (R161, R166): its bytes leave the carry, and its path counts for MIX. -/
def slabDone (x : MatOp) : MatOp :=
  { x with carry := if x.ws = 2 then x.carry.drop (slabSize x.fw) else x.carry,
           ran := if 3 ≤ x.ws then x.ran ||| (if flag x.report 0 then 2 else 1) else x.ran }

/-- A slab that stops (R161, R171): at a wait the operation keeps what it has; without a granule for a replay its group is pre-empted
(R63); a fault is recorded with the slab, whose work is lost but for its carry. -/
def slabStop (d : Dev) (key : Nat) (o : LongOp) (x : MatOp) (why : Stop) : Dev :=
  match why with
  | .wait (.granule _) => (d.setOp key .M (x.at_ o o.step)).preemptReader key
  | .wait w => (d.setOp key .M (x.at_ o o.step)).keepAccess w
  | .trap t =>
    ((d.putStatus key x).setOp key .M ({ x with chosen := false, staged := false }.at_ o o.step)).takeFault
      { t with step := o.step, pc := some o.pc, word := some o.word }

/-- The end of an MMT or MMV (R160, R166). -/
def matRetire (d : Dev) (key : Nat) (o : LongOp) (x : MatOp) : Dev :=
  let d := d.putStatus key x
  (if x.ws = 4 then d.dropHolds key else d).finishOp key .M o

/-- SLAB_COMPLETE: the next slab of an MMT or MMV (R160, R162, R171). A fault is recorded with the slab; a slab whose weights
are not all there takes what there is (R161). -/
def slabStep (d : Dev) (key : Nat) : Dev :=
  match d.opOf key .M with
  | none => d
  | some o =>
    if !isMat o.ins then d
    else
      let d := d.curStep key .M
      let x := MatOp.unpack o
      if slabsOf x.fw ≤ o.step then (d.matRetire key o x).stepOver key .M
      else
        match d.restage x with
        | .error why => d.slabStop key o x why
        | .ok (x, d) =>
          match d.slabImage x o.step with
          | .error why => d.slabStop key o x why
          | .ok (none, x, d) => (d.setOp key .M (x.at_ o o.step)).stepOver key .M
          | .ok (some (b, p), x, d) =>
            match d.slabRows x o.step b p with
            | .error why => d.slabStop key o x why
            | .ok (d, x, _) =>
              let x := slabDone x
              (if slabsOf x.fw ≤ o.step + 1 then d.matRetire key o x else d.setOp key .M (x.at_ o (o.step + 1))).stepOver key .M

/-! ### Loads of the halves (R167, R168) -/

/-- The checks on the address and the length of a load (R167): both, or the fault. -/
def loadArgs (d : Dev) (aN aL : Nat) (off : Int) : Res (Nat × Nat) := do
  let ea := ((d.reg aN).v + BitVec.ofInt 64 off).toNat
  let n := (d.reg aL).v.toNat
  if (d.reg aN).p || (d.reg aL).p then commitReg ea else pure ()
  trapIf (ea % 64 != 0) 5 ea
  trapIf (n % 64 != 0 || n = 0 || 131072 < n) 4 d.cur.pc.toNat
  pure (ea, n)

/-- The poison of each piece of a load. -/
def piecePoison (d : Dev) (ps : List (Nat × Nat)) : List Bool := ps.map (fun p => d.rangePoisoned p.1 p.2)

/-- MLDW (R167). -/
def mldwOp (d : Dev) (half aN aL : Nat) (off : Int) : Res Dev := do
  d.loaderFree
  if readsHalf d.stm half then waitFor .busy else pure ()
  let d ← d.needHalves
  let (ea, n) ← d.loadArgs aN aL off
  let (ps, d) ← d.accessLinesS .load (linesOf ea n)
  pure (d.loadHalf d.cur.key half (d.readPieces ps) (d.piecePoison ps))

def setSession (d : Dev) (cl c : Nat) (x : Session) : Dev :=
  d.setCluster cl { d.cluster cl with sessions := Map.set (d.cluster cl).sessions c x }

def endSession (d : Dev) (cl c : Nat) : Dev :=
  d.setCluster cl { d.cluster cl with sessions := Map.del (d.cluster cl).sessions c }

/-- The participants of the sessions that are not full wait, which is counted on their cores (R168). -/
def countJoiners (d : Dev) (dt : Nat) : Dev :=
  let js := d.clusters.flatMap (fun e => e.2.sessions.flatMap (fun x => if x.2.joined.length < x.2.count then x.2.joined else []))
  js.foldl (fun d j => d.countOn (d.group j.key).core 46 dt) d

/-- An MBCW asks for its channel (R168): it opens a session, joins the one that is open, waits, or faults. -/
def joinSession (d : Dev) (key half c p ea len : Nat) : Res Dev :=
  let cl := clusterOf (d.group key).core
  let me : Joiner := ⟨key, half⟩
  let mine (j : Joiner) : Bool := j.key == key
  let opens : Dev := d.setSession cl c { ctx := ctxOf key, ea := ea, len := len, count := p, joined := [me] }
  match Map.find (d.cluster cl).sessions c with
  | none => .ok opens
  | some x =>
    if x.count = 0 && x.joined.any mine then .ok opens
    else if x.count = 0 || x.ctx != ctxOf key then waitFor (.session c)
    else if x.ea != ea || x.len != len || x.count != p then trap 4 d.cur.pc.toNat
    else if x.joined.length = x.count || x.joined.any (fun j => (d.group j.key).core == (d.group key).core) then waitFor (.session c)
    else .ok (d.setSession cl c { x with joined := x.joined ++ [me] })

/-- An MBCW as an operation of the loader unit: its half, channel, participants, address and length; whether it runs alone, and since
when it waits for its channel. -/
def mbcwLoad (i : Instr) (half c p ea len now : Nat) : LongOp :=
  { ins := i, word := 0, pc := 0, step := 0, n := [half, c, p, ea, len, 0, now], regs := [], rows := [], mask := {}, p := false, res := [] }

/-- MBCW (R168): it issues when it joins its session, and the loader unit then waits for the beats. -/
def mbcwOp (d : Dev) (i : Instr) (half c p aN aL : Nat) (off : Int) : Res Dev := do
  d.loaderFree
  let (ea, n) ← d.loadArgs aN aL off
  let d ← d.joinSession d.cur.key half c p ea n
  pure (d.setStm { d.stm with load := some { mbcwLoad i half c p ea n d.time with word := d.cur.word, pc := d.cur.pc } })

/-- The MBCW in progress of a group changed. -/
def setLoad (d : Dev) (key : Nat) (o : Option LongOp) : Dev :=
  d.setGroup key { d.group key with streamM := { (d.group key).streamM with load := o } }

/-- The retirement of an MBCW (R168, R261). -/
def endLoad (d : Dev) (key : Nat) : Dev :=
  match (d.group key).streamM.load with
  | none => d
  | some o =>
    let d := (d.setLoad key none).endWaits (.load key)
    ({ d with cur := { d.cur with key := key, eng := .M, svc := false, core := (d.group key).core } }).fillToken (ptOf o.ins)

/-- Whether the half of a participant can take the beats of a transfer (R156, R157): no MMT reads it, and the buffer holds the halves
of the group. -/
def takesBeats (d : Dev) (j : Joiner) : Bool :=
  !readsHalf (d.group j.key).streamM j.half && (match (d.core (d.group j.key).core).weights with
    | none => true
    | some k => k == j.key)

/-- A participant whose core was frozen during the transfer runs its MBCW again alone, as if p were 1 (R168). -/
def rerunAlone (d : Dev) (j : Joiner) : Dev :=
  d.setLoad j.key ((d.group j.key).streamM.load.map (fun o => { o with n := ((o.n.set 2 1).set 5 1).set 6 d.time }))

/-- The fault of an MBCW in progress. -/
def failLoad (d : Dev) (t : Trap) (key : Nat) : Dev :=
  let e := d.curOfLoad key
  e.takeFault { t with pc := some e.cur.pc, word := some e.cur.word }

/-- The transfer of a full session (R168): the halves of its participants load and they retire together, or each faults. Participants on
a core that does not run take no part in it. -/
def transferSession (d : Dev) (cl c : Nat) (x : Session) : Dev :=
  let here := x.joined.filter (fun j => d.siteRuns (d.group j.key).core)
  let gone := x.joined.filter (fun j => !d.siteRuns (d.group j.key).core)
  match here with
  | [] => d
  | j :: _ =>
    if !here.all d.takesBeats then d
    else
      let over_ (d : Dev) : Dev := gone.foldl rerunAlone (d.endSession cl c)
      match (d.curOfLoad j.key).accessLines .load (linesOf x.ea x.len) with
      | .ok (ps, d) =>
        let bs := d.readPieces ps
        let po := d.piecePoison ps
        let load (d : Dev) (j : Joiner) : Dev :=
          let n := (d.group j.key).core
          ((d.setCore n { d.core n with weights := some j.key }).loadHalf j.key j.half bs po).endLoad j.key
        here.foldl load (over_ d)
      | .error (.wait w) => (d.curOfLoad j.key).keepAccess w
      | .error (.trap t) => here.foldl (fun d j => d.failLoad t j.key) (over_ d)

/-- An MBCW in progress that is in no session asks for its channel again (R168): after a placement, when its session was dissolved, or
when it runs again alone. One that its handler has put past its step retires at once (R207). -/
def rejoin (d : Dev) (key : Nat) : Dev :=
  let g := d.group key
  match g.streamM.load with
  | none => d
  | some o =>
    let f (i : Nat) : Nat := o.n.getD i 0
    let shut := (d.core g.core).slots.any (fun s => s.2 != key && (d.group s.2).streamM.load.isSome && d.joined s.2)
    if g.state != .running || !d.siteRuns g.core || d.joined key then d
    else if 1 ≤ o.step then d.endLoad key
    else if shut || (f 5 = 1 && (Map.find (d.cluster (clusterOf g.core)).sessions (f 1)).isSome) then d
    else
      match (d.curOfLoad key).joinSession key (f 0) (f 1) (f 2) (f 3) (f 4) with
      | .ok d => d
      | .error (.wait _) => d
      | .error (.trap t) => d.failLoad t key

/-- The sessions of every cluster (R168): those in progress without a session join one, and the full ones transfer. -/
def runSessions (d : Dev) : Dev :=
  let loading := (d.groups.filter (fun e => e.2.streamM.load.isSome)).map (·.1)
  if loading.isEmpty then d
  else
    let cur := d.cur
    let d := loading.foldl rejoin d
    let d := d.clusters.foldl (fun d e => e.2.sessions.foldl (fun d x =>
      if x.2.count != 0 && x.2.count ≤ x.2.joined.length then d.transferSession e.1 x.1 x.2 else d) d) d
    { d with cur := cur }

/-- Whether an MBCW of a group has waited 65,536 cycles for a channel (R168). -/
def waitsChannel (d : Dev) (g : Group) (c : Nat) : Bool :=
  g.state == .running && ((g.streamM.wait == .session c && g.streamM.waitSince + 65536 ≤ d.time)
    || (g.streamM.load.map (fun o => o.n.getD 1 0 == c && o.n.getD 6 0 + 65536 ≤ d.time)).getD false)

/-- MBCW_SESSION_DISSOLVE (R168): an MBCW of another context has waited 65,536 cycles; it gets the channel, and the joiners wait
again. -/
def dissolve (d : Dev) (cl c : Nat) : Dev :=
  match Map.find (d.cluster cl).sessions c with
  | none => d
  | some x =>
    match d.groups.find? (fun e => clusterOf e.2.core == cl && ctxOf e.1 != x.ctx && d.waitsChannel e.2 c) with
    | some (k, _) =>
      if x.count ≤ x.joined.length then d
      else
        let again (d : Dev) (j : Joiner) : Dev :=
          d.setLoad j.key ((d.group j.key).streamM.load.map (fun o => { o with n := o.n.set 6 d.time }))
        (x.joined.foldl again d).setSession cl c { ctx := ctxOf k, ea := 0, len := 0, count := 0, joined := [⟨k, 0⟩] }
    | none => d

/-! ### MZERO, MDEQ, MSTAT -/

/-- Rows written whole with zeros. -/
def zeroRows (d : Dev) (r : Nat) : Nat → Res Dev
  | 0 => .ok d
  | n + 1 => do
    let d ← zeroRows d r n
    d.writeRow (r + n) 0 false true

/-- MZERO (R169). -/
def mzeroOp (d : Dev) (t : Nat) : Res Dev := do
  d.arrayFree
  trapIf (!d.tileOk t) 4 d.cur.pc.toNat
  d.zeroRows (d.tileRow t) d.grp.view.trows

/-- Results written to consecutive rows, or pushed in order (R170). -/
def putRows (d : Dev) (fD : Nat) (rs : List (RowBits × Bool)) : Res Dev :=
  if fD < 0x800 then
    ((List.range rs.length).zip rs).foldlM (fun d e => d.writeRow (fD + e.1) e.2.1 e.2.2 true) d
  else do
    let f ← d.resolve (fD - 0x800) true true .operand
    d.pushN (fD - 0x800) f (rs.map (fun r => ⟨r.1, r.2⟩))

/-- MDEQ (R170). -/
def mdeqOp (d : Dev) (td : Nat) (cs rs acc : Bool) (fD t fC : Nat) : Res Dev := do
  d.arrayFree
  let td ← d.vtype [1, 2, 3, 5, 6, 7] td
  let n := d.grp.view.trows
  trapIf (!d.tileOk t) 4 d.cur.pc.toNat
  trapIf (0x900 ≤ fD || (fD < 0x800 && d.grp.rowsN < fD + n)) 4 d.cur.pc.toNat
  trapIf (rs && d.grp.rowsN ≤ fC + 1) 4 d.cur.pc.toNat
  let tile ← d.readEach ((List.range n).map (d.tileRow t + ·))
  let (c, d) ← if cs then d.src fC else pure ({}, d)
  let r ← if rs then d.readRow (fC + 1) else pure {}
  let cl := lanesOf 32 512 c.v
  let rl := lanesOf 32 512 r.v
  let out := ((List.range n).zip tile).map (fun e =>
    let ls := ((List.range 512).zip (lanesOf 32 512 e.2.v)).map (fun x =>
      mdeqLane td acc x.2 (if cs then some (cl.getD x.1 0) else none) (if rs then some (rl.getD e.1 0) else none))
    (rowOf (laneBits td) (ls.map (·.1)), e.2.p || c.p || r.p, ls.foldl (fun f l => f ||| l.2) 0))
  let d ← d.putRows fD (out.map (fun o => (o.1, o.2.1)))
  pure (d.raiseF 5 (out.foldl (fun f o => f ||| o.2.2) 0))

/-- MSTAT (R166). -/
def mstatOp (d : Dev) (aD sel t : Nat) : Res Dev := do
  d.arrayFree
  trapIf (sel = 1 && !d.tileOk t) 4 d.cur.pc.toNat
  let sat := sumOf (fun m => bit (d.row (d.tileRow t + m)).sat * 2 ^ m) (List.range d.grp.view.trows)
  pure (d.setReg aD ⟨BitVec.ofNat 64 (if sel = 1 then sat else d.grp.mmv), false⟩)

end Dev

def execMmt (h : Hdr) (t fI ws mm : Nat) (s : State) : Host.Outcome State Fault Refusal :=
  streamP h (·.matStart (.mmt h t fI ws mm) t fI ws mm (fun _ => .ok ()) (Dev.mmtMore ws)) s

def execMmv (h : Hdr) (t fI aW mm : Nat) (s : State) : Host.Outcome State Fault Refusal :=
  streamP h (·.matStart (.mmv h t fI aW mm) t fI 3 mm (fun _ => .ok ()) (Dev.mmvMore aW)) s

def execMmvHandle (h : Hdr) (t fI aW mm : Nat) (s : State) : Host.Outcome State Fault Refusal :=
  streamP h (·.matStart (.mmvHandle h t fI aW mm) t fI 4 mm (Dev.handleReady aW) (Dev.handleMore aW)) s

def execMldw (h : Hdr) (half _sc aN aL : Nat) (off : Int) (s : State) : Host.Outcome State Fault Refusal :=
  stream h (·.mldwOp half aN aL off) s

/-- MBCW (R168): its field holds the participants less one. -/
def execMbcw (h : Hdr) (half c p aN aL : Nat) (off : Int) (s : State) : Host.Outcome State Fault Refusal :=
  stream h (·.mbcwOp (.mbcw h half c p aN aL off) half c (p + 1) aN aL off) s

def execMzero (h : Hdr) (t : Nat) (s : State) : Host.Outcome State Fault Refusal := stream h (·.mzeroOp t) s

def execMdeq (h : Hdr) (td : Nat) (cs rs acc : Bool) (fD t fC : Nat) (s : State) : Host.Outcome State Fault Refusal :=
  stream h (·.mdeqOp td cs rs acc fD t fC) s

def execMstat (h : Hdr) (aD sel t : Nat) (s : State) : Host.Outcome State Fault Refusal := stream h (·.mstatOp aD sel t) s

/-- SLAB_COMPLETE (R160, R171). -/
def execSlabComplete (g : Nat) (s : State) : Host.Outcome State Fault Refusal := event (·.slabStep g) s

/-- MBCW_SESSION_DISSOLVE (R168). -/
def execMbcwSessionDissolve (cluster c : Nat) (s : State) : Host.Outcome State Fault Refusal := event (·.dissolve cluster c) s

/-- WEIGHT_SWAP (R156). -/
def execWeightSwap (core g : Nat) (s : State) : Host.Outcome State Fault Refusal := event (·.weightSwap core g) s

end Sys2Proof.Machine
end

