-- ==== Sys2Proof/Machine/Hash.lean ====
section
/-!
DEFINITION. SHA3-512, which spec/01_module.md names for every measurement (R11 to R17). The spec gives its name alone; the
algorithm is that of FIPS 202 (PRESUMED, log 8).
-/

namespace Sys2Proof.Machine

/-- A 64-bit lane rotated left. -/
def rotl64 (x n : Nat) : Nat := (x * 2 ^ n) % 2 ^ 64 + x / 2 ^ (64 - n) % 2 ^ n

/-- The rotation of each lane, at index x + 5y. -/
def keccakRot : List Nat :=
  [0, 1, 62, 28, 27, 36, 44, 6, 55, 20, 3, 10, 43, 25, 39, 41, 45, 15, 21, 8, 18, 2, 61, 56, 14]

/-- The round constants. -/
def keccakRc : List Nat :=
  [0x0000000000000001, 0x0000000000008082, 0x800000000000808A, 0x8000000080008000, 0x000000000000808B, 0x0000000080000001,
   0x8000000080008081, 0x8000000000008009, 0x000000000000008A, 0x0000000000000088, 0x0000000080008009, 0x000000008000000A]
  ++ [0x000000008000808B, 0x800000000000008B, 0x8000000000008089, 0x8000000000008003, 0x8000000000008002, 0x8000000000000080,
   0x000000000000800A, 0x800000008000000A, 0x8000000080008081, 0x8000000000008080, 0x0000000080000001, 0x8000000080008008]

/-- One round on 25 lanes. -/
def keccakRound (a : List Nat) (rc : Nat) : List Nat :=
  let l (m : List Nat) (x y : Nat) : Nat := m.getD (x % 5 + 5 * (y % 5)) 0
  let c := (List.range 5).map (fun x => l a x 0 ^^^ l a x 1 ^^^ l a x 2 ^^^ l a x 3 ^^^ l a x 4)
  let dd := (List.range 5).map (fun x => c.getD ((x + 4) % 5) 0 ^^^ rotl64 (c.getD ((x + 1) % 5) 0) 1)
  let t := (List.range 25).map (fun i => a.getD i 0 ^^^ dd.getD (i % 5) 0)
  let r := (List.range 25).map (fun i => rotl64 (t.getD i 0) (keccakRot.getD i 0))
  -- lane (x, y) of the next state comes from lane (x', y') with x = y' and y = 2x' + 3y'
  let b := (List.range 25).map (fun i => l r (i % 5 + 3 * (i / 5)) (i % 5))
  (List.range 25).map (fun i =>
    let x := i % 5
    let y := i / 5
    let v := l b x y ^^^ ((2 ^ 64 - 1 - l b (x + 1) y) &&& l b (x + 2) y)
    if i = 0 then v ^^^ rc else v)

/-- The permutation. -/
def keccak (a : List Nat) : List Nat := keccakRc.foldl keccakRound a

/-- A block of 72 bytes absorbed. -/
def absorb (a : List Nat) (bs : List Byte) : List Nat :=
  keccak ((List.range 25).map (fun i => a.getD i 0 ^^^ (if i < 9 then ofBytes ((bs.drop (8 * i)).take 8) else 0)))

/-- Blocks absorbed in order; the number bounds the recursion. -/
def absorbAll (a : List Nat) (bs : List Byte) : Nat → List Nat
  | 0 => a
  | n + 1 => if bs.isEmpty then a else absorbAll (absorb a (bs.take 72)) (bs.drop 72) n

/-- SHA3-512 of a list of bytes, as 64 bytes in order: a number, little-endian. -/
def sha3 (bs : List Byte) : Nat :=
  let k := 72 - bs.length % 72
  let tail : List Byte := if k = 1 then [0x86] else [0x06] ++ List.replicate (k - 2) 0 ++ [0x80]
  let m := bs ++ tail
  let a := absorbAll (List.replicate 25 0) m (m.length / 72)
  ofBytes (((a.take 8).map (toBytes 8)).flatten)

end Sys2Proof.Machine
end

