-- ==== Sys2Proof/Machine/Observe.lean ====
section
/-!
DEFINITION. Counters, stops and breakpoints (spec/21_observation.md R386 to R394), and the passing of time.
-/

namespace Sys2Proof.Machine
open Word

namespace Dev

/-! ### Counters (R386 to R388) -/

/-- The counters that a block has: 50 for a site, 7 for the module (block 144). -/
def counterCount (site : Nat) : Nat := if site < 144 then 50 else 7

/-- A counter block: that of a site, or the module-wide one as number 144. -/
def block (d : Dev) (site : Nat) : Counters := if site < 144 then Map.get {} d.syncClock.counters site else d.mcounters

/-- A counter block changed. -/
def setBlock (d : Dev) (site : Nat) (c : Counters) : Dev :=
  if site < 144 then { d.syncClock with counters := Map.set d.syncClock.counters site c } else { d with mcounters := c }

/-- A read of OBS_CNTRC clears the counter (R387). -/
def cntClear (d : Dev) (site i : Nat) : Dev :=
  if i < counterCount site then d.setBlock site (countCleared (d.block site) d.time i) else d

/-- OBS_CNTW written (R387). The cycle of a write to counter 0 of a site does not count. -/
def cntWrite (d : Dev) (site i : Nat) (v : Word) : Dev :=
  if i < counterCount site then
    let c := countWritten (d.block site) d.time i (v.toNat % 2 ^ 48)
    d.setBlock site (if i = 0 && site < 144 then { c with skip := true } else c)
  else d

/-- OBS_OVF written: each 1 clears its bit (R386, R387). -/
def ovfClear (d : Dev) (site : Nat) (v : Word) : Dev := d.setBlock site (ovfCleared (d.block site) d.time v)

/-! ### Stops (R391 to R393) -/

/-- The positions of a group's streams, S first. -/
def positions (g : Group) : List Nat := engines.map (fun e => (g.stream e).position)

/-- The stop status of a context's debug block. -/
def stopStatus (d : Dev) (n st : Nat) : Dev := d.setCtx n { d.ctx n with dbgStat := st }

/-- A stop that is complete (R393): the group is held, what has issued in it completes the step it is in, and OBS_POS takes its
positions. -/
def finishStop (d : Dev) (key st : Nat) : Dev :=
  let g := d.group key
  let n := ctxOf key
  let busy := engines.filter (fun e => (g.stream e).op.isSome)
  let d := d.setGroup key { g with
    state := if g.state = .running then .held else g.state, toStep := if g.state = .running then busy else g.toStep, stopped := true
    stopAt := none }
  d.setCtx n { d.ctx n with dbgStat := st, dbgPos := (List.range 4).zip (positions g) }

/-- Streams that hold in a STOPAT (R393): ended, at or past the target, or waiting for tokens of a stream that holds, which has pushed too
few. Each round adds those that wait for one of the round before. -/
def holding (g : Group) (ts : List Nat) : Nat → List Engine
  | 0 => engines.filter (fun e => !(g.stream e).declared || (g.stream e).retired || ts.getD e.num 0 ≤ (g.stream e).position)
  | n + 1 =>
    let hs := holding g ts n
    engines.filter (fun e => hs.contains e || (match (g.stream e).wait with
      | .token needs => needs.any (fun f => Map.get 0 g.tokens f.1 < f.2 && hs.contains (Engine.ofNum (f.1 / 3)))
      | _ => false))

/-- The end of a STOPAT once every stream holds (R393): ST 2 where one can no longer reach its target. A group that is not RUNNING has no
stream that issues, and one that has never been placed no position. -/
def stopCheck (d : Dev) (key : Nat) : Dev :=
  let g := d.group key
  match g.stopAt with
  | none => d
  | some ts =>
    if g.state != .running || (holding g ts 4).length < 4 then d
    else
      let reached (e : Engine) : Bool := !(g.stream e).declared || ts.getD e.num 0 ≤ (g.stream e).position
      d.finishStop key (if engines.all reached then 0 else 2)

/-- Every STOPAT whose streams all hold at the end of a cycle ends (R393). -/
def stopChecks (d : Dev) : Dev := (Map.keys (d.groups.filter (fun e => e.2.stopAt.isSome))).foldl stopCheck d

/-- Whether a stream stands at its STOPAT target. -/
def atTarget (g : Group) (e : Engine) : Bool :=
  match g.stopAt with
  | none => false
  | some ts => ts.getD e.num 0 ≤ (g.stream e).position

/-- A stop command of a context's debug block for a group index (R392, R393). -/
def stopCommand (d : Dev) (n g cmd : Nat) : Dev :=
  let d := d.setCtx n { d.ctx n with dbgGroup := g }
  let key := keyOf n g
  if (d.ctx n).state != .running && (d.ctx n).state != .faulted then d.stopStatus n 4
  else
    match Map.find d.groups key with
    | none => d.stopStatus n 3
    | some x =>
      if cmd = 1 then d.finishStop key 0
      else if cmd = 2 then
        let ts := (List.range 4).map (fun i => Map.get 0 (d.ctx n).dbgPos i)
        ((d.setGroup key { x with stopAt := some ts }).stopStatus n 1).stopCheck key
      else
        let free := x.entries.isEmpty && x.heldBy.isNone
        let d := d.setGroup key { x.release with
          stopped := false, stopAt := none, state := if x.stopped && free && x.state = .held then .running else x.state }
        d.stopStatus n 0

/-! ### Breakpoints (R394) -/

/-- Whether a breakpoint selects the head issue group of the stream that `cur` names. -/
def breakMatches (d : Dev) (b : Breakpoint) : Bool :=
  b.en && !d.cur.svc && b.strm == d.cur.eng.num && (b.gall || b.group == idxOf d.cur.key) && !d.grp.exempt.contains d.cur.eng && !d.stm.rest
    && (if b.mode then b.val.toNat % 2 ^ 48 == d.stm.position else b.val == d.cur.group)

/-- Whether a match makes a breakpoint fire. -/
def fires (b : Breakpoint) : Bool := max 1 b.count ≤ b.seen + 1

/-- The matches of the head issue group counted: the lowest breakpoint that fires, and the device with every SEEN changed. -/
def breakScan (d : Dev) : Option Nat × Dev :=
  let n := d.myCtx
  let c := d.ctx n
  if c.breaks.all (fun e => !d.breakMatches e.2) then (none, d)
  else
    let hit := c.breaks.filter (fun e => d.breakMatches e.2)
    let next (b : Breakpoint) : Breakpoint := if !d.breakMatches b then b else { b with seen := if fires b then 0 else b.seen + 1 }
    ((hit.find? (fun e => fires e.2)).map (·.1), d.setCtx n { c with breaks := Map.mapV next c.breaks })

end Dev

def execObsCntReadClear (site i : Nat) (s : State) : Host.Outcome State Fault Refusal :=
  event (fun d => if site ≤ 144 then d.cntClear site i else d) s

def execObsCntWrite (site i : Nat) (v : Word) (s : State) : Host.Outcome State Fault Refusal :=
  event (fun d => if site ≤ 144 then d.cntWrite site i v else d) s

def execObsOvfClear (site : Nat) (v : Word) (s : State) : Host.Outcome State Fault Refusal :=
  event (fun d => if site ≤ 144 then d.ovfClear site v else d) s

/-- STOP: OBS_STOP written with CMD 1 (R393). -/
def execDbgStop (n g : Nat) (s : State) : Host.Outcome State Fault Refusal := onCtx n (·.stopCommand n g 1) s

/-- STOPAT (R393). -/
def execDbgStopat (n g : Nat) (s : State) : Host.Outcome State Fault Refusal := onCtx n (·.stopCommand n g 2) s

/-- RELEASE (R393). -/
def execDbgRelease (n g : Nat) (s : State) : Host.Outcome State Fault Refusal := onCtx n (·.stopCommand n g 3) s

/-- A breakpoint that fires on the head issue group of the stream that `cur` names (R394): cause 0x21 with its number. -/
def execBreakpointFire (n b : Nat) (s : State) : Host.Outcome State Fault Refusal :=
  let c := s.dev.ctx n
  let x := Map.get {} c.breaks b
  if n = s.dev.myCtx && s.dev.breakMatches x then
    let d := s.dev.setCtx n { c with breaks := Map.upd {} c.breaks b (fun (y : Breakpoint) => { y with seen := 0 }) }
    conclude { s with dev := d } (Sys2Proof.Machine.trap 0x21 b)
  else event id s

end Sys2Proof.Machine
end

