-- ==== Sys2Proof/Machine/Module.lean ====
section
/-!
DEFINITION. The module and its life, its configuration record, its commands (spec/01_module.md R10 to R20), the site panel
(spec/21_observation.md R396) and the self-test of a control core (spec/19_core.md R372).
-/

namespace Sys2Proof.Machine
open Word

/-- The code of a module state (R10). -/
def Life.code : Life → Nat
  | .off => 0
  | .romBoot => 1
  | .config => 2
  | .attest => 3
  | .ready => 4
  | .degraded => 5
  | .sealedOff => 6

/-- The bits that are set in a mask of `n` bits. -/
def popcount (x n : Nat) : Nat := ((List.range n).filter (flag x)).length

/-! ### The configuration record (R13 to R15) -/

/-- Bytes 0x0000 to 0x0FFF of a record, which its signature covers (R13). -/
def Record.body (r : Record) : List Byte :=
  toBytes 4 r.magic ++ toBytes 4 r.version ++ toBytes 8 r.seq ++ toBytes 4 r.minimum ++ toBytes 4 0
    ++ (List.range 144).map (fun s => BitVec.ofNat 8 (r.sites.getD s 0))
    ++ (List.range 128).map (fun n => BitVec.ofNat 8 (r.map.getD n 0))
    ++ toBytes 8 r.lakeMask ++ toBytes 1 r.nvmeMask ++ toBytes 7 0 ++ toBytes 64 r.trimHash ++ toBytes 2592 r.pubKey
    ++ toBytes 1128 0

/-- A record as the 12 KiB of a slot (R13). -/
def Record.bytes (r : Record) : List Byte := r.body ++ toBytes 4627 r.sig ++ toBytes 3565 0

/-- A record is good but for its signature (R14). -/
def Record.contentOk (r : Record) : Bool :=
  r.magic == 0x4B434647 && r.version == 1 && r.sites.length == 144 && r.map.length == 128 && r.sites.all (· ≤ 3)
    && ((List.range 128).zip r.map).all (fun e =>
      e.2 == 0xFF || (e.2 / 9 == e.1 / 8 && e.2 < 144 && (r.sites.getD e.2 2 == 0 || r.sites.getD e.2 2 == 3)))
    && decide (r.map.filter (· != 0xFF)).Nodup
    && r.trimHash == Config.trimHash

/-- A copy is valid (R14). -/
def Record.valid (r : Record) : Bool := r.contentOk && Config.mldsaVerify r.pubKey r.body r.sig

/-- The valid copy with the higher sequence number, copy A where they are equal (R14): whether it is copy B, and the record. -/
def selectRecord (a b : Record) : Option (Bool × Record) :=
  match a.valid, b.valid with
  | false, false => none
  | true, false => some (false, a)
  | false, true => some (true, b)
  | true, true => if a.seq < b.seq then some (true, b) else some (false, a)

namespace Dev

/-- A record applied (R11, R362): sites, core map and masks. -/
def applyRecord (d : Dev) (r : Record) : Dev :=
  let site (i : Nat) : Nat × Site :=
    let n := ((List.range 128).find? (fun n => r.map.getD n 255 == i)).getD 0xFF
    (i, { state := SState.ofCode (r.sites.getD i 2), lcore := n })
  { d with
    sites := (List.range 144).map site, lcores := (List.range 128).map (fun n => (n, r.map.getD n 255)),
    lakeMask := BitVec.ofNat 64 r.lakeMask, nvmeMask := r.nvmeMask }

/-- Lake channels mapped out (R20): the copies of their lines that stashes and L1 caches hold keep their data until they are evicted, each
in a line of its own. -/
def loseLake (d : Dev) (mask : Word) : Dev :=
  let d' := { d with lakeMask := d.lakeMask ||| mask }
  let newly (l : Nat) : Bool := !d.lostLine l && d'.lostLine l
  let keep (x : Dev) (holder l : Nat) : Dev :=
    ({ x with mem := x.mem.writeBytes (64 * keptLine holder l) (d.lds (64 * l) 64) }).setLinePoison (keptLine holder l) (d.linePoisoned l)
  let entries (e : Nat × Group) : List (Nat × Nat) := (e.2.stash.filter (fun x => newly x.2.phys)).map (fun x => (e.1, x.2.phys))
  let lines (e : Nat × Core) : List (Nat × Nat) := (e.2.l1.filter (fun x => newly x.line)).map (fun x => (l1Holder e.1, x.line))
  let d1 := (d.groups.flatMap entries ++ d.cores.flatMap lines).foldl (fun x e => keep x e.1 e.2) d'
  let moved (k : Nat) (x : StashEntry) : StashEntry := if newly x.phys then { x with phys := keptLine k x.phys } else x
  { d1 with
    groups := d1.groups.map (fun e => (e.1, { e.2 with stash := Map.mapV (moved e.1) e.2.stash })),
    cores := Map.mapV (fun (c : Core) => { c with l1 := c.l1.map (fun x => if newly x.line then { x with kept := true } else x) }) d1.cores }

/-- What the boot self-test found (R11, R20): failed sites are mapped out, their numbers handed on (log 36). -/
def applySelfTest (d : Dev) (t : SelfTest) : Dev :=
  let bad := t.sites.filter (fun s => s < 144 && (d.site s).state != .mappedOut)
  let d := (bad.filter (fun s => (d.site s).state == .spare)).foldl freezeSite d
  let d := (bad.filter (fun s => (d.site s).state != .mappedOut)).foldl (fun d s =>
    d.handOn s (((sitesOf (s / 9)).find? (fun y => (d.site y).state == .spare && !bad.contains y)).getD 255)) d
  { d with lakeMask := d.lakeMask ||| BitVec.ofNat 64 t.lakeMask, nvmeMask := d.nvmeMask ||| t.nvmeMask % 256 }

/-- The site byte of a new record (R13): a site that is being migrated keeps the byte it had. -/
def siteByte (d : Dev) (old : Record) (s : Nat) : Nat :=
  let x := d.site s
  match x.state with
  | .frozen => old.sites.getD s 0
  | .migrating => old.sites.getD s 0
  | .retained => x.prev.code
  | .gated => x.prev.code
  | st => st.code

/-- The record that the device's state asks for (R15), not yet signed. -/
def nextRecord (d : Dev) (old : Record) (minimum : Nat) : Record :=
  { old with
    seq := old.seq + 1, minimum := minimum, sites := (List.range 144).map (d.siteByte old),
    map := (List.range 128).map d.siteOf, lakeMask := d.lakeMask.toNat, nvmeMask := d.nvmeMask }

/-- A seal-off kills every context with a record tied to no group (R11, R212). -/
def killAll (d : Dev) : Dev := (List.range 64).foldl (fun d n => d.killContext n 0x30 (some { cause := 0x30 })) d

end Dev

/-- The module's losses make it DEGRADED (R11). -/
def lossy (d : Dev) : Bool := d.absentCores != 0 || d.lakeMask != 0 || d.nvmeMask != 0

/-- A seal-off (R11): the first cause stays; a running service image is aborted (R18). -/
def sealOff (cause : Nat) (s : State) : State :=
  { s with
    mod := { s.mod with life := .sealedOff, sealCause := if s.mod.sealCause = 0 then cause else s.mod.sealCause, runImage := [] },
    dev := s.dev.killAll }

/-- A rewrite of the record (R15): the inactive slot is written, read back and checked as R14 asks, signature included, and only
then switched to. -/
def rewriteRecord (minimum : Nat) (s : State) : State :=
  let m := s.mod
  let r := s.dev.nextRecord m.active minimum
  let r := { r with sig := Config.mldsaSign s.dev.fresh r.body }
  let put (m : Mod) : Mod := if m.copyB then { m with copyA := r } else { m with copyBRec := r }
  let m := put m
  let dev := { s.dev with fresh := s.dev.fresh + 1 }
  if r.valid then { s with mod := { m with copyB := !m.copyB, active := r, slot1 := sha3 r.bytes }, dev := dev }
  else { s with mod := m, dev := dev }

/-- Whether the state asks for a record other than the active one (R15). -/
def recordStale (s : State) : Bool :=
  s.mod.inForce && s.dev.nextRecord s.mod.active s.mod.active.minimum != { s.mod.active with seq := s.mod.active.seq + 1 }

/-! ### Registers of the module (R12, R396) -/

/-- MOD_STATE (R12). The counts read zero until a record is in force. -/
def modState (m : Mod) (d : Dev) : Nat :=
  if m.life = .off then 0
  else
    m.life.code + m.sealCause * 2 ^ 16
      + (if m.inForce then
          bit m.copyB * 2 ^ 4 + bit (d.lakeMask != 0) * 2 ^ 5 + bit (d.nvmeMask != 0) * 2 ^ 6 + d.absentCores * 2 ^ 8
            + d.sparesLeft * 2 ^ 24 + m.active.seq % 2 ^ 16 * 2 ^ 32
        else 0)

/-- A register with its LEVEL in [63:56]. -/
def leveled (level rest : Nat) : Nat := rest + level * 2 ^ 56

/-- The panel registers but SITE_SUM, from readings and state (R396), from SITE_TEMP0 on. What the boot self-test found of channels and
controllers shows in SITE_TIER before a record is in force (R11). -/
def panelRegs (p : Panel) (m : Mod) (d : Dev) : List Nat :=
  let temp (t : Nat) : Nat :=
    let x := p.temps.getD t 0
    let lim := (Config.tripLimit t).toInt
    leveled (if lim ≤ x then 2 else if lim - 100 ≤ x then 1 else 0) (ofInt x 16 + (Config.tripLimit t).toNat * 2 ^ 16)
  let rail (r : Nat) : Nat :=
    let mv : Nat := p.rails.getD r 0 % 2 ^ 16
    let nom : Nat := (Config.railNominal r).toNat
    let off := ((mv : Int) - nom).natAbs * 100
    leveled (if 5 * nom < off then 2 else if 3 * nom < off then 1 else 0) (mv + nom * 2 ^ 16)
  let suspect := ((List.range 144).filter (fun s => (d.site s).state == .suspect)).length
  let cores :=
    if !m.inForce then 0
    else
      leveled (if d.absentCores != 0 then 2 else if d.sparesLeft < 16 || suspect != 0 then 1 else 0)
        (128 - d.absentCores + d.absentCores * 2 ^ 8 + d.sparesLeft * 2 ^ 16 + suspect * 2 ^ 24)
  let l := d.lifetime
  let err := l.block + l.poison * 2 ^ 16 + l.uncorr * 2 ^ 32 + l.corr * 2 ^ 48
  let link (i : Nat) : Nat :=
    let x := d.link i
    let level := match x.state with
      | .degraded => 1
      | .recovering => 1
      | .fenced => 2
      | .down => if x.everUp then 2 else 0
      | _ => 0
    leveled level (x.width + x.rate * 2 ^ 16 + x.state.code * 2 ^ 32 + x.losses * 2 ^ 40)
  let tested (f : SelfTest → Nat) : Nat := if m.inForce then 0 else (m.test.map f).getD 0
  let fctl := 8 - popcount (d.nvmeMask ||| tested (·.nvmeMask)) 8
  let lchan := 64 - popcount (d.lakeMask.toNat ||| tested (·.lakeMask)) 64
  let faulted := (d.res.copies.filter (fun e => e.2.state == .faulted)).length
  let wear := min p.wear 100
  let tier := leveled (if fctl = 0 || wear = 100 then 2 else if fctl != 8 || lchan != 64 || 80 ≤ wear then 1 else 0)
    (faulted + lchan * 2 ^ 32 + fctl * 2 ^ 40 + wear * 2 ^ 48)
  (List.range 7).map temp ++ (List.range 8).map rail ++ [p.now % 2 ^ 32 + p.peak % 2 ^ 32 * 2 ^ 32, cores, err]
    ++ (List.range 3).map link ++ [tier, p.seconds % 2 ^ 64]

/-- Whether a panel register carries a LEVEL, by its place after SITE_SUM (R396): all but SITE_POWER, SITE_ERR, SITE_UP. -/
def hasLevel (i : Nat) : Bool := i != 15 && i != 17 && i != 22

/-- SITE_SUM from the other registers (R396). -/
def panelSum (m : Mod) (rs : List Nat) : Nat :=
  let ls := ((List.range rs.length).zip rs).map (fun e => if hasLevel e.1 then e.2 / 2 ^ 56 else 0)
  let n (k : Nat) : Nat := (ls.filter (· == k)).length
  leveled (ls.foldl max 0) (m.life.code + m.sealCause * 2 ^ 16 + n 2 * 2 ^ 40 + n 1 * 2 ^ 48)

/-- A sample taken of the whole panel (R396). -/
def takeSample (q : Sample) (s : State) : State :=
  let p := s.mod.panel
  let p := { p with
    temps := q.temps, rails := q.rails, now := q.power, peak := max p.peak q.power, wear := q.wear, seconds := q.seconds }
  let rs := panelRegs p s.mod s.dev
  let regs := ((List.range 24).zip (panelSum s.mod rs :: rs)).map (fun e => (e.1, BitVec.ofNat 64 e.2))
  { s with mod := { s.mod with panel := { p with regs := regs } } }

/-- A panel register as the last sample left it; before the first one, its reset value (R396). -/
def panelReg (m : Mod) (i : Nat) : Nat :=
  match Map.find m.panel.regs i with
  | some w => w.toNat
  | none =>
    if i = 0 then 1
    else if i < 8 then (Config.tripLimit (i - 1)).toNat * 2 ^ 16
    else if i < 16 then (Config.railNominal (i - 8)).toNat * 2 ^ 16
    else 0

/-! ### Commands (R18, R19) -/

/-- A command completed: its response. -/
def respond (st : Nat) (bs : List Byte) (s : State) : State := { s with mod := { s.mod with response := some ⟨st, bs⟩ } }

/-- The service image that RUN_IMAGE started is over (R18). -/
def imageOver (s : State) : State := { s with mod := { s.mod with runImage := [] } }

/-- A command in the states that allow it (R18, R19). -/
def allowedIn (allowed : Life → Bool) (run : State → State) (s : State) : State := if allowed s.mod.life then run s else respond 0x02 [] s

/-- A command of the ROM (R18, R19); no power, no command. The RUN_IMAGE of an image runs as long as the image does, and a command that
arrives on a transport meanwhile is BUSY; one that finds the management core free finds the image over. A command that the image itself
issues (R17) leaves it running. Every other command is over in its own step (log 69). -/
def command (c : Caller) (allowed : Life → Bool) (run : State → State) (s : State) : Host.Outcome State Fault Refusal :=
  .next (if s.mod.life = .off then s
    else
      match c with
      | .image => if s.mod.runImage.isEmpty then s else allowedIn allowed run s
      | .transport running =>
        if running && !s.mod.runImage.isEmpty then respond 0x01 [] s else allowedIn allowed run (imageOver s))

/-- The states of GET_IDENTITY: ATTEST and later, where management commands run (R10, R18). -/
def Life.attested : Life → Bool
  | .attest => true
  | .ready => true
  | .degraded => true
  | _ => false

/-- An event of the module's life in given states. -/
def lifeEvent (ok : Life → Bool) (f : State → State) (s : State) : Host.Outcome State Fault Refusal :=
  .next (if ok s.mod.life then f s else s)

/-- Power becomes good (R11): the ROM measures itself. -/
def execAllRailsGood (s : State) : Host.Outcome State Fault Refusal :=
  lifeEvent (· == .off) (fun s => { s with mod := { s.mod with life := .romBoot, slot0 := Config.romMeasurement } }) s

/-- The boot self-test completes (R11). -/
def execSelfTestDone (r : SelfTest) (s : State) : Host.Outcome State Fault Refusal :=
  lifeEvent (· == .romBoot) (fun s =>
    let s := { s with mod := { s.mod with test := some r } }
    if r.ioFail || r.allDiesFail then sealOff 0x01 s else { s with mod := { s.mod with life := .config } }) s

/-- A copy is selected and applied, or neither is valid (R11, R14, R16). -/
def selectAndApply (s : State) : State :=
  match selectRecord s.mod.copyA s.mod.copyBRec with
  | none => sealOff 0x02 s
  | some (b, r) =>
    let d := s.dev.applyRecord r
    let d := match s.mod.test with
      | some t => d.applySelfTest t
      | none => d
    { s with
      mod := { s.mod with life := .attest, copyB := b, active := r, inForce := true, slot1 := sha3 r.bytes, slot2 := Config.trimHash },
      dev := d }

def execConfigRecordSelected (s : State) : Host.Outcome State Fault Refusal := lifeEvent (· == .config) selectAndApply s

/-- The key is derived (R11, R16). -/
def execIdentityDerived (s : State) : Host.Outcome State Fault Refusal :=
  lifeEvent (· == .attest) (fun s =>
    if s.mod.active.pubKey != Config.derivedKey then sealOff 0x06 s
    else
      let bad := lossy s.dev || !((s.mod.test.map (·.sites)).getD []).isEmpty
      { s with mod := { s.mod with life := if bad then .degraded else .ready } }) s

/-- Power is lost (R11, R15): nothing persists but flash. -/
def execPowerRemoved (s : State) : Host.Outcome State Fault Refusal :=
  .next { s with
    mod := { life := .off, copyA := s.mod.copyA, copyBRec := s.mod.copyBRec, flash := s.mod.flash },
    dev := { fresh := s.dev.fresh } }

def execThermalTrip (s : State) : Host.Outcome State Fault Refusal := lifeEvent Life.works (sealOff 0x04) s

def execRailFault (s : State) : Host.Outcome State Fault Refusal := lifeEvent Life.works (sealOff 0x05) s

/-- A rewrite where the record in force no longer says what the device is (R15). -/
def execRecordRewrite (s : State) : Host.Outcome State Fault Refusal :=
  lifeEvent Life.works (fun s => if recordStale s then rewriteRecord s.mod.active.minimum s else s) s

/-- GET_STATE: MOD_STATE and the state code of each site. -/
def execGetState (c : Caller) (s : State) : Host.Outcome State Fault Refusal :=
  command c (fun _ => true) (fun s =>
    respond 0 (toBytes 8 (modState s.mod s.dev) ++ (List.range 144).map (fun i => BitVec.ofNat 8 (s.dev.site i).state.code)) s) s

def execGetIdentity (c : Caller) (s : State) : Host.Outcome State Fault Refusal :=
  command c Life.attested (respond 0 (toBytes 2592 Config.derivedKey)) s

/-- ATTEST: the nonce, the measurement slots and MOD_STATE, and a signature over them (R16, R18, R19). -/
def execAttest (c : Caller) (nonce : List Byte) (s : State) : Host.Outcome State Fault Refusal :=
  command c Life.works (fun s =>
    if nonce.length != 64 then respond 0x05 [] s
    else
      let m := s.mod
      let body := nonce ++ toBytes 64 m.slot0 ++ toBytes 64 m.slot1 ++ toBytes 64 m.slot2 ++ toBytes 64 m.slot3
        ++ toBytes 8 (modState m s.dev)
      let sig := Config.mldsaSign s.dev.fresh body
      respond 0 (body ++ toBytes 4627 sig) { s with dev := { s.dev with fresh := s.dev.fresh + 1 } }) s

def execReadConfig (c : Caller) (s : State) : Host.Outcome State Fault Refusal :=
  command c (fun _ => true) (fun s => respond 0 s.mod.active.bytes s) s

/-- MAP_OUT of a unit: 0 site, 1 Lake channel, 2 NVMe controller (R18, R20). -/
def mapOutUnit (kind index : Nat) (s : State) : State :=
  let worse (s : State) : State := { s with mod := { s.mod with life := .degraded } }
  if kind = 0 && index < 144 then
    if s.dev.freezeRefused (index / 9) index then respond 0x02 [] s else respond 0 [] { s with dev := s.dev.freezeSite index }
  else if kind = 1 && index < 64 then
    respond 0 [] (worse { s with dev := s.dev.loseLake (BitVec.ofNat 64 (2 ^ index)) })
  else if kind = 2 && index < 8 then
    respond 0 [] (worse { s with dev := { s.dev with nvmeMask := s.dev.nvmeMask ||| 2 ^ index } })
  else respond 0x05 [] s

def execMapOut (c : Caller) (kind index : Nat) (s : State) : Host.Outcome State Fault Refusal :=
  command c Life.works (mapOutUnit kind index) s

/-- LOAD_IMAGE (R18, R19). -/
def execLoadImage (c : Caller) (off : Nat) (data : List Byte) (s : State) : Host.Outcome State Fault Refusal :=
  command c Life.works (fun s =>
    let old := if off = 0 then [] else s.mod.image
    if data.isEmpty || 4096 < data.length || off != old.length || 2 ^ 20 < old.length + data.length then respond 0x05 [] s
    else respond 0 [] { s with mod := { s.mod with image := old ++ data } }) s

/-- The status of a service image (R17, R19). -/
def imageStatus (bs : List Byte) (minimum : Nat) : Nat :=
  let at_ (o n : Nat) : Nat := ofBytes ((bs.drop o).take n)
  let body := at_ 0xC 4
  let key := (bs.drop 0x10).take 2592
  let signed := bs.take (0xA30 + body)
  if at_ 0 4 != 0x4B535649 || 0xA30 + body + 4627 != bs.length || 2 ^ 20 < bs.length then 0x05
  else if sha3 key != Config.serviceKeyHash
      || !Config.mldsaVerify (ofBytes key) signed (ofBytes (bs.drop (0xA30 + body))) then 0x03
  else if at_ 4 4 < minimum then 0x04
  else if at_ 4 4 < at_ 8 4 then 0x05
  else 0

/-- RUN_IMAGE (R17): the minimum raised first; only once the rewritten record is in force is the image measured and run. Where the new
record fails its read-back the command has not succeeded and so changes nothing (R19); R17 gives that case no status, and the model
answers 0x03 (log 90). -/
def runImageNow (s : State) : State :=
  let bs := s.mod.image
  let st := imageStatus bs s.mod.active.minimum
  if st != 0 then respond st [] s
  else
    let want := ofBytes ((bs.drop 8).take 4)
    let t := if s.mod.active.minimum < want then rewriteRecord want s else s
    if t.mod.active.minimum < want then respond 0x03 [] { s with dev := t.dev }
    else respond 0 [] { t with mod := { t.mod with slot3 := sha3 bs, runImage := bs } }

def execRunImage (c : Caller) (s : State) : Host.Outcome State Fault Refusal := command c Life.works runImageNow s

def execSealOff (c : Caller) (s : State) : Host.Outcome State Fault Refusal :=
  command c Life.works (fun s => respond 0 [] (sealOff 0x03 s)) s

/-- READ_PANEL: registers of one sample, from an offset in 8-byte registers (R396). -/
def execReadPanel (c : Caller) (off cnt : Nat) (s : State) : Host.Outcome State Fault Refusal :=
  command c (fun _ => true) (fun s =>
    respond 0 ((List.range cnt).map (fun i => toBytes 8 (panelReg s.mod (off + i)))).flatten s) s

/-- An opcode that the table of R18 does not list (R19). -/
def execUnknownCommand (c : Caller) (opcode : Nat) (s : State) : Host.Outcome State Fault Refusal :=
  if 0xC000 ≤ opcode && opcode ≤ 0xC008 then .next s else command c (fun _ => true) (respond 0x06 []) s

def execPanelSample (p : Sample) (s : State) : Host.Outcome State Fault Refusal :=
  lifeEvent (· != .off) (takeSample p) s

/-- The self-test of a control core that has met a freeze trigger (R372): it takes groups again, or the module seals off. -/
def execControlCoreSelfTest (tcc pass : Bool) (s : State) : Host.Outcome State Fault Refusal :=
  let n := if tcc then 0xF1 else 0xF0
  lifeEvent Life.works (fun s =>
    if !(s.dev.core n).frozen then s
    else
      let s := { s with dev := s.dev.setCore n {} }
      if pass then s else sealOff 0x01 s) s

end Sys2Proof.Machine
end

