-- ==== Sys2Proof/Machine/MmioRead.lean ====
section
/-!
DEFINITION. What the registers of the MMIO window read as (spec/00_scope.md R7 and the register tables of every chapter).
-/

namespace Sys2Proof.Machine
open Word

/-- The code of a context state (R192). -/
def CtxState.code : CtxState → Nat
  | .free => 0
  | .created => 1
  | .running => 2
  | .faulted => 3
  | .saving => 4
  | .saved => 5
  | .killed => 6

/-- The code of a queue state (R215). -/
def QState.code : QState → Nat
  | .free => 0
  | .opened => 1
  | .closed => 2
  | .broken => 3

namespace Dev

/-- A control core's placement block (R342). -/
def ccg (d : Dev) (tcc : Bool) : Place := if tcc then d.tccg else d.fccg

def setCcg (d : Dev) (tcc : Bool) (p : Place) : Dev := if tcc then { d with tccg := p } else { d with fccg := p }

/-- MOD_FCCG and MOD_TCCG (R342). -/
def readCcg (p : Place) (o : Nat) : Nat :=
  match o with
  | 0x00 => p.kbase.toNat
  | 0x08 => p.arg.toNat
  | 0x10 => p.ctx * 2 ^ 8 + p.st * 2 ^ 48 + bit p.busy * 2 ^ 63
  | _ => 0

/-- The block of a cluster (R182, R363, R373). -/
def readCluster (d : Dev) (c o : Nat) : Nat :=
  let x := d.cluster c
  if 0x100 ≤ o && o < 0x190 then
    let s := d.site (9 * c + (o - 0x100) / 0x10)
    if o % 0x10 = 0 then s.state.code + s.prev.code * 2 ^ 4 + s.lcore * 2 ^ 32 + s.cmdst * 2 ^ 40 + s.corr * 2 ^ 48 else 0
  else
    match o with
    | 0x000 => x.lease
    | 0x010 => x.errthr
    | 0x308 => x.power.code + (d.clusterGroups c).length * 2 ^ 16 + x.wcause * 2 ^ 40 + x.pwrCmdst * 2 ^ 48
      + bit (x.power == .waking || x.pwrNext.isSome) * 2 ^ 63
    | 0x318 => x.rbase * 2 ^ 12
    | 0x320 => x.ctime
    | _ => 0

/-- The block of a context (R192, R314). -/
def readCtx (d : Dev) (n o : Nat) : Nat :=
  let c := d.ctx n
  match o with
  | 0x00 => c.prio * 2 ^ 8 + c.asid * 2 ^ 16 + c.key * 2 ^ 32
  | 0x08 => c.maxq + c.clumask * 2 ^ 16 + c.maxgrp * 2 ^ 32
  | 0x10 => c.fqSize + c.fqBase * 2 ^ 12
  | 0x18 => c.tail + c.head * 2 ^ 32
  | 0x20 => c.img * 2 ^ 12
  | 0x28 => c.ptbr * 2 ^ 12
  | 0x30 => c.state.code + (d.residents n).length * 2 ^ 16 + c.cmdst * 2 ^ 48 + c.killcause * 2 ^ 56
  | _ => 0

/-- A queue descriptor (R215). -/
def readQueue (d : Dev) (n o : Nat) : Nat :=
  let q := d.queue n
  match o with
  | 0x00 => q.cctx * 2 ^ 36 + q.pctx * 2 ^ 42 + q.own * 2 ^ 48 + bit q.wide * 2 ^ 55 + q.logd * 2 ^ 56 + q.kind * 2 ^ 60
  | 0x08 => q.base * 2 ^ 12
  | 0x10 => q.state.code + q.entries.length * 2 ^ 16 + q.drop * 2 ^ 32 + q.cmdst * 2 ^ 48
  | _ => 0

/-- The registers of a model (R293). -/
def readModel (d : Dev) (m o : Nat) : Nat :=
  let x := d.model m
  match o with
  | 0x00 => x.etbase * 2 ^ 12
  | 0x08 => bit x.valid + bit x.busy * 2 + x.expm1 * 2 ^ 32 + x.laym1 * 2 ^ 48
  | 0x10 => x.ctxmask.toNat
  | _ => 0

/-- The residency registers of a context (R297). -/
def readRes (d : Dev) (n o : Nat) : Nat :=
  let c := d.ctx n
  match o with
  | 0x00 => c.resPol
  | 0x08 => c.resBudget
  | 0x10 => c.resTq
  | _ => 0

/-- The module-wide residency registers (R298). -/
def readResMod (d : Dev) (o : Nat) : Nat :=
  match o with
  | 0x00 => d.res.plainRate + d.res.lakeRate * 2 ^ 16 + d.res.rate * 2 ^ 32
  | 0x08 => d.res.lpool * 2 ^ 12
  | 0x10 => d.res.lpoolN
  | 0x18 => d.freePond.length * 2 ^ 21 + d.pinnedFrames * 2 ^ 34 + d.res.copies.length * 2 ^ 47
  | _ => 0

/-- The registers of a sampler unit (R344, R346). -/
def readSampler (d : Dev) (j o : Nat) : Nat :=
  let u := d.sampler j
  if o = 0 then u.rq + bit u.en * 2 ^ 12
  else if o = 8 then d.ustat j
  else if 0x4000 ≤ o && o < 0x8000 then
    Map.get 0 u.prog ((o - 0x4000) / 4) + Map.get 0 u.prog ((o - 0x4000) / 4 + 1) * 2 ^ 32
  else if 0x8000 ≤ o then (d.seq j ((o - 0x8000) / 0x80)).read (o % 0x80)
  else 0

/-- The registers of a port (R382). -/
def readLink (d : Dev) (p o : Nat) : Nat :=
  let l := d.link p
  if o = 0 then
    l.state.code + l.width * 2 ^ 8 + l.rate * 2 ^ 16 + l.flit * 2 ^ 24 + bit l.ide * 2 ^ 32 + l.fcause * 2 ^ 40 + l.losses * 2 ^ 48
  else if o = 8 then bit (l.allow68 && p == 0) * 4
  else if o = 0x10 then (if p = 0 then 0 else l.win)
  else if p = 0 && 0x100 ≤ o && o < 0x180 then
    let x := Map.get {} l.decoders ((o - 0x100) / 0x10)
    if o % 0x10 = 0 then bit x.en + x.size * 2 ^ 12 + x.base * 2 ^ 28 else x.hbase * 2 ^ 28
  else 0

/-- The three views of a counter block, and its overflow register (R386, R388). -/
def readCounters (d : Dev) (site o : Nat) : Nat :=
  if o < 0x600 then (if o % 0x200 / 8 < counterCount site then countSeenIn (d.block site) d.time (o % 0x200 / 8) else 0)
  else if o = 0x600 then (d.block site).ovf.toNat
  else 0

/-- The debug block of a context (R392). -/
def readDebug (d : Dev) (n o : Nat) : Nat :=
  let c := d.ctx n
  if o = 0 then c.dbgGroup * 2 ^ 16 + c.dbgStat * 2 ^ 48
  else if o ≤ 0x20 then Map.get 0 c.dbgPos (o / 8 - 1)
  else if 0x100 ≤ o && o < 0x180 then
    let b := Map.get {} c.breaks ((o - 0x100) / 0x10)
    if o % 0x10 = 0 then b.val.toNat
    else b.seen + b.count * 2 ^ 16 + b.group * 2 ^ 43 + bit b.gall * 2 ^ 59 + b.strm * 2 ^ 60 + bit b.mode * 2 ^ 62 + bit b.en * 2 ^ 63
  else 0

/-- The core blocks (R204): logical cores, then the FCC and the TCC. -/
def coreOfBlock (i : Nat) : Nat := if i < 128 then i else 0xF0 + (i - 128)

def readCoreBlock (d : Dev) (i o : Nat) : Nat :=
  let n := coreOfBlock i
  if n < 128 && d.isAbsent n then 0
  else if o = 0 then (d.core n).svec.toNat
  else if o = 8 then (d.core n).svcwm
  else 0

/-- The 64-bit register at an offset that is a multiple of 8; zero where no register is (R7). -/
def mmioRead (m : Mod) (d : Dev) (off : Nat) : Nat :=
  if off = 0 then modState m d
  else if off = 0x40 then d.sptbr * 2 ^ 12
  else if off = 0x48 then d.tlba.toNat
  else if off = 0x50 then d.tlbl.toNat
  else if off = 0x58 then d.tlbAsid + d.tlbKind * 2 ^ 16 + d.tlbStatus * 2 ^ 48 + bit (d.tlbBusy && d.drains) * 2 ^ 63
  else if 0x80 ≤ off && off < 0x98 then readCcg d.fccg (off - 0x80)
  else if 0xA0 ≤ off && off < 0xB8 then readCcg d.tccg (off - 0xA0)
  else if 0x200000 ≤ off && off < 0x210000 then d.readCluster ((off - 0x200000) / 0x1000) (off % 0x1000)
  else if 0x300000 ≤ off && off < 0x304000 then d.readCtx ((off - 0x300000) / 0x100) (off % 0x100)
  else if 0x310000 ≤ off && off < 0x350000 then
    let x := Map.get {} (d.ctx ((off - 0x310000) / 0x1000)).xkeys (off % 0x1000 / 0x80)
    if off % 0x1000 < 0x800 && off % 0x80 = 0x40 then bit x.valid else 0
  else if 0x400000 ≤ off && off < 0x440000 then d.readQueue ((off - 0x400000) / 0x40) (off % 0x40)
  else if 0x500000 ≤ off && off < 0x501FE0 then d.readModel ((off - 0x500000) / 0x20) (off % 0x20)
  else if 0x502000 ≤ off && off < 0x503000 then d.readRes ((off - 0x502000) / 0x40) (off % 0x40)
  else if 0x504000 ≤ off && off < 0x504020 then d.readResMod (off - 0x504000)
  else if 0x600000 ≤ off && off < 0x640000 then d.readSampler ((off - 0x600000) / 0x10000) (off % 0x10000)
  else if 0x700000 ≤ off && off < 0x703000 then d.readLink ((off - 0x700000) / 0x1000) (off % 0x1000)
  else if off = 0x800000 then d.time % 2 ^ 64
  else if 0x800100 ≤ off && off < 0x800708 then d.readCounters 144 (off - 0x800100)
  else if 0x810000 ≤ off && off < 0x8A0000 then d.readCounters ((off - 0x810000) / 0x1000) (off % 0x1000)
  else if 0x8C0000 ≤ off && off < 0x8D0000 then d.readDebug ((off - 0x8C0000) / 0x400) (off % 0x400)
  else if 0x900000 ≤ off && off < 0x902080 then d.readCoreBlock ((off - 0x900000) / 0x40) (off % 0x40)
  else if 0xA00000 ≤ off && off < 0xA000C0 then panelReg m ((off - 0xA00000) / 8)
  else 0

/-- A counter's low or high half cleared by a read of it (R387); a whole read clears all of it. -/
def clearHalf (d : Dev) (site i : Nat) (lo hi : Bool) : Dev :=
  let v := countSeenIn (d.block site) d.time i
  let keep := (if lo then 0 else v % 2 ^ 32) + (if hi then 0 else v / 2 ^ 32 * 2 ^ 32)
  if i < counterCount site then d.setBlock site (countCleared (d.block site) d.time i keep) else d

/-- What a read does to the fields it reads that a read clears (R7, R215, R344, R386): `lo` and `hi` are the halves read. -/
def mmioReadEffect (d : Dev) (off : Nat) (lo hi : Bool) : Dev :=
  if 0x400000 ≤ off && off < 0x440000 then
    if off % 0x40 = 0x10 && hi then d.setQueue ((off - 0x400000) / 0x40) { d.queue ((off - 0x400000) / 0x40) with drop := 0 } else d
  else if 0x600000 ≤ off && off < 0x640000 then
    if off % 0x10000 = 8 && hi then d.smpDropRead ((off - 0x600000) / 0x10000) else d
  else if 0x800300 ≤ off && off < 0x800500 then d.clearHalf 144 ((off - 0x800300) / 8) lo hi
  else if 0x810000 ≤ off && off < 0x8A0000 then
    let o := off % 0x1000
    if 0x200 ≤ o && o < 0x400 then d.clearHalf ((off - 0x810000) / 0x1000) ((o - 0x200) / 8) lo hi else d
  else d

/-- The offset of a physical address in the MMIO window (R3). -/
def mmioOffset (pa : Nat) : Nat := pa - 0xFF000000000

/-- A read of 4 or 8 bytes in the MMIO window (R7). -/
def mmioLoad (m : Mod) (d : Dev) (pa size : Nat) : Nat × Dev :=
  let off := mmioOffset pa
  let base := off / 8 * 8
  let w := d.mmioRead m base
  let lo := size = 8 || off % 8 = 0
  let hi := size = 8 || off % 8 = 4
  (if size = 8 then w else fld w (8 * (off % 8)) 32, d.mmioReadEffect base lo hi)

/-- What a checked read of `size` bytes at a physical address gives: the value, its line's poison, and the device. -/
def readAt (m : Mod) (d : Dev) (pa size : Nat) : Nat × Bool × Dev :=
  if targetOf pa = .mmio then
    let (v, d) := d.mmioLoad m pa size
    (v, false, d)
  else if targetOf pa = .zeros then (0, false, d)
  else (d.ld pa size, d.linePoisoned (lineOf pa), d)

/-- An LD read of the executing stream (R101, R102): the value, its line's poison, and the device with the access made. -/
def loadAt (m : Mod) (d : Dev) (va size : Nat) (a : Acc) : Res (Nat × Bool × Dev) := do
  let (pa, d) ← d.accessS va size size a va
  pure (d.readAt m pa size)

/-- The 8-byte LD.md reads of instructions that read tables (R58, R232, R253). -/
def rdWord (m : Mod) : Rd := fun d a => d.loadAt m a 8 .load

end Dev
end Sys2Proof.Machine
end

