-- ==== Sys2Proof/Machine/QueueCmd.lean ====
section
/-!
DEFINITION. The commands of the pool queue descriptors (spec/10_queue.md R215 to R217).
-/

namespace Sys2Proof.Machine
open Word

namespace Dev

/-- The status of a queue command. -/
def queueStatus (d : Dev) (n st : Nat) : Dev := d.setQueue n { d.queue n with cmdst := st }

/-- The bytes of a queue's entry ring (R215). -/
def ringBytes (q : Queue) : Nat := 2 ^ q.logd * (if q.wide then 2048 else 8)

/-- The checks of OPEN (R216). -/
def openOk (d : Dev) (q : Queue) : Bool :=
  let live (n : Nat) : Bool := (d.ctx n).state != .free
  q.kind ≤ 2 && live q.own && live q.pctx && live q.cctx && d.openQueues q.own < (d.ctx q.own).maxq
    && q.base * 4096 + ringBytes q ≤ 0xC000000000

/-- OPEN (R216, R217). -/
def queueOpen (d : Dev) (n : Nat) : Dev :=
  let q := d.queue n
  if q.state != .free then d.queueStatus n 2
  else if !d.openOk q then d.queueStatus n 4
  else d.setQueue n { q with state := .opened, entries := [], reserved := 0, drop := 0, cmdst := 0 }

/-- CLOSE (R217). -/
def queueClose (d : Dev) (n : Nat) : Dev :=
  let q := d.queue n
  if q.state = .opened then (d.setQueue n { q with state := .closed, cmdst := 0 }).reapQueue n else d.queueStatus n 2

/-- FREE (R217). -/
def queueFree (d : Dev) (n : Nat) : Dev :=
  if (d.queue n).state = .free then d.queueStatus n 2 else (d.releaseQueue n).queueStatus n 0

/-- A read of QUE_STAT clears DROP (R215). -/
def queueDropRead (d : Dev) (n : Nat) : Dev := d.setQueue n { d.queue n with drop := 0 }

end Dev

/-- The pool queue numbers are 0 to 4095 (R213): an event at another number reaches no queue. -/
def onQueue (n : Nat) (f : Dev → Dev) (s : State) : Host.Outcome State Fault Refusal :=
  event (fun d => if n < 4096 then f d else d) s

def execQueOpen (n : Nat) (s : State) : Host.Outcome State Fault Refusal := onQueue n (·.queueOpen n) s

def execQueClose (n : Nat) (s : State) : Host.Outcome State Fault Refusal := onQueue n (·.queueClose n) s

def execQueFree (n : Nat) (s : State) : Host.Outcome State Fault Refusal := onQueue n (·.queueFree n) s

/-- A code other than 1 to 3 (R215). -/
def execQueBadCommand (n code : Nat) (s : State) : Host.Outcome State Fault Refusal :=
  onQueue n (fun d => if 1 ≤ code % 16 && code % 16 ≤ 3 then d else d.queueStatus n 4) s

def execQueDropRead (n : Nat) (s : State) : Host.Outcome State Fault Refusal := onQueue n (·.queueDropRead n) s

end Sys2Proof.Machine
end

