-- ==== Sys2Proof/Machine/MmioWrite.lean ====
section
/-!
DEFINITION. Writes to the registers of the MMIO window by the host and by streams (spec/00_scope.md R7 and the register tables
of every chapter), the key slots (spec/14_block.md R279) and the control-core placement (spec/18_sequence.md R342).
-/

namespace Sys2Proof.Machine
open Word

/-- A write of 4 or 8 bytes to an 8-byte register: which half it reaches, and its bytes put over an old value. -/
structure RegWrite where
  lo : Bool
  hi : Bool
  v : Nat
  deriving DecidableEq, Repr

/-- The value of a register whose fields are all RW after the write. -/
def RegWrite.merged (w : RegWrite) (old : Nat) : Nat :=
  (if w.lo then fld w.v 0 32 else fld old 0 32) + (if w.hi then fld w.v 32 32 else fld old 32 32) * 2 ^ 32

/-- A write of `size` bytes at a byte of an 8-byte register (R7). -/
def RegWrite.of (byte size v : Nat) : RegWrite :=
  if size = 8 then ⟨true, true, v % 2 ^ 64⟩ else if byte = 0 then ⟨true, false, v % 2 ^ 32⟩ else ⟨false, true, v % 2 ^ 32 * 2 ^ 32⟩

namespace Dev

/-! ### Control-core placement (R342) -/

/-- The status of a placement command. -/
def ccgEnd (d : Dev) (tcc : Bool) (st : Nat) : Dev := d.setCcg tcc { d.ccg tcc with busy := false, st := st }

/-- PLACE (R342): the kernel is verified by reads of the control core in the context's space; while they wait for a link the
command stays BUSY. -/
def ccgPlace (m : Mod) (d0 : Dev) (tcc : Bool) (ctx : Nat) : Dev :=
  let p := d0.ccg tcc
  let n := if p.busy then p.ctx else ctx % 64
  let core := if tcc then 0xF1 else 0xF0
  let d := d0.setCcg tcc { p with ctx := n, busy := true }
  if (d.ctx n).state != .running || !(d.core core).slots.isEmpty || !d.siteRuns core then d.ccgEnd tcc 2
  else
    let at_ : Dev := { d with cur := { core := core, key := keyOf n 65535 } }
    match verify (rdWord m) at_ n p.kbase.toNat with
    | .error (.wait w) => { at_.keepAccess w with cur := d.cur }
    | .error (.trap _) => (d.endWaits at_.me).ccgEnd tcc 4
    | .ok (kid, d') =>
      let d' := { d'.endWaits at_.me with cur := d.cur }
      let k := d'.kernel n kid
      if k.streams != 1 || 2048 < k.regs || (d'.ctx n).maxgrp ≤ d'.groupCount n then d'.ccgEnd tcc 4
      else
        let (i, d') := d'.request n kid ⟨p.arg, false⟩ core none
        (d'.place (keyOf n i) core).ccgEnd tcc 0

/-- CTL written (R342): ignored while a command runs; CMD = 0 writes CTX only. -/
def ccgControl (m : Mod) (d : Dev) (tcc : Bool) (ctx code : Nat) : Dev :=
  let p := d.ccg tcc
  if p.busy then d
  else if code = 1 then d.ccgPlace m tcc ctx
  else if code = 0 then d.setCcg tcc { p with ctx := ctx % 64 }
  else d.setCcg tcc { p with ctx := ctx % 64, st := 4 }

/-! ### Key slots (R279) -/

/-- A key word written: VALID is cleared. -/
def keyWrite (d : Dev) (n k w : Nat) (v : Word) : Dev :=
  let c := d.ctx n
  d.setCtx n { c with xkeys := Map.upd {} c.xkeys k (fun x => { words := Map.set x.words w v, valid := false }) }

/-- VALID written: a 1 is refused when K1 equals K2. -/
def keyValid (d : Dev) (n k : Nat) (v : Bool) : Dev :=
  let c := d.ctx n
  let same (x : XKey) : Bool := (List.range 4).all (fun i => Map.get 0 x.words i == Map.get 0 x.words (i + 4))
  d.setCtx n { c with xkeys := Map.upd {} c.xkeys k (fun x => { x with valid := v && !same x }) }

/-! ### Registers by block -/

/-- A write to the registers of a cluster (R182, R363, R373); `own` says that a core of the cluster makes it. -/
def writeCluster (d : Dev) (c o : Nat) (own : Bool) (w : RegWrite) : Dev :=
  let x := d.cluster c
  if 0x100 ≤ o && o < 0x190 then
    let cmd := fld w.v 0 4
    let i := (o - 0x100) / 0x10
    if o % 0x10 = 8 && w.lo then (if cmd = 1 then d.siteFreeze c i else if cmd = 2 then d.siteClear c i else d) else d
  else
    match o with
    | 0x000 =>
      let v := fld (w.merged x.lease) 0 16
      d.setCluster c { x with lease := if v = 0 then 1 else v }
    | 0x010 => d.errthrWrite c (w.merged x.errthr)
    | 0x300 => if w.lo then d.pwrCommand c own (fld w.v 0 4) else d
    | 0x310 => d.pwrCommand c own 16
    | 0x318 => d.setCluster c { x with rbase := fld (w.merged (x.rbase * 2 ^ 12)) 12 40 }
    | _ => d

/-- A write to a context's block (R192, R314). -/
def writeCtx (d : Dev) (work : Bool) (n o : Nat) (w : RegWrite) : Dev :=
  let c := d.ctx n
  let free := c.state = .free
  let v := w.merged (d.readCtx n o)
  match o with
  | 0x00 =>
    let c := { c with prio := fld v 8 3 }
    d.setCtx n (if free then { c with key := fld v 32 32, asid := fld v 16 16 } else c)
  | 0x08 =>
    let c := { c with clumask := fld v 16 16 }
    d.setCtx n (if free then { c with maxgrp := fld v 32 16, maxq := fld v 0 13 } else c)
  | 0x10 => if free then d.setCtx n { c with fqBase := fld v 12 40, fqSize := min 8 (fld v 0 4) } else d
  | 0x18 => d.headWrite n (fld v 32 12)
  | 0x20 => if free then d.setCtx n { c with img := fld v 12 40 } else d
  | 0x28 => d.setCtx n { c with ptbr := fld v 12 40 }
  | 0x38 => if w.lo then d.ctxCommand work n (fld w.v 0 4) else d
  | _ => d

/-- A write to a queue descriptor (R215). -/
def writeQueue (d : Dev) (n o : Nat) (w : RegWrite) : Dev :=
  let q := d.queue n
  let v := w.merged (d.readQueue n o)
  match o with
  | 0x00 =>
    if q.state != .free then d
    else d.setQueue n { q with
      kind := fld v 60 4, logd := min 12 (fld v 56 4), wide := flag v 55, own := fld v 48 6, pctx := fld v 42 6, cctx := fld v 36 6 }
  | 0x08 => if q.state != .free then d else d.setQueue n { q with base := fld v 12 40 }
  | 0x18 =>
    if !w.lo then d
    else
      match fld w.v 0 4 with
      | 1 => d.queueOpen n
      | 2 => d.queueClose n
      | 3 => d.queueFree n
      | _ => d.queueStatus n 4
  | _ => d

/-- A write to the registers of a model (R293): while VALID is 1, every field but VALID is kept. -/
def writeModel (d : Dev) (m o : Nat) (w : RegWrite) : Dev :=
  let x := d.model m
  let v := w.merged (d.readModel m o)
  match o with
  | 0x00 => if x.valid then d else d.setModel m { x with etbase := fld v 12 40 }
  | 0x08 =>
    let d := if x.valid then d else d.setModel m { x with laym1 := fld v 48 12, expm1 := fld v 32 12 }
    d.modelWrite m (flag v 0)
  | 0x10 => if x.valid then d else d.setModel m { x with ctxmask := BitVec.ofNat 64 v }
  | _ => d

/-- A write to the residency registers of a context (R297). -/
def writeRes (d : Dev) (n o : Nat) (w : RegWrite) : Dev :=
  let c := d.ctx n
  let free := c.state = .free
  let v := w.merged (d.readRes n o)
  match o with
  | 0x00 =>
    let win := if free then v else c.resPol
    let miss := if fld v 8 2 = 3 then 0 else fld v 8 2
    d.setCtx n { c with
      resPol := fld win 42 12 * 2 ^ 42 + miss * 2 ^ 8 + fld v 4 2 * 2 ^ 4 + fld v 2 2 * 2 ^ 2 + fld win 0 1 }
  | 0x08 => d.setCtx n { c with resBudget := fld v 0 32 }
  | 0x10 => if free then d.setCtx n { c with resTq := setFld v 8 4 (max 1 (min 12 (fld v 8 4))) } else d
  | _ => d

/-- A write to the module-wide residency registers (R298). -/
def writeResMod (d : Dev) (o : Nat) (w : RegWrite) : Dev :=
  let v := w.merged (d.readResMod o)
  let idle := d.res.models.all (fun e => !e.2.valid && !e.2.busy)
  match o with
  | 0x00 =>
    { d with res := { d.res with
      plainRate := max 1 (fld v 0 16), lakeRate := max 1 (fld v 16 16), rate := fld v 32 4 } }
  | 0x08 => if idle then { d with res := { d.res with lpool := fld v 12 40 } } else d
  | 0x10 => if idle then { d with res := { d.res with lpoolN := fld v 0 32 } } else d
  | _ => d

/-- The registers of a sequence context as the writes that wait for its step leave them (R346). -/
def seqPending (d : Dev) (j q : Nat) : Seq :=
  ((d.sampler j).late.filter (fun e => e.1 = q && e.2.1 != 0)).foldl (fun x e => x.write e.2.1 e.2.2) (d.seq j q)

/-- A write to the registers of a sampler unit (R344, R346). -/
def writeSampler (d : Dev) (j o : Nat) (w : RegWrite) : Dev :=
  if o = 0 then d.ucfgWrite j (BitVec.ofNat 64 (w.merged (d.readSampler j 0)))
  else if 0x4000 ≤ o && o < 0x8000 then
    let i := (o - 0x4000) / 4
    let d := if w.lo then d.progWrite j i (fld w.v 0 32) else d
    if w.hi then d.progWrite j (i + 1) (fld w.v 32 32) else d
  else if 0x8000 ≤ o then
    let q := (o - 0x8000) / 0x80
    d.seqWrite j q (o % 0x80) (BitVec.ofNat 64 (w.merged ((d.seqPending j q).read (o % 0x80))))
  else d

/-- A write to the registers of a port (R382). -/
def writeLink (d : Dev) (p o : Nat) (w : RegWrite) : Dev :=
  let l := d.link p
  let v := w.merged (d.readLink p o)
  if o = 8 then
    if !w.lo then d
    else
      let d := if p = 0 then d.setLink 0 { l with allow68 := flag w.v 2 } else d
      let d := if flag w.v 1 then d.fence p 5 else d
      if flag w.v 0 && p != 0 then d.linkMove p [.down] .training else d
  else if o = 0x10 then (if p = 0 then d else d.setLink p { l with win := fld v 0 3 })
  else if p = 0 && 0x100 ≤ o && o < 0x180 then
    let i := (o - 0x100) / 0x10
    d.setLink 0 { l with decoders := Map.upd {} l.decoders i (fun x =>
      if o % 0x10 = 0 then { x with base := fld v 28 24, size := fld v 12 16, en := flag v 0 } else { x with hbase := fld v 28 36 }) }
  else d

/-- A write to a counter block (R386): the views that may be written, and the overflow bits. -/
def writeCounters (d : Dev) (site o : Nat) (w : RegWrite) : Dev :=
  if 0x400 ≤ o && o < 0x600 then d.cntWrite site ((o - 0x400) / 8) (BitVec.ofNat 64 (w.merged (d.readCounters site o)))
  else if o = 0x600 then d.ovfClear site (BitVec.ofNat 64 w.v)
  else d

/-- A write to the debug block of a context (R392); a breakpoint that is written starts to count afresh. -/
def writeDebug (d : Dev) (n o : Nat) (w : RegWrite) : Dev :=
  let c := d.ctx n
  let v := w.merged (d.readDebug n o)
  if o = 0 then
    let cmd := if w.lo then fld w.v 0 2 else 0
    if cmd = 0 then d.setCtx n { c with dbgGroup := fld v 16 16 } else d.stopCommand n (fld v 16 16) cmd
  else if o ≤ 0x20 then d.setCtx n { c with dbgPos := Map.set c.dbgPos (o / 8 - 1) (fld v 0 48) }
  else if 0x100 ≤ o && o < 0x180 then
    d.setCtx n { c with breaks := Map.upd {} c.breaks ((o - 0x100) / 0x10) (fun b =>
      if o % 0x10 = 0 then { b with val := BitVec.ofNat 64 v, seen := 0 }
      else { b with
        en := flag v 63, mode := flag v 62, strm := fld v 60 2, gall := flag v 59, group := fld v 43 16, count := fld v 16 11,
        seen := 0 }) }
  else d

/-- A write to a core block (R204); one of an ABSENT core is ignored, and one in the cycle of a CSRW of the same register. -/
def writeCoreBlock (d : Dev) (i o : Nat) (w : RegWrite) : Dev :=
  let n := coreOfBlock i
  let c := d.core n
  let v := w.merged (d.readCoreBlock i o)
  if n < 128 && d.isAbsent n then d
  else if o = 0 then (if c.svecAt = d.time + 1 then d else d.setCore n { c with svec := BitVec.ofNat 64 (v / 8 * 8) })
  else if o = 8 then (if c.svcwmAt = d.time + 1 then d else d.setCore n { c with svcwm := fld v 0 5 })
  else d

/-- A write to the key slots of a context (R279). -/
def writeKeys (d : Dev) (n o : Nat) (w : RegWrite) : Dev :=
  let k := o / 0x80
  let x := Map.get {} (d.ctx n).xkeys k
  if 0x800 ≤ o then d
  else if o % 0x80 < 0x40 then d.keyWrite n k (o % 0x80 / 8) (BitVec.ofNat 64 (w.merged (Map.get 0 x.words (o % 0x80 / 8)).toNat))
  else if o % 0x80 = 0x40 && w.lo then d.keyValid n k (flag w.v 0)
  else d

/-- A write to a control core's placement registers (R342). -/
def writeCcg (m : Mod) (d : Dev) (tcc : Bool) (o : Nat) (w : RegWrite) : Dev :=
  let p := d.ccg tcc
  match o with
  | 0x00 => d.setCcg tcc { p with kbase := BitVec.ofNat 64 (w.merged p.kbase.toNat) }
  | 0x08 => d.setCcg tcc { p with arg := BitVec.ofNat 64 (w.merged p.arg.toNat) }
  | 0x10 => if w.lo then d.ccgControl m tcc (fld w.v 8 6) (fld w.v 0 4) else d
  | _ => d

/-- A write to the 8-byte register at an offset that is a multiple of 8 (R7); `own` is the cluster of the core that makes it. -/
def mmioWrite (m : Mod) (d : Dev) (own : Option Nat) (off : Nat) (w : RegWrite) : Dev :=
  if off = 0x40 then { d with sptbr := fld (w.merged (d.sptbr * 2 ^ 12)) 12 40 }
  else if off = 0x48 then { d with tlba := BitVec.ofNat 64 (w.merged d.tlba.toNat) }
  else if off = 0x50 then { d with tlbl := BitVec.ofNat 64 (w.merged d.tlbl.toNat) }
  else if off = 0x58 then d.tlbCommand (BitVec.ofNat 64 (w.merged (d.tlbAsid + d.tlbKind * 2 ^ 16)))
  else if 0x80 ≤ off && off < 0x98 then d.writeCcg m false (off - 0x80) w
  else if 0xA0 ≤ off && off < 0xB8 then d.writeCcg m true (off - 0xA0) w
  else if 0x200000 ≤ off && off < 0x210000 then
    let c := (off - 0x200000) / 0x1000
    d.writeCluster c (off % 0x1000) (own == some c) w
  else if 0x300000 ≤ off && off < 0x304000 then d.writeCtx (Life.works m.life) ((off - 0x300000) / 0x100) (off % 0x100) w
  else if 0x310000 ≤ off && off < 0x350000 then d.writeKeys ((off - 0x310000) / 0x1000) (off % 0x1000) w
  else if 0x400000 ≤ off && off < 0x440000 then d.writeQueue ((off - 0x400000) / 0x40) (off % 0x40) w
  else if 0x500000 ≤ off && off < 0x501FE0 then d.writeModel ((off - 0x500000) / 0x20) (off % 0x20) w
  else if 0x502000 ≤ off && off < 0x503000 then d.writeRes ((off - 0x502000) / 0x40) (off % 0x40) w
  else if 0x504000 ≤ off && off < 0x504020 then d.writeResMod (off - 0x504000) w
  else if 0x600000 ≤ off && off < 0x640000 then d.writeSampler ((off - 0x600000) / 0x10000) (off % 0x10000) w
  else if 0x700000 ≤ off && off < 0x703000 then d.writeLink ((off - 0x700000) / 0x1000) (off % 0x1000) w
  else if 0x800100 ≤ off && off < 0x800708 then d.writeCounters 144 (off - 0x800100) w
  else if 0x810000 ≤ off && off < 0x8A0000 then d.writeCounters ((off - 0x810000) / 0x1000) (off % 0x1000) w
  else if 0x8C0000 ≤ off && off < 0x8D0000 then d.writeDebug ((off - 0x8C0000) / 0x400) (off % 0x400) w
  else if 0x900000 ≤ off && off < 0x902080 then d.writeCoreBlock ((off - 0x900000) / 0x40) (off % 0x40) w
  else d

/-- A write of 4 or 8 bytes in the MMIO window (R7). -/
def mmioStore (m : Mod) (d : Dev) (own : Option Nat) (off size v : Nat) : Dev :=
  d.mmioWrite m own (off / 8 * 8) (RegWrite.of (off % 8) size v)

end Dev

/-- REGISTER_WRITE by the host (R7): another width or alignment has no effect; a module without power has no registers. -/
def execRegisterWrite (off size : Nat) (v : Word) (s : State) : Host.Outcome State Fault Refusal :=
  event (fun d =>
    if s.mod.life = .off || (size != 4 && size != 8) || off % size != 0 || 0x10000000 ≤ off then d
    else d.mmioStore s.mod none off size v.toNat) s

/-- XKEY_WRITE (R279): key word `w` of slot `k` of context slot `n`. -/
def execXkeyWrite (n k w : Nat) (v : Word) (s : State) : Host.Outcome State Fault Refusal :=
  onCtx n (fun d => if k < 16 && w < 8 then d.keyWrite n k w v else d) s

/-- XKST_WRITE (R279): bit 0 of the value is VALID. -/
def execXkstWrite (n k : Nat) (v : Word) (s : State) : Host.Outcome State Fault Refusal :=
  onCtx n (fun d => if k < 16 then d.keyValid n k (flag v.toNat 0) else d) s

/-- CCG_PLACE (R342): the command, or its continuation while it is BUSY. -/
def execCcgPlace (tcc : Bool) (ctx : Nat) (s : State) : Host.Outcome State Fault Refusal :=
  event (fun d => d.ccgPlace s.mod tcc ctx) s

/-- CCG_BAD_COMMAND (R342). -/
def execCcgBadCommand (tcc : Bool) (ctx code : Nat) (s : State) : Host.Outcome State Fault Refusal :=
  event (fun d => if code % 16 ≤ 1 then d else d.ccgControl s.mod tcc ctx (code % 16)) s

end Sys2Proof.Machine
end

