-- ==== Sys2Proof/Machine/VectorData.lean ====
section
/-!
DEFINITION. Class 0x6, vector data, but for the NEST form (spec/06_row.md R129 to R145).
-/

namespace Sys2Proof.Machine
open Word WellFormed

namespace Dev

/-! ### Memory access from rows (R130 to R132) -/

/-- The active lanes with their addresses: a base and a step of one element (R130). -/
def laneEas (act : List Bool) (base : Int) (s : Nat) : List (Nat × Nat) :=
  ((List.range act.length).zip act).filterMap
    (fun e => if e.2 then some (e.1, (BitVec.ofInt 64 (base + (e.1 * s : Nat))).toNat) else none)

/-- The active lanes with their indexed addresses (R130): only lanes 0 to 511 exist. -/
def indexEas (act : List Bool) (base : Word) (s : Nat) (ix : RowBits) : List (Nat × Nat) :=
  ((List.range (min 512 act.length)).zip act).filterMap
    (fun e => if e.2 then
        some (e.1, (base + BitVec.ofInt 64 (sext (fld ix.toNat (32 * e.1) 32) 32 * (s : Int))).toNat)
      else none)

/-- The checks of R101 on every lane in ascending order, before any lane is performed (R130): the lane, its address and the translation
that it takes. -/
def laneChecks (d : Dev) (a : Acc) (s : Nat) : List (Nat × Nat) → Res (List (Nat × Nat × Option (Nat × Leaf)) × Dev)
  | [] => .ok ([], d)
  | (i, ea) :: es => do
    let (t, d) ← d.checkS ea s s a ea
    let (ps, d) ← laneChecks d a s es
    pure ((i, ea, t) :: ps, d)

/-- The lanes performed in ascending order: the physical address of each (R130). -/
def lanesPerformed (d : Dev) (a : Acc) (s : Nat) : List (Nat × Nat × Option (Nat × Leaf)) → Res (List (Nat × Nat) × Dev)
  | [] => .ok ([], d)
  | (i, ea, t) :: es => do
    let (pa, d) ← d.performS ea s a ea t
    let (ps, d) ← lanesPerformed d a s es
    pure ((i, pa) :: ps, d)

/-- All lanes of an access, checked and then performed (R130). -/
def lanesAccess (d : Dev) (a : Acc) (s : Nat) (es : List (Nat × Nat)) : Res (List (Nat × Nat) × Dev) := do
  let (ts, d) ← d.laneChecks a s es
  d.lanesPerformed a s ts

/-- The value a lane list holds for a lane. -/
def laneOr (o : Nat) (xs : List (Nat × Nat)) (i : Nat) : Nat :=
  match xs.find? (fun e => e.1 == i) with
  | some e => e.2
  | none => o

/-- The lanes of a row with some replaced. -/
def putLanes (w n : Nat) (old : RowBits) (xs : List (Nat × Nat)) : RowBits :=
  rowOf w (((List.range n).zip (lanesOf w n old)).map (fun e => laneOr e.2 xs e.1))

/-- Lines that one instruction has written in all their bytes with clean data lose their poison (R177). -/
def cleanLines (d : Dev) (s : Nat) (ps : List Nat) : Dev :=
  let lines := (ps.map lineOf).foldl (fun m l => insertNat l m) []
  lines.foldl (fun d l =>
    let offs := (ps.filter (fun a => lineOf a == l)).foldl (fun m a => insertNat a m) []
    if offs.length * s = 64 then d.setLinePoison l false else d) d

/-- Lanes stored in order (R132), and the poison of the lines. -/
def storeLanes (d : Dev) (s : Nat) (p : Bool) (ps : List (Nat × Nat)) : Dev :=
  let d := ps.foldl (fun d e => d.store e.1 s e.2 p) d
  if p then d else d.cleanLines s (ps.map (·.1))

/-- A row load (R131, R132): the lanes read, poison of lines, mask, and index row. -/
def loadLanes (d : Dev) (t fD : Nat) (act : List Bool) (es : List (Nat × Nat)) (p : Bool) : Res Dev := do
  let s := typeBytes t
  let full := act.all id && es.length == laneCount t
  let o ← d.old fD full
  let (ps, d) ← d.lanesAccess .advanced s es
  let vs := ps.map (fun e => (e.1, d.ld e.2 s))
  d.dst fD (putLanes (laneBits t) (laneCount t) o vs) (p || ps.any (fun e => d.linePoisoned (lineOf e.2))) full

/-- A row store (R131, R132): a poisoned value commits at scope .sy and poisons its lines otherwise (R103). A lane that fails R101 faults
before the value commits (log 90). -/
def writeLanes (d : Dev) (t sc : Nat) (es : List (Nat × Nat)) (v : RowBits) (p : Bool) : Res Dev := do
  let s := typeBytes t
  let (ps, d) ← d.lanesAccess .laneStore s es
  if p && sc = 3 then commitReg ((es.map (·.2)).headD 0)
  else pure (d.storeLanes s p (ps.map (fun e => (e.2, fld v.toNat (laneBits t * e.1) (laneBits t)))))

/-- VLD (R130, R131). -/
def vldOp (d : Dev) (v : VField) (fD aN : Nat) (off : Int) : Res Dev := do
  let t ← d.vtype tAll v.t
  let act := d.active v (laneCount t)
  let es := laneEas act ((d.reg aN).v.toNat + off) (typeBytes t)
  if (d.reg aN).p then commitReg ((d.reg aN).v + BitVec.ofInt 64 off).toNat
  else d.loadLanes t fD act es (d.maskP v)

/-- VST (R130, R131). A poisoned base register commits at every scope, as R87 and R174 say of an address; a poisoned mask counts as
poison of the value (log 90). -/
def vstOp (d : Dev) (v : VField) (sc fA aN : Nat) (off : Int) : Res Dev := do
  let t ← d.vtype tAll v.t
  let act := d.active v (laneCount t)
  let es := laneEas act ((d.reg aN).v.toNat + off) (typeBytes t)
  let mp := d.maskP v
  if (d.reg aN).p then commitReg ((d.reg aN).v + BitVec.ofInt 64 off).toNat
  else do
    let (x, d) ← d.src fA
    d.writeLanes t sc es x.v (x.p || mp)

/-- VLDX (R132). -/
def vldxOp (d : Dev) (v : VField) (fD aN fI : Nat) : Res Dev := do
  let t ← d.vtype tAll v.t
  let act := d.active v (laneCount t)
  let base := d.reg aN
  let mp := d.maskP v
  if base.p then commitReg base.v.toNat
  else do
    let (ix, d) ← d.src fI
    d.loadLanes t fD act (indexEas act base.v (typeBytes t) ix.v) (mp || ix.p)

/-- VSTX (R132): the value row is field fD, the index row comes after it. A poisoned mask or index row counts as poison of the value
(log 90). -/
def vstxOp (d : Dev) (v : VField) (sc fA aN fI : Nat) : Res Dev := do
  let t ← d.vtype tAll v.t
  let act := d.active v (laneCount t)
  let base := d.reg aN
  let mp := d.maskP v
  if base.p then commitReg base.v.toNat
  else do
    let (x, d) ← d.src fA
    let (ix, d) ← d.src fI
    d.writeLanes t sc (indexEas act base.v (typeBytes t) ix.v) x.v (x.p || ix.p || mp)

/-! ### Moving data between lanes (R133 to R137) -/

/-- VMOV, VPERM, VXPND and VRADIX: rows in, one row out, no flag. -/
def moveOp (d : Dev) (v : VField) (fD : Nat) (srcs : List Nat) (f : RowFn) : Res Dev := d.rowOp v tAll false fD srcs f

/-- VBCAST of a lane (R133): a lane the type does not have is cause 0x04 at issue (R129). -/
def vbcastOp (d : Dev) (v : VField) (fD fA lane : Nat) : Res Dev := do
  let t ← d.vtype tAll v.t
  trapIf (laneCount t ≤ lane) 4 d.cur.pc.toNat
  let w := laneBits t
  d.rowOp v tAll false fD [fA] (fun t act a b o => rowBcast (fld a.toNat (w * lane) w) t act a b o)

/-- VBCAST of an address register (R133). -/
def vbcastRegOp (d : Dev) (v : VField) (fD aN : Nat) : Res Dev := do
  let t ← d.vtype tAll v.t
  let act := d.active v (laneCount t)
  let full := act.all id
  let o ← d.old fD full
  let x := d.reg aN
  d.dst fD (rowBcast (fld x.v.toNat 0 (laneBits t)) t act 0 0 o).v (d.maskP v || x.p) full

/-- VCMPR (R135): the kept lanes, and their number into aC when CE is 1. -/
def vcmprOp (d : Dev) (v : VField) (fD fA : Nat) (ce : Bool) (aC : Nat) : Res Dev := do
  let t ← d.vtype tAll v.t
  let act := d.active v (laneCount t)
  let p := d.maskP v
  let (x, d) ← d.src fA
  let d ← d.dst fD (rowCmpr t act x.v 0 0).v (p || x.p) true
  pure (if ce then d.setReg aC ⟨BitVec.ofNat 64 (act.filter id).length, p || x.p⟩ else d)

/-- VHIST (R136): vD is read and partly written; a digit position above the key width is an illegal encoding at issue. -/
def vhistOp (d : Dev) (v : VField) (fD fA pos : Nat) : Res Dev := do
  let t ← d.vtype [9, 10] v.t
  trapIf (laneBits t ≤ pos) 2 d.cur.pc.toNat
  let act := d.active v (laneCount t)
  let o ← d.readRow fD
  let p := d.maskP v
  let (x, d) ← d.src fA
  d.dst fD (rowHist pos t act x.v 0 o.v).v (p || x.p) false

/-! ### Narrow formats (R138 to R143) -/

/-- The draw of a lane of a .sr instruction of the V stream (R81). -/
def drawV (d : Dev) (sr : Bool) (i : Nat) : Option Nat :=
  if sr then some (philox (asStaged d.grp d.time).srkey.toNat (fld (asStaged d.grp d.time).srctrV.toNat 0 32)
    (fld (asStaged d.grp d.time).srctrV.toNat 32 32) i 0) else none

/-- The counter of R81 steps at the issue of a .sr instruction; a value written in the same cycle stands. -/
def stepV (d : Dev) (sr : Bool) : Dev :=
  let g := d.grp
  if !sr then d
  else if g.old.at_ = d.time + 1 then
    let g := { g with old := { g.old with srctrV := g.old.srctrV + 1 } }
    d.setGrp (if g.old.wroteV then g else { g with srctrV := g.srctrV + 1 })
  else d.setGrp { g with srctrV := g.srctrV + 1 }

/-- The extra value of FP4 (R71). -/
def xvOf (d : Dev) : Int := sext (asStaged d.grp d.time).xval 5

/-- VPACK (R140). -/
def vpackOp (d : Dev) (t : Nat) (sr : Bool) (fmt fD fA fS : Nat) : Res Dev := do
  let t ← d.vtype tFloat t
  let (x, d) ← d.src fA
  let sc ← d.readRow fS
  match rowPack fmt d.xvOf (fun i => d.drawV sr i) t x.v sc.v with
  | none => trap 4 fS
  | some (r, s') => do
    let d ← ((d.stepV sr).raiseF 0 r.fl).dst fD r.v (x.p || sc.p) true
    let n := laneCount t / 32
    let lanes := lanesOf 32 n s' ++ (lanesOf 32 512 (d.row fS).v).drop n
    d.dst fS (rowOf 32 lanes) (x.p || sc.p) false

/-- VUNPK (R141). The address of a reserved scale is the row number, and for a scale popped from a queue port the number of the port,
0x800 and up, which R72 does not name (log 90). -/
def vunpkOp (d : Dev) (t fmt fD fA fS : Nat) : Res Dev := do
  let t ← d.vtype tFloat t
  let (x, d) ← d.src fA
  let (sc, d) ← d.src fS
  match rowUnpk fmt d.xvOf t x.v sc.v with
  | none => trap 4 fS
  | some r => ((d.raiseF 0 r.fl).count 40 r.ic).dst fD r.v (x.p || sc.p) true

/-- VSCALE (R142). -/
def vscaleOp (d : Dev) (fmt thr fD fS : Nat) : Res Dev := do
  let (sc, d) ← d.src fS
  let r := rowScale fmt thr sc.v
  (d.raiseF 0 r.fl).dst fD r.v sc.p true

/-- The formats of a VCVT at issue (R143): code 0 is the view's type; equal formats and a part that does not exist are cause
0x02. -/
def cvtTypes (d : Dev) (td ts p : Nat) : Res (Nat × Nat) := do
  let td := if td = 0 then d.grp.view.etype else td
  let ts := if ts = 0 then d.grp.view.etype else ts
  trapIf (td == ts || max (cvtBytes td) (cvtBytes ts) / min (cvtBytes td) (cvtBytes ts) ≤ p) 2 d.cur.pc.toNat
  pure (td, ts)

/-- VCVT (R143). -/
def vcvtOp (d : Dev) (sr : Bool) (p ts td : Nat) (me : Bool) (k fD fA : Nat) : Res Dev := do
  let (td, ts) ← d.cvtTypes td ts p
  let v : VField := ⟨0, me, k⟩
  let n := 2048 / max (cvtBytes td) (cvtBytes ts)
  let act := d.active v n
  let full := act.all id && 2048 / cvtBytes td == n
  let o ← d.old fD full
  let mp := d.maskP v
  let (x, d) ← d.src fA
  let r := rowCvt td ts p (fun i => d.drawV sr i) act x.v o
  ((d.stepV sr).raiseF 0 r.fl).dst fD r.v (mp || x.p) full

/-! ### Vector atomics (R144) -/

/-- An atomic operation of R107 on values of `w` bits: the new value and flags. -/
def amoOp (op w old v : Nat) : Nat × Nat :=
  match op with
  | 0 => ((old + v) % 2 ^ w, 0)
  | 1 => (old &&& v, 0)
  | 2 => (old ||| v, 0)
  | 3 => (old ^^^ v, 0)
  | 4 => (v, 0)
  | 5 => (if sext v w < sext old w then v else old, 0)
  | 6 => (if sext old w < sext v w then v else old, 0)
  | 7 => (min old v, 0)
  | 8 => (max old v, 0)
  | _ => faddF (if w = 32 then f32 else f64) old v

/-- The lanes of a VAMO in order: `none` when all are done, else the lane that commits poison (R144). `vs` collects the old
values. -/
def amoLanes (d : Dev) (sc op : Nat) (wp : Bool) (v : RowBits) (vs : List (Nat × Nat)) (rp : Bool) :
    List (Nat × Nat × Nat) → Dev × List (Nat × Nat) × Bool × Option Trap
  | [] => (d, vs, rp, none)
  | (i, ea, pa) :: es =>
    let lp := d.linePoisoned (lineOf pa)
    if sc = 3 && lp then
      (d, vs, rp, some { cause := 0x10, addr := BitVec.ofNat 64 ea, poison := true, pkind := 2, pline := lineOf pa })
    else
      let old := d.ld pa 4
      let r := amoOp op 32 old (fld v.toNat (32 * i) 32)
      let d := (d.store pa 4 r.1 (wp || lp)).raiseF 0 r.2
      amoLanes d sc op wp v ((i, old) :: vs) (rp || lp) es

/-- VAMO (R144). -/
def vamoOp (d : Dev) (v : VField) (sc op fD aN fI : Nat) : Dev × Option Stop :=
  let prep : Res (List (Nat × Nat × Nat) × RowData × Bool × List Bool × Dev) := do
    let t ← d.vtype (if op = 9 then [1] else [7, 10]) v.t
    let act := d.active v (laneCount t)
    let mp := d.maskP v
    let base := d.reg aN
    let x ← d.readRow fD
    let (ix, d) ← d.src fI
    if base.p then commitReg base.v.toNat
    else do
      let es := indexEas act base.v 4 ix.v
      let (ps, d) ← d.lanesAccess .atomic 4 es
      if sc = 3 && (x.p || mp) then commitReg ((es.map (·.2)).headD 0)
      else pure ((es.zip ps).map (fun e => (e.1.1, e.1.2, e.2.2)), ⟨x.v, x.p || mp⟩, ix.p, act, d)
  match prep with
  | .error e => (d, some e)
  | .ok (es, x, ip, act, d1) =>
    match d1.amoLanes sc op x.p x.v [] false es with
    | (d2, _, _, some t) => (d2, some (.trap t))
    | (d2, vs, rp, none) =>
      match d2.dst fD (putLanes 32 512 x.v vs) (x.p || ip || rp) (act.all id) with
      | .ok d3 => (d3, none)
      | .error e => (d, some e)

end Dev

def execVld (h : Hdr) (v : VField) (sc fD aN : Nat) (off : Int) (s : State) : Host.Outcome State Fault Refusal :=
  let _ := sc
  stream h (·.vldOp v fD aN off) s

def execVst (h : Hdr) (v : VField) (sc fA aN : Nat) (off : Int) (s : State) : Host.Outcome State Fault Refusal :=
  stream h (·.vstOp v sc fA aN off) s

def execVldx (h : Hdr) (v : VField) (sc fD aN fI : Nat) (s : State) : Host.Outcome State Fault Refusal :=
  let _ := sc
  stream h (·.vldxOp v fD aN fI) s

def execVstx (h : Hdr) (v : VField) (sc fA aN fI : Nat) (s : State) : Host.Outcome State Fault Refusal :=
  stream h (·.vstxOp v sc fA aN fI) s

def execVmov (h : Hdr) (v : VField) (fD fA : Nat) (s : State) : Host.Outcome State Fault Refusal :=
  stream h (·.moveOp v fD [fA] rowMov) s

def execVbcast (h : Hdr) (v : VField) (fD fA lane : Nat) (s : State) : Host.Outcome State Fault Refusal :=
  stream h (·.vbcastOp v fD fA lane) s

def execVbcastAreg (h : Hdr) (v : VField) (fD aN : Nat) (s : State) : Host.Outcome State Fault Refusal :=
  stream h (·.vbcastRegOp v fD aN) s

def execViota (h : Hdr) (v : VField) (fD : Nat) (start : Int) (s : State) : Host.Outcome State Fault Refusal :=
  stream h (·.rowOp v tInt false fD [] (rowIota start)) s

def execVperm (h : Hdr) (v : VField) (fD fA fB : Nat) (s : State) : Host.Outcome State Fault Refusal :=
  stream h (·.moveOp v fD [fA, fB] rowPerm) s

def execVcmpr (h : Hdr) (v : VField) (fD fA : Nat) (ce : Bool) (aC : Nat) (s : State) : Host.Outcome State Fault Refusal :=
  stream h (·.vcmprOp v fD fA ce aC) s

def execVxpnd (h : Hdr) (v : VField) (fD fA : Nat) (s : State) : Host.Outcome State Fault Refusal :=
  stream h (·.moveOp v fD [fA] rowXpnd) s

def execVhist (h : Hdr) (v : VField) (fD fA pos : Nat) (s : State) : Host.Outcome State Fault Refusal :=
  stream h (·.vhistOp v fD fA pos) s

def execVradix (h : Hdr) (v : VField) (fD fA : Nat) (inv desc : Bool) (s : State) : Host.Outcome State Fault Refusal :=
  stream h (·.moveOp v fD [fA] (rowRadix inv desc)) s

def execVpack (h : Hdr) (t : Nat) (sr : Bool) (fmt fD fA fS : Nat) (s : State) : Host.Outcome State Fault Refusal :=
  stream h (·.vpackOp t sr fmt fD fA fS) s

def execVunpk (h : Hdr) (t fmt fD fA fS : Nat) (s : State) : Host.Outcome State Fault Refusal :=
  stream h (·.vunpkOp t fmt fD fA fS) s

def execVscale (h : Hdr) (fmt thr fD fS : Nat) (s : State) : Host.Outcome State Fault Refusal :=
  stream h (·.vscaleOp fmt thr fD fS) s

def execVcvt (h : Hdr) (sr : Bool) (p ts td : Nat) (me : Bool) (k fD fA : Nat) (s : State) : Host.Outcome State Fault Refusal :=
  stream h (·.vcvtOp sr p ts td me k fD fA) s

def execVamo (h : Hdr) (v : VField) (sc op fD aN fI : Nat) (s : State) : Host.Outcome State Fault Refusal :=
  streamP h (·.vamoOp v sc op fD aN fI) s

end Sys2Proof.Machine
end

