-- ==== Sys2Proof/Machine/Nest.lean ====
section
/-!
DEFINITION. The NEST form (spec/02_word.md R32 to R34, spec/06_row.md R146 to R149): one lane rule of class 0x5 or 0x6 over a
tensor of up to five levels in memory, element by element, with its restart step.
-/

namespace Sys2Proof.Machine
open Word WellFormed

/-- The lane rule of a wrapped class-0x5 operation (R147), on one element of type `t`: sources, and the destination element. -/
def laneRule (opc : Nat) (t a b o : Nat) : Nat × Nat :=
  match opc with
  | 0x00 => laneAdd t a b
  | 0x01 => laneSub t a b
  | 0x02 => laneMul t a b
  | 0x03 => laneFma t a b o
  | 0x04 => laneMin t a b
  | 0x05 => laneMax t a b
  | 0x06 => laneAbs t a
  | 0x07 => laneNeg t a
  | 0x08 => laneExp2 t a
  | 0x09 => laneLog2 t a
  | 0x0A => laneRcp t a
  | 0x0B => laneRsq t a
  | 0x0F => laneIadd t a b
  | 0x10 => laneIsub t a b
  | 0x11 => laneImul t a b
  | 0x12 => laneAnd t a b
  | 0x13 => laneOr t a b
  | 0x14 => laneXor t a b
  | 0x15 => laneShl t a b
  | _ => laneShr t a b

/-- The types a wrapped class-0x5 operation accepts (R118). -/
def nestTypes (opc : Nat) : List Nat :=
  if opc ≤ 3 || (8 ≤ opc && opc ≤ 0xC) then tFloat
  else if opc = 4 || opc = 5 || opc = 0x17 then tFloatInt
  else if opc = 6 || opc = 7 then tSigned
  else if 0x12 ≤ opc && opc ≤ 0x14 then tAll
  else tInt

/-- A NEST form as it was staged at issue (R148): what is wrapped, its types, the extents, the bases and the byte strides. -/
structure NestForm where
  wclass : Bool
  opc : Nat
  op : Nat
  td : Nat
  ts : Nat
  sr : Bool
  ext : List Nat
  bases : List Word
  sD : List Word
  sA : List Word
  sB : List Word
  /-- The bytes stored clean so far, a mask for each line (R177). -/
  clean : Map Nat := []
  deriving DecidableEq, Repr

/-- The indices of a linear number over extents, level 0 first (R148). -/
def nestIndex : List Nat → Nat → List Nat
  | [], _ => []
  | e :: es, l => l % e :: nestIndex es (l / e)

/-- An element's address: the base and the sum of index times stride. -/
def nestAddr (base : Word) : List Nat → List Word → Word
  | i :: is, s :: ss => nestAddr (base + BitVec.ofNat 64 i * s) is ss
  | _, _ => base

/-- The number of restart steps (R148, R149): elements, or level-0 runs of a wrapped VRED; none where an extent is 0. -/
def NestForm.steps (f : NestForm) : Nat :=
  if f.ext.any (· == 0) then 0
  else if !f.wclass && f.opc = 0x17 then f.ext.tail.foldl (· * ·) 1
  else f.ext.foldl (· * ·) 1

namespace Dev

/-- The bytes of an element of a source (R137, R147): the codes of VCVT name narrow types too. -/
def srcBytes (f : NestForm) : Nat := if f.wclass && f.opc = 0xF then cvtBytes f.ts else typeBytes f.ts

/-- A checked element load of `s` bytes: the address and its line's poison (R147). -/
def nestLoad (d : Dev) (ea : Word) (s : Nat) : Res (Nat × Bool × Dev) := do
  let (pa, d) ← d.accessS ea.toNat s s .advanced ea.toNat
  pure (pa, d.linePoisoned (lineOf pa), d)

/-- The 259 table values of a wrapped VTBI (R146): their physical addresses. -/
def nestTable (d : Dev) (base : Word) : Nat → Nat → Res (List Nat × Bool × Dev)
  | 0, _ => .ok ([], false, d)
  | n + 1, i => do
    let (pa, p, d) ← d.nestLoad (base + BitVec.ofNat 64 (4 * i)) 4
    let (ps, q, d) ← nestTable d base n (i + 1)
    pure (pa :: ps, p || q, d)

/-- An element stored (R147): a line that the form has then written in all its bytes with clean data loses its poison (R177). -/
def nestStore (d : Dev) (f : NestForm) (pa n v : Nat) (p : Bool) : Dev × NestForm :=
  let d := d.store pa n v p
  let l := lineOf pa
  let bits := (2 ^ n - 1) * 2 ^ (pa % 64)
  let was := Map.get 0 f.clean l
  let now := if p then was ^^^ (was &&& bits) else was ||| bits
  (if now = 2 ^ 64 - 1 then d.setLinePoison l false else d, { f with clean := Map.set f.clean l now })

/-- One element of a form that is no VRED (R147): checks in the order first source, second source, destination, then the
loads and the store. -/
def nestElem (d : Dev) (f : NestForm) (l : Nat) : Res (Dev × NestForm) := do
  let ix := nestIndex f.ext l
  let base (j : Nat) : Word := f.bases.getD j 0
  let dd := nestAddr (base 0) ix f.sD
  let (pa, p, d) ← d.nestLoad (nestAddr (base 1) ix f.sA) (srcBytes f)
  let usesB := nestUsesB f.wclass f.opc
  let tb := !f.wclass && f.opc = 0xC
  let (pb, q, d) ← if usesB && !tb then d.nestLoad (nestAddr (base 2) ix f.sB) (srcBytes f) else pure (0, false, d)
  let (pt, r, d) ← if tb then d.nestTable (base 2) 259 0 else pure ([], false, d)
  let addend := !f.wclass && f.opc = 3
  let (_, po, d) ← if addend then d.nestLoad dd (typeBytes f.td) else pure (0, false, d)
  let sd := typeBytes f.td
  let sd := if f.wclass && f.opc = 0xF then cvtBytes f.td else sd
  let (pd, d) ← d.accessS dd.toNat sd sd .laneStore dd.toNat
  let ss := srcBytes f
  let x := d.ld pa ss
  let y := d.ld pb ss
  let o := d.ld pd sd
  let (v, fl, d) :=
    if f.wclass then
      if f.opc = 0xF then
        -- R81 numbers lanes of rows; the draw of an element of a NEST form is not stated (log 23)
        let (w, d) := if f.sr then d.free else (0, d)
        let c := cvtCode f.td (if f.sr then some (fld w.toNat 0 32) else none) (cvtVal f.ts x)
        (c.1, c.2, d)
      else (x, 0, d)
    else if tb then
      let c := laneTbi (fun i => d.ld (pt.getD i 0) 4) f.ts x
      (c.1, c.2, d)
    else
      let c := laneRule f.opc f.ts x y o
      (c.1, c.2, d)
  let r := d.nestStore f pd sd v (p || q || r || po)
  pure (r.1.raiseF 0 fl, r.2)

/-- One run of a wrapped VRED along level 0 (R149): physical addresses of its elements, checked in order. -/
def nestRunLoads (d : Dev) (f : NestForm) (ix : List Nat) : Nat → Nat → Res (List Nat × Bool × Dev)
  | 0, _ => .ok ([], false, d)
  | n + 1, i => do
    let (pa, p, d) ← d.nestLoad (nestAddr (f.bases.getD 1 0) (i :: ix) f.sA) (typeBytes f.ts)
    let (ps, q, d) ← nestRunLoads d f ix n (i + 1)
    pure (pa :: ps, p || q, d)

/-- The sequential fold of a run (R149). -/
def foldRun (t op : Nat) (xs : List Nat) : Nat × Nat :=
  match xs with
  | [] => (0, 0)
  | e :: es =>
    match op with
    | 0 =>
      if isInt t then clampInt t (xs.foldl (fun s x => s + laneInt t x) 0)
      else
        let m := es.foldl (fun (a : Nat × Nat) x =>
          let r := faddF f32 a.1 (toF32 t x)
          (r.1, a.2 ||| r.2)) (toF32 t e, 0)
        let r := fromF32 t m.1
        (r.1, m.2 ||| r.2)
    | 1 => (es.foldl (fun m x => (laneMax t m x).1) (laneMax t e e).1, 0)
    | 2 => (es.foldl (fun m x => (laneMin t m x).1) (laneMin t e e).1, 0)
    | _ => (Word.ofInt (argMax t ((List.range xs.length).zip xs)) 32, 0)

/-- One step of a wrapped VRED: a whole run, then its result (R149). -/
def nestRun (d : Dev) (f : NestForm) (l : Nat) : Res (Dev × NestForm) := do
  let ix := nestIndex f.ext.tail l
  let (ps, p, d) ← d.nestRunLoads f ix (f.ext.headD 0) 0
  let r := foldRun f.ts f.op (ps.map (fun a => d.ld a (typeBytes f.ts)))
  let sd := if f.op = 3 then 4 else typeBytes f.td
  let dd := nestAddr (f.bases.getD 0 0) (0 :: ix) f.sD
  let (pd, d) ← d.accessS dd.toNat sd sd .laneStore dd.toNat
  let x := d.nestStore f pd sd r.1 p
  pure (x.1.raiseF 0 r.2, x.2)

/-- Steps of a NEST form from step `l` on, `n` of them: the step that stops, if one does (R148). -/
def nestGo (d : Dev) (f : NestForm) (l : Nat) : Nat → Dev × NestForm × Option (Nat × Stop)
  | 0 => (d, f, none)
  | n + 1 =>
    match (if !f.wclass && f.opc = 0x17 then d.nestRun f l else d.nestElem f l) with
    | .error e => (d, f, some (l, e))
    | .ok (d, f) => nestGo d f (l + 1) n

/-- The byte stride of a 5-bit field (R32), and whether its register is poisoned. -/
def nestStride (d : Dev) (size k : Nat) : Word × Bool :=
  if k < 16 then ((d.reg k).v, (d.reg k).p) else (if k = 17 then BitVec.ofNat 64 size else 0, false)

/-- The five numbers of a level table as a list. -/
def fiveList (x : Five) : List Nat := [x.l0, x.l1, x.l2, x.l3, x.l4]

/-- Issue of a NEST form (R147): types, bases and strides staged; a poisoned register among them commits. -/
def nestStage (d : Dev) (wclass : Bool) (opc bd ba bb e m : Nat) (ext sD sA sB : Five) : Res NestForm := do
  let (td, ts) ←
    if wclass && opc = 0xF then d.cvtTypes (fld m 5 4) (fld m 0 4) 0
    else do
      let t ← d.vtype (if wclass then tAll else nestTypes opc) (fld m 5 4)
      pure (t, t)
  let op := if opc = 0x17 then fld m 0 2 else 0
  let red := !wclass && opc = 0x17
  let sizeD := if wclass && opc = 0xF then cvtBytes td else if red && op = 3 then 4 else typeBytes td
  let sizeS := if wclass && opc = 0xF then cvtBytes ts else typeBytes ts
  let usesB := nestUsesB wclass opc
  let tb := !wclass && opc = 0xC
  let str (size : Nat) (x : Five) : List (Word × Bool) := ((fiveList x).take e).map (d.nestStride size)
  let dS := str sizeD sD
  let dS := if red then (0, false) :: dS.tail else dS
  let aS := str sizeS sA
  let bS := if usesB && !tb then str sizeS sB else []
  let base (n : Nat) : Reg := d.reg n
  let p := (base bd).p || (base ba).p || (usesB && (base bb).p) || (dS ++ aS ++ bS).any (·.2)
  let f : NestForm :=
    { wclass := wclass, opc := opc, op := op, td := td, ts := ts, sr := wclass && opc = 0xF && flag m 4,
      ext := (fiveList ext).take e, bases := [(base bd).v, (base ba).v, (base bb).v],
      sD := dS.map (·.1), sA := aS.map (·.1), sB := bS.map (·.1) }
  if p then commitReg (base bd).v.toNat else pure f

/-- The staged form as the plain data of an operation in progress (R148). -/
def NestForm.pack (f : NestForm) (i : Instr) (word : Nat) (pc : Word) : LongOp :=
  { ins := i, word := word, pc := pc, step := 0,
    n := [bit f.wclass, f.opc, f.op, f.td, f.ts, bit f.sr] ++ f.ext,
    regs := (f.bases ++ f.sD ++ f.sA ++ f.sB).map (fun w => ⟨w, false⟩), rows := [], mask := {}, p := false, res := [] }

/-- The form of an operation in progress. -/
def NestForm.unpack (o : LongOp) : NestForm :=
  let e := o.n.drop 6
  let k := e.length
  let r := o.regs.map (·.v)
  { wclass := o.n.getD 0 0 == 1, opc := o.n.getD 1 0, op := o.n.getD 2 0, td := o.n.getD 3 0, ts := o.n.getD 4 0,
    sr := o.n.getD 5 0 == 1, ext := e, bases := r.take 3, sD := (r.drop 3).take k, sA := (r.drop (3 + k)).take k,
    sB := r.drop (3 + 2 * k), clean := o.clean }

/-- The steps of the staged form that are left; what stops it, with the step (R148). -/
def nestRunOn (d : Dev) (h : Hdr) (o : LongOp) : Dev × Verdict :=
  let f := NestForm.unpack o
  match d.nestGo f o.step (f.steps - o.step) with
  | (d, _, none) =>
    let d := d.setStm { d.stm with load := none, resumeStep := 0 }
    (d.fillToken h.pt, .done)
  | (d, f, some (l, .wait w)) =>
    let d := d.setStm { d.stm with load := some { o with step := l, clean := f.clean } }
    (d.applyWait w, .waiting w)
  | (d, f, some (l, .trap t)) =>
    let t := { t with step := l }
    let d := d.setStm { d.stm with load := some { o with step := l, clean := f.clean } }
    (d.takeFault t, .trapped t)

end Dev

/-- NEST (R146 to R149): a form that has not issued is staged and takes its tokens; then its steps run. A form that a fault
or a wait stopped goes on at its step with what it staged; a written COR_SSTEP is that step (R207). -/
def execNest (h : Hdr) (wclass : Bool) (opc bd ba bb e m : Nat) (ext sD sA sB : Five) (s : State) :
    Host.Outcome State Fault Refusal :=
  let d := s.dev
  let put (r : Dev × Verdict) : Host.Outcome State Fault Refusal := .next { s with dev := { r.1 with verdict := r.2 } }
  match d.stm.load with
  | some o => put (d.nestRunOn h o)
  | none =>
    if d.suppressed h then put (d, .done)
    else
      match (do d.tokensReady h; d.nestStage wclass opc bd ba bb e m ext sD sA sB) with
      | .error (.wait w) => put (d.applyWait w, .waiting w)
      | .error (.trap t) => put (d.takeFault t, .trapped t)
      | .ok f =>
        let o := Dev.NestForm.pack f (.nest h wclass opc bd ba bb e m ext sD sA sB) d.cur.word d.cur.pc
        let d1 := (d.setStm { d.stm with load := some o }).settle h true
        put ((d1.stepV f.sr).nestRunOn h o)

end Sys2Proof.Machine
end

