-- ==== Sys2Proof/Machine/Query.lean ====
section
/-!
DEFINITION. Class 0x7, the exact geometric queries (spec/17_query.md R328 to R341).
-/

namespace Sys2Proof.Machine
open Word

/-- Which predicate a query instruction evaluates (R328). -/
structure QKind where
  /-- Dimensions of a point, and points. -/
  dim : Nat
  pts : Nat
  /-- INCIRC and INSPH lift the points (R332). -/
  lift : Bool
  seg : Bool
  /-- The exponents of cA and cB, negated (R334). -/
  cA : Nat
  cB : Nat
  deriving DecidableEq, Repr

def qOrient2 : QKind := ⟨2, 3, false, false, 50, 51⟩
def qOrient3 : QKind := ⟨3, 4, false, false, 49, 50⟩
def qIncirc : QKind := ⟨2, 4, true, false, 48, 50⟩
def qInsph : QKind := ⟨3, 5, true, false, 47, 50⟩
def qSegx : QKind := ⟨2, 4, false, true, 50, 51⟩

/-- The predicate of a query instruction. -/
def queryKind : Instr → Option QKind
  | .orient2 .. => some qOrient2
  | .orient3 .. => some qOrient3
  | .incirc .. => some qIncirc
  | .insph .. => some qInsph
  | .segx .. => some qSegx
  | _ => none

/-- The coordinate rows of a predicate. -/
def QKind.coords (q : QKind) : Nat := q.dim * q.pts

/-! ### Determinants -/

/-- A list without the member at an index. -/
def dropAt {α : Type} : Nat → List α → List α
  | _, [] => []
  | 0, _ :: xs => xs
  | n + 1, x :: xs => x :: dropAt n xs

/-- The alternating sum of a list of terms. -/
def altSum {α : Type} (sub add : α → α → α) : List α → Option α
  | [] => none
  | x :: xs => some ((xs.foldl (fun (a : α × Bool) y => (if a.2 then sub a.1 y else add a.1 y, !a.2)) (x, true)).1)

/-- A determinant by R334: two by two directly, a larger one along its first column. `add` and `sub` combine products; the
number bounds the recursion. -/
def detWith {α : Type} [Inhabited α] (mul add sub : α → α → α) : Nat → List (List α) → α
  | 0, m => (m.headD []).headD default
  | n + 1, m =>
    match m with
    | [r, s] => sub (mul (r.getD 0 default) (s.getD 1 default)) (mul (r.getD 1 default) (s.getD 0 default))
    | _ =>
      let minor (i : Nat) : List (List α) := (dropAt i m).map (·.drop 1)
      let term (i : Nat) : α := mul ((m.getD i []).headD default) (detWith mul add sub n (minor i))
      (altSum sub add ((List.range m.length).map term)).getD default

/-- An exact determinant of integers. -/
def detInt (m : List (List Int)) : Int := detWith (· * ·) (· + ·) (· - ·) m.length m

/-! ### Stage A -/

/-- An FP64 code with the mark of R334: some operation overflowed or was inexact below 2^-1022. -/
abbrev QNum := Nat × Bool

/-- The mark of one operation. -/
def qBad (r : Nat × Nat) : Bool := flag r.2 2 || (flag r.2 0 && fld r.1 52 11 == 0)

/-- An FP64 operation that carries the mark on. -/
def qOp (f : Nat → Nat → Nat × Nat) (a b : QNum) : QNum :=
  let r := f a.1 b.1
  (r.1, a.2 || b.2 || qBad r)

/-- The magnitude of a code. -/
def qAbs (a : QNum) : QNum := (fld a.1 0 63, a.2)

/-- The lifted entry of a row of rounded differences (R334). -/
def qLift (r : List QNum) : QNum :=
  let sq := r.map (fun x => qOp (fmulF f64) x x)
  sq.tail.foldl (qOp (faddF f64)) (sq.headD (0, false))

/-- The exact value of a finite FP64 code in units of 2^-1074. -/
def qInt (c : Nat) : Int :=
  match valF f64 c with
  | .fin s n e => FVal.num s (n * 2 ^ 1074 / e)
  | _ => 0

/-- The sum of squares of a row of exact differences. -/
def sqSum (r : List Int) : Int := r.foldl (fun a x => a + x * x) 0

/-- The result of one orientation: its sign, the stage that found it, and whether that went through stages B and C. -/
structure QRes where
  sign : Int
  stage : Nat
  b : Bool := false
  c : Bool := false
  s : Bool := false
  deriving DecidableEq, Repr

/-- 2 to a negative power as an FP64 code. -/
def pow2neg (k : Nat) : Nat := (1023 - k) * 2 ^ 52

/-- The differences of the points from the last one. -/
def diffs {α : Type} (f : α → α → α) (ps : List (List α)) : List (List α) :=
  let z := ps.getLastD []
  ps.dropLast.map (fun p => List.zipWith f p z)

/-- The exact sign of a predicate over FP64 codes (R332, R336). -/
def exactSign (lift : Bool) (ps : List (List Nat)) : Int :=
  let r := diffs (· - ·) (ps.map (·.map qInt))
  Int.sign (detInt (if lift then r.map (fun x => x ++ [sqSum x]) else r))

/-- Stages A to C of one predicate on the points' FP64 codes (R334 to R336). -/
def stages (q : QKind) (ps : List (List Nat)) : QRes :=
  let dl := diffs (qOp (fsubF f64)) (ps.map (·.map (fun c => (c, false))))
  let m := if q.lift then dl.map (fun r => r ++ [qLift r]) else dl
  let n := m.length
  let dA := detWith (qOp (fmulF f64)) (qOp (faddF f64)) (qOp (fsubF f64)) n m
  let pA := detWith (qOp (fmulF f64)) (qOp (faddF f64)) (qOp (faddF f64)) n (m.map (·.map qAbs))
  let bound := qOp (fmulF f64) (pow2neg q.cA, false) pA
  let codes := dl.map (·.map (·.1))
  if dA.2 || pA.2 || bound.2 then ⟨exactSign q.lift ps, 2, false, true, false⟩
  else if fld pA.1 0 63 = 0 then ⟨0, 0, false, false, false⟩
  else if (valF f64 bound.1).lt (valF f64 (fld dA.1 0 63)) then ⟨if flag dA.1 63 then -1 else 1, 0, false, false, false⟩
  else
    let ex := codes.map (·.map qInt)
    let dB := detInt (if q.lift then ex.map (fun r => r ++ [sqSum r]) else ex)
    let exact := diffs (· - ·) (ps.map (·.map qInt)) == ex
    let deg := q.dim + (if q.lift then 2 else 0)
    let rB := (rne f64 (.fin false dB.natAbs (2 ^ (1074 * deg)))).1
    let bB := (fmulF f64 (pow2neg q.cB) pA.1).1
    if exact || (valF f64 bB).lt (valF f64 rB) then ⟨Int.sign dB, 1, true, false, false⟩
    else ⟨exactSign q.lift ps, 2, true, true, false⟩

/-! ### Symbolic perturbation (R338) -/

/-- The coefficient of a product of perturbations: the determinant with each perturbed entry's row made a unit row. -/
def coefficient (m : List (List Int)) (chosen : List (Nat × Nat)) : Int :=
  detInt ((List.range m.length).map (fun k =>
    match chosen.find? (fun v => v.1 = k) with
    | some v => (List.range m.length).map (fun j => if j = v.2 then (1 : Int) else 0)
    | none => m.getD k []))

/-- The sign of the dominant term. The perturbed entries come largest exponent first, so that the subsets are met in
ascending order of their exponents. -/
def dominant (m : List (List Int)) (chosen : List (Nat × Nat)) : List (Nat × Nat) → Int
  | [] => Int.sign (coefficient m chosen)
  | v :: vs =>
    let s := dominant m chosen vs
    if s != 0 then s
    else if chosen.any (fun c => c.1 = v.1 || c.2 = v.2) then 0
    else dominant m (v :: chosen) vs

/-- The sign of the perturbed determinant (R338): `ix` gives the index of each point. -/
def perturbed (lift : Bool) (ps : List (List Nat)) (ix : List Nat) : Int :=
  let rows := (ps.map (·.map qInt)).map (fun r => r ++ (if lift then [sqSum r] else []) ++ [1])
  let w := (rows.headD []).length - 1
  let vars := (List.range ps.length).flatMap (fun k => (List.range w).map (fun j => (k, j)))
  let order (a b : Nat × Nat) : Bool := 4 * ix.getD b.1 0 + b.2 ≤ 4 * ix.getD a.1 0 + a.2
  dominant rows [] (vars.sortWith order)

/-- One predicate with its perturbation. -/
def orient (q : QKind) (sos : Bool) (ps : List (List Nat)) (ix : List Nat) : QRes :=
  let r := stages q ps
  if sos && r.sign = 0 then { r with sign := perturbed q.lift ps ix, stage := 2, s := true } else r

/-! ### One lane -/

/-- Whether one point comes before another in the order of R333. -/
def lexLt (p q : List Int) : Bool :=
  p.getD 0 0 < q.getD 0 0 || (p.getD 0 0 == q.getD 0 0 && decide (p.getD 1 0 < q.getD 1 0))

/-- The class of two collinear segments (R333). -/
def collinear (ps : List (List Int)) : Int :=
  let p (i : Nat) : List Int := ps.getD i []
  let mn (a b : List Int) : List Int := if lexLt b a then b else a
  let mx (a b : List Int) : List Int := if lexLt a b then b else a
  let lo := mx (mn (p 0) (p 1)) (mn (p 2) (p 3))
  let hi := mn (mx (p 0) (p 1)) (mx (p 2) (p 3))
  if lexLt lo hi then 3 else if lexLt hi lo then 0 else 2

/-- SEGX of one lane (R333). -/
def segLane (sos : Bool) (ps : List (List Nat)) (ix : List Nat) : QRes :=
  let o (a b c : Nat) : QRes :=
    orient qOrient2 sos [ps.getD a [], ps.getD b [], ps.getD c []] [ix.getD a 0, ix.getD b 0, ix.getD c 0]
  let o1 := o 0 1 2
  let o2 := o 0 1 3
  let o3 := o 2 3 0
  let o4 := o 2 3 1
  let os := [o1, o2, o3, o4]
  let cls : Int :=
    if 0 < o1.sign * o2.sign || 0 < o3.sign * o4.sign then 0
    else if os.all (fun x => x.sign != 0) then 1
    else if os.all (fun x => x.sign == 0) then collinear (ps.map (·.map qInt))
    else 2
  ⟨cls, os.foldl (fun m x => max m x.stage) 0, os.any (·.b), os.any (·.c), os.any (·.s)⟩

/-- Whether an FP64 code is a NaN or an infinity. -/
def nonFinite (c : Nat) : Bool := fld c 52 11 == 0x7FF

/-- One lane: `none` for a non-finite coordinate (R337). -/
def queryLane (q : QKind) (sos : Bool) (cs ix : List Nat) : Option QRes :=
  if cs.any nonFinite then none
  else
    let ps := (List.range q.pts).map (fun k => (cs.drop (q.dim * k)).take q.dim)
    some (if q.seg then segLane sos ps ix else orient q sos ps ix)

/-! ### The instruction -/

/-- The FP64 codes of the coordinates of a row (R328). -/
def coordLanes (t : Nat) (v : RowBits) : List Nat :=
  let xs := lanesOf (laneBits t) (laneCount t) v
  if t = 1 then xs.map (fun x => (roundF f64 none (valF f32 x)).1) else xs

/-- What is staged of a query: FP64 coordinates and indices by lane. -/
def laneCoords (q : QKind) (t : Nat) (rows : List RowData) : List (List Nat) :=
  let cols := (rows.take q.coords).map (fun r => coordLanes t r.v)
  (List.range (laneCount t)).map (fun i => cols.map (fun c => c.getD i 0))

def laneIndices (q : QKind) (t : Nat) (rows : List RowData) : List (List Nat) :=
  let cols := ((rows.drop q.coords).take q.pts).map (fun r => lanesOf 32 512 r.v)
  (List.range (laneCount t)).map (fun i => cols.map (fun c => c.getD i 0))

/-- The results of the lanes: `none` inactive, `some none` non-finite. -/
def queryLanes (q : QKind) (sos : Bool) (t : Nat) (act : MaskBits) (rows : List RowData) : List (Option (Option QRes)) :=
  let cs := laneCoords q t rows
  let ix := laneIndices q t rows
  (List.range (laneCount t)).map (fun i =>
    if act.getLsbD i then some (queryLane q sos (cs.getD i []) (ix.getD i [])) else none)

/-- The restart steps of a query (R341): stage A, batches of stage B, lanes of stage C, lanes of perturbation. -/
def querySteps (ls : List (Option (Option QRes))) : Nat :=
  let n (f : QRes → Bool) : Nat := (ls.filter (fun l => match l with
    | some (some r) => f r
    | _ => false)).length
  1 + (n (·.b) + 7) / 8 + n (·.c) + n (·.s)

/-- The result byte and the stage code of a lane (R331). -/
def laneByte (r : Option QRes) : Nat × Nat :=
  match r with
  | none => (0x80, 3)
  | some x => (ofInt x.sign 8, x.stage)

/-- How many restart steps resolve a lane (R341). -/
def laneSteps (ls : List (Option (Option QRes))) (i : Nat) : Nat :=
  let n (k : Nat) (f : QRes → Bool) : Nat := ((ls.take k).filter (fun l => match l with
    | some (some r) => f r
    | _ => false)).length
  let m := ls.length
  match ls.getD i none with
  | some (some r) =>
    if r.s then 2 + (n m (·.b) + 7) / 8 + n m (·.c) + n i (·.s)
    else if r.c then 2 + (n m (·.b) + 7) / 8 + n i (·.c)
    else if r.b then 2 + n i (·.b) / 8
    else 1
  | _ => 1

/-- The results and the stage codes of the lanes that a number of restart steps has resolved, as two staged rows (R341). -/
def resolved (ls : List (Option (Option QRes))) (steps : Nat) : List RowData :=
  let lane (w : Nat) (f : Nat × Nat → Nat) : RowBits := rowOf w ((List.range ls.length).map (fun i =>
    match ls.getD i none with
    | some r => if laneSteps ls i ≤ steps then f (laneByte r) else 0
    | none => 0))
  [⟨lane 8 (·.1), false⟩, ⟨lane 2 (·.2), false⟩]

/-- The position k of the first point of a lane that repeats an earlier index (R330). -/
def duplicate (ix : List Nat) : Option Nat := (List.range ix.length).find? (fun k => (ix.take k).contains (ix.getD k 0))

namespace Dev

/-- The rows of a query read in order. -/
def readRows (d : Dev) (r : Nat) : Nat → Res (List RowData)
  | 0 => .ok []
  | n + 1 => do
    let x ← d.readRow r
    let xs ← readRows d (r + 1) n
    pure (x :: xs)

/-- The numbered values of a query in progress: type, SOS, vD, whether a mask governs it. -/
def qStaged (t : Nat) (sos : Bool) (fD : Nat) (me : Bool) : List Nat := [t, bit sos, fD, bit me]

/-- The issue of a query (R330): the wait for the unit, before which it takes nothing (R340), its checks in order, its staging (R341). -/
def queryOp (d : Dev) (i : Instr) (q : QKind) (v : VField) (sos tnf : Bool) (fD fA : Nat) : Res Dev := do
  if d.stm.op.isSome || d.unitBusy .V (fun i => (queryKind i).isSome) then waitFor .busy else pure ()
  let t ← d.vtype [1, 4] v.t
  let n := q.coords + (if sos then q.pts else 0)
  trapIf (0x800 ≤ fD || 0x800 ≤ fA || d.grp.rowsN ≤ fD + 1 || d.grp.rowsN < fA + n) 4 d.cur.pc.toNat
  let rows ← d.readRows fA n
  let act := maskOf 1024 ((d.active v (laneCount t)) ++ List.replicate (1024 - laneCount t) false)
  let cs := laneCoords q t rows
  let ix := laneIndices q t rows
  let lanes := (List.range (laneCount t)).filter (fun j => act.getLsbD j)
  let bad (j : Nat) : Option Nat := (List.range q.coords).find? (fun c => nonFinite ((cs.getD j []).getD c 0))
  let dup (j : Nat) : Option Nat := if (bad j).isSome then none else duplicate (ix.getD j [])
  match (if sos then lanes.findSome? (fun j => (dup j).map (fun k => j + k * 2 ^ 16)) else none) with
  | some a => trap 4 a
  | none =>
    match (if tnf then lanes.findSome? (fun j => (bad j).map (fun c => j + c * 2 ^ 16)) else none) with
    | some a => trap 0x14 a
    | none => do
      d.rowWritable fD (!v.me)
      d.rowWritable (fD + 1) (!v.me)
      pure ((d.begin
        { ins := i, word := 0, pc := 0, step := 0, n := qStaged t sos fD v.me, regs := [], rows := rows,
          mask := ⟨act, d.maskP v⟩, p := d.maskP v || rows.any (·.p), res := [] }).serve (queryUnit d.cur.core))

/-- The end of a query (R331): both destination rows, whose unwritten lanes keep what the rows hold once they are replayed. -/
def queryRetire (d : Dev) (key : Nat) (o : LongOp) (ls : List (Option (Option QRes))) : Res Dev := do
  let fD := o.n.getD 2 0
  let full := o.n.getD 3 0 = 0
  let d ← d.readyRows key full [fD, fD + 1]
  let g := d.group key
  let n := ls.length
  let o1 := (rowIn g fD).v
  let o2 := (rowIn g (fD + 1)).v
  let res (i : Nat) (w k : Nat) (f : Nat × Nat → Nat) (old : RowBits) : Nat :=
    match ls.getD i none with
    | some r => f (laneByte r)
    | none => if i < n then fld old.toNat (w * i) k else 0
  let v1 := rowOf 8 ((List.range n).map (fun i => res i 8 8 (·.1) o1))
  let v2 := rowOf 2 ((List.range n).map (fun i => res i 2 2 (·.2) o2))
  let d := d.retireRow key fD v1 o.p full
  pure ((d.retireRow key (fD + 1) v2 o.p full).finishOp key .V o)

/-- A query with the results of the lanes that its steps have resolved (R341). -/
def queryKept (q : QKind) (ls : List (Option (Option QRes))) (o : LongOp) (steps : Nat) : LongOp :=
  { o with step := steps, rows := o.rows.take (q.coords + q.pts * o.n.getD 1 0) ++ resolved ls steps }

/-- The end of a query whose rows may have to be replayed first: no fault arises in it (R341), so where a replay fails it has not retired
yet (log 90). -/
def queryEnd (d : Dev) (key : Nat) : Res Dev → Dev
  | .ok d => d
  | .error (.wait _) => d.preemptReader key
  | .error (.trap _) => d

/-- One restart step of a query in progress (R341); after the last, it retires. -/
def queryStep (d : Dev) (key : Nat) : Dev :=
  match d.opOf key .V with
  | none => d
  | some o =>
    match queryKind o.ins with
    | none => d
    | some q =>
      let ls := queryLanes q (o.n.getD 1 0 == 1) (o.n.getD 0 0) o.mask.v o.rows
      if o.step + 1 < querySteps ls then d.setOp key .V (queryKept q ls o (o.step + 1))
      else d.queryEnd key (d.queryRetire key o ls)

end Dev

def execOrient2 (h : Hdr) (v : VField) (sos tnf : Bool) (fD fA : Nat) (s : State) : Host.Outcome State Fault Refusal :=
  stream h (·.queryOp (.orient2 h v sos tnf fD fA) qOrient2 v sos tnf fD fA) s

def execOrient3 (h : Hdr) (v : VField) (sos tnf : Bool) (fD fA : Nat) (s : State) : Host.Outcome State Fault Refusal :=
  stream h (·.queryOp (.orient3 h v sos tnf fD fA) qOrient3 v sos tnf fD fA) s

def execIncirc (h : Hdr) (v : VField) (sos tnf : Bool) (fD fA : Nat) (s : State) : Host.Outcome State Fault Refusal :=
  stream h (·.queryOp (.incirc h v sos tnf fD fA) qIncirc v sos tnf fD fA) s

def execInsph (h : Hdr) (v : VField) (sos tnf : Bool) (fD fA : Nat) (s : State) : Host.Outcome State Fault Refusal :=
  stream h (·.queryOp (.insph h v sos tnf fD fA) qInsph v sos tnf fD fA) s

def execSegx (h : Hdr) (v : VField) (sos tnf : Bool) (fD fA : Nat) (s : State) : Host.Outcome State Fault Refusal :=
  stream h (·.queryOp (.segx h v sos tnf fD fA) qSegx v sos tnf fD fA) s

/-- QUERY_STEP_COMPLETE (R341). -/
def execQueryStepComplete (g : Nat) (s : State) : Host.Outcome State Fault Refusal := event (·.queryStep g) s

end Sys2Proof.Machine
end

