-- ==== Sys2Proof/Machine/QueueInstr.lean ====
section
/-!
DEFINITION. Class 0xB, the queue instructions (spec/10_queue.md R226 to R229).
-/

namespace Sys2Proof.Machine
open Word

namespace Dev

/-- QPUSH of a word (R227). -/
def qpushOp (d : Dev) (port fa : Nat) : Res Dev := do
  let f ← d.resolve port true false .instr
  d.pushN port f [⟨(d.reg fa).v.setWidth 16384, (d.reg fa).p⟩]

/-- QPUSH of a row (R227). -/
def qpushRowOp (d : Dev) (port vR : Nat) : Res Dev := do
  d.inBounds vR
  let f ← d.resolve port true true .instr
  let x ← d.readRow vR
  d.pushN port f [⟨x.v, x.p⟩]

/-- QPOP (R224, R227): `put` writes the entry to the destination. The condition register of the E form is not poisoned
(log 24). -/
def qpopWith (d : Dev) (port : Nat) (wide e : Bool) (cd : Nat) (put : Dev → Entry → Res Dev) : Res Dev := do
  let f ← d.resolve port false wide .instr
  if e && (d.entriesOf f).isEmpty && d.endOfWork f then pure (d.setCreg cd ⟨true, false⟩)
  else do
    let (x, d) ← d.pop1 port f
    let d ← put d x
    pure (if e then d.setCreg cd ⟨false, false⟩ else d)

/-- QPEEK (R227): never waits and takes nothing. -/
def qpeekWith (d : Dev) (port : Nat) (wide : Bool) (cd : Nat) (put : Dev → Entry → Res Dev) : Res Dev := do
  let f ← d.resolve port false wide .instr
  match d.entriesOf f with
  | [] => pure (d.setCreg cd ⟨false, false⟩)
  | x :: _ => do
    let d ← put d x
    pure (d.setCreg cd ⟨true, false⟩)

/-- An entry into a register. -/
def putWord (fd : Nat) (d : Dev) (x : Entry) : Res Dev := .ok (d.setReg fd ⟨x.v.setWidth 64, x.p⟩)

/-- An entry into a row. -/
def putRow (vR : Nat) (d : Dev) (x : Entry) : Res Dev := d.writeRow vR x.v x.p true

/-- What a port names for QSTAT, which needs no mode (R228). -/
def statPort (d : Dev) (port : Nat) : Option Fifo :=
  if d.cur.svc then none
  else if port < 248 then
    match Map.find d.grp.ports port with
    | some b => if d.bindingLive b then some (.pool b.queue) else none
    | none => none
  else if port = 248 then some .q248
  else if port = 249 then some .q249
  else if port = 250 then (if 128 ≤ d.cur.core && d.mailboxBound then some .q250 else none)
  else if port = 251 then (if 128 ≤ d.cur.core && d.mailboxBound then some .q251 else none)
  else if port = 252 then some .q252
  else none

/-- KIND and width of a queue (R213, R228). -/
def kindOf (d : Dev) : Fifo → Nat × Bool
  | .pool n => ((d.queue n).kind, (d.queue n).wide)
  | .q248 => (4, false)
  | .q249 => (5, true)
  | .q250 => (6, false)
  | .q251 => (6, false)
  | .q252 => (7, false)

/-- The code of a queue's state (R215). -/
def QState.num : QState → Nat
  | .free => 0
  | .opened => 1
  | .closed => 2
  | .broken => 3

/-- QSTAT (R228). -/
def qstatWord (d : Dev) (port : Nat) : Nat :=
  match d.statPort port with
  | none => 0
  | some f =>
    let st := match f with
      | .pool n => QState.num (d.queue n).state
      | _ => 1
    (d.kindOf f).1 * 2 ^ 32 + bit (d.kindOf f).2 * 2 ^ 31 + bit d.grp.marked * 2 ^ 30 + st * 2 ^ 26
      + d.depthOf f * 2 ^ 13 + (d.entriesOf f).length

/-- QBIND (R229). -/
def qbindOp (d : Dev) (port mode fd fa : Nat) : Res Dev :=
  if 248 ≤ port then trap 0x16 port
  else
    let a := d.reg fa
    let was := (Map.find d.grp.ports port).map (·.queue)
    let reap (d : Dev) : Dev := match was with
      | some q => d.reapQueue q
      | none => d
    if mode = 0 then .ok (reap ((d.setGrp { d.grp with ports := Map.del d.grp.ports port }).setReg fd ⟨0, false⟩))
    else
      let q := a.v.toNat % 4096
      if a.v.toNat / 4096 != 0 || (d.queue q).state == .free then .ok (d.setReg fd ⟨1, a.p⟩)
      else
        let w := d.widestMode d.myCtx q
        if (mode &&& w) != mode then .ok (d.setReg fd ⟨2, a.p⟩)
        else
          let b : Binding := ⟨q, mode, (d.queue q).round⟩
          .ok (reap ((d.setGrp { d.grp with ports := Map.set d.grp.ports port b }).setReg fd ⟨0, a.p⟩))

end Dev

def execQpush (h : Hdr) (port fa : Nat) (s : State) : Host.Outcome State Fault Refusal :=
  stream h (·.qpushOp port fa) s

def execQpushRow (h : Hdr) (port vR : Nat) (s : State) : Host.Outcome State Fault Refusal :=
  stream h (·.qpushRowOp port vR) s

def execQpop (h : Hdr) (port : Nat) (e : Bool) (cd fd : Nat) (s : State) : Host.Outcome State Fault Refusal :=
  stream h (·.qpopWith port false e cd (Dev.putWord fd)) s

def execQpopRow (h : Hdr) (port : Nat) (e : Bool) (cd vR : Nat) (s : State) : Host.Outcome State Fault Refusal :=
  stream h (fun d => do d.inBounds vR; d.qpopWith port true e cd (Dev.putRow vR)) s

def execQpeek (h : Hdr) (port cd fd : Nat) (s : State) : Host.Outcome State Fault Refusal :=
  stream h (·.qpeekWith port false cd (Dev.putWord fd)) s

def execQpeekRow (h : Hdr) (port cd vR : Nat) (s : State) : Host.Outcome State Fault Refusal :=
  stream h (fun d => do d.inBounds vR; d.qpeekWith port true cd (Dev.putRow vR)) s

def execQstat (h : Hdr) (port fd : Nat) (s : State) : Host.Outcome State Fault Refusal :=
  stream h (fun d => .ok (d.setReg fd ⟨BitVec.ofNat 64 (d.qstatWord port), false⟩)) s

def execQbind (h : Hdr) (port mode fd fa : Nat) (s : State) : Host.Outcome State Fault Refusal :=
  stream h (·.qbindOp port mode fd fa) s

end Sys2Proof.Machine
end

