-- ==== Sys2Proof/Machine/Sampler.lean ====
section
/-!
DEFINITION. The sampler units: requests, steps, step programs and their result words (spec/18_sequence.md R345 to R360).
-/

namespace Sys2Proof.Machine
open Word

/-- How an instruction of a step program ends its step, or waits (R349, R359, R384). -/
inductive StepStop where
  | ended (status : Nat)
  /-- Poison committed, with its kind: 2 a line, 3 the request entry. -/
  | poison (kind : Nat)
  | waits (w : Wait)
  deriving DecidableEq, Repr

/-- The result of a step-program instruction. -/
abbrev StepRes (α : Type) := Except StepStop α

/-- A status that ends the step when a condition holds. -/
def endIf (b : Bool) (status : Nat) : StepRes Unit := if b then .error (.ended status) else .ok ()

namespace StepRun

/-- A register: g0 reads 0 (R347). -/
def reg (r : StepRun) (n : Nat) : Reg := if n = 0 then {} else Map.get {} r.g n

/-- The kind of a poisoned register's poison (R359); 0 for a clean one. -/
def kindOf (r : StepRun) (n : Nat) : Nat := if (r.reg n).p then Map.get 2 r.kinds n else 0

/-- A register written; `kind` is 0 for a clean value (R358). -/
def setReg (r : StepRun) (n : Nat) (v : Word) (kind : Nat) : StepRun :=
  if n = 0 then r else { r with g := Map.set r.g n ⟨v, kind != 0⟩, kinds := Map.set r.kinds n kind }

/-- A poisoned register used as an address or count, or emitted, commits (R359). -/
def clean (r : StepRun) (n : Nat) : StepRes Unit := if (r.reg n).p then .error (.poison (r.kindOf n)) else .ok ()

/-- The order of the candidate list (R351): value descending, −0 equal to +0, then token id ascending. -/
def before (a b : Nat × Nat) : Bool :=
  let x := valF f32 a.2
  let y := valF f32 b.2
  FVal.lt y x || (!FVal.lt x y && a.1 ≤ b.1)

/-- The list in its order. -/
def order (r : StepRun) : StepRun := { r with list := r.list.sortWith before }

/-- The number of the sequence (R346). -/
def seqn (r : StepRun) (j : Nat) : Nat := 256 * j + r.seq

/-- The sum of the list's probabilities, sequentially in FP64 (R353). -/
def total (r : StepRun) : Nat := r.list.foldl (fun s c => (faddF f64 s (rne f64 (valF f32 c.2)).1).1) 0

/-- The index of the first candidate at which the running sum in FP64 meets a test; the last index where none does (R353,
R355). -/
def scan (test : FVal → Bool) (c : Nat) (i : Nat) : List (Nat × Nat) → Nat
  | [] => i - 1
  | x :: xs =>
    let c := (faddF f64 c (rne f64 (valF f32 x.2)).1).1
    if test (valF f64 c) then i else scan test c (i + 1) xs

/-- Counts staged for a token so far (R356). -/
def staged (r : StepRun) (t : Nat) : Nat := (r.counts.filter (· == t)).length

end StepRun

namespace Dev

/-- `cur` as the unit's reads use it (R348): the TLBs of the control cores, the address space of the sequence's owner. -/
def asUnit (d : Dev) (j own : Nat) : Dev := { d with cur := { core := 0xF0, key := keyOf own 65535, unit := j, sampler := true } }

/-- A read of a step (R348): the value, and the line where it is poisoned. A failed check is MEMFAULT. The translations that the
instruction takes are those that it holds while a later read of it waits (R321). -/
def stepRead (m : Mod) (d : Dev) (own a size : Nat) : StepRes (Nat × Option Nat × Dev) :=
  let u := d.asUnit d.cur.unit own
  match ({ u with cur := { u.cur with took := d.cur.took } }).accessS (a % 2 ^ 64) size size .load 0 with
  | .ok (pa, d') =>
    let (v, p, d') := d'.readAt m pa size
    .ok (v, if p then some (lineOf pa) else none, { d' with cur := { d.cur with took := d'.cur.took } })
  | .error (.wait w) => .error (.waits w)
  | .error (.trap _) => .error (.ended stMemFault)

/-- `n` elements read in ascending order, with the first poisoned line. -/
def stepReads (m : Mod) (d : Dev) (own a size : Nat) : Nat → StepRes (List Nat × Option Nat × Dev)
  | 0 => .ok ([], none, d)
  | n + 1 => do
    let (v, p, d) ← d.stepRead m own a size
    let (vs, q, d) ← stepReads m d own (a + size) size n
    pure (v :: vs, p.or q, d)

/-- The address of a token's count (R346). -/
def countAddr (q : Seq) (t : Nat) : Nat := q.pbase * 4096 + 2 * t

/-- Lines of the count table that hold the counts of tokens and that the host holds, exclusively or, for a write, at all: they are taken
back first (R378). -/
def countLent (d : Dev) (q : Seq) (ts : List Nat) (writes : Bool) : List Nat :=
  let l := d.link 0
  if l.lent.isEmpty && l.shared.isEmpty then []
  else (((ts.filter (· < 131072)).map (fun t => lineOf (countAddr q t))).eraseDups).filter (fun x =>
    l.lent.contains x || (writes && l.shared.contains x))

/-- The staged committed count of a token (R346, R352). -/
def countOfToken (d : Dev) (r : StepRun) (t : Nat) : Nat :=
  if 131072 ≤ t then 0 else min 65535 (d.ld (countAddr r.params t) 2 + r.staged t)

/-- Whether the count of a token lies in a poisoned line. -/
def countPoison (d : Dev) (r : StepRun) (t : Nat) : Bool := t < 131072 && d.linePoisoned (lineOf (countAddr r.params t))

/-! ### Instructions (R351 to R358) -/

/-- SLDC (R351). -/
def sldcOp (m : Mod) (d : Dev) (r : StepRun) (a b f : Nat) : StepRes (StepRun × Dev) := do
  r.clean a
  r.clean b
  let n := (r.reg b).v.toNat
  let base := (r.reg a).v.toNat
  let size := if f = 0 then 8 else if f = 1 then 4 else 2
  endIf (n = 0 || 131072 < n || base % size != 0) stIllegal
  let (vs, q, d) ← d.stepReads m r.params.own base size n
  let r := { r with pline := r.pline.or q, listP := r.listP || q.isSome }
  let es := (List.range n).zip vs
  let list : List (Nat × Nat) := es.map (fun e => if f = 0 then (fld e.2 0 32, fld e.2 32 32) else (e.1, toF32 (if f = 1 then 1 else if f = 2 then 3 else 2) e.2))
  endIf (f = 0 && !noDup (list.map (fun (c : Nat × Nat) => c.1))) stIllegal
  endIf (list.any (fun (c : Nat × Nat) => (valF f32 c.2).isNan)) stNan
  pure (({ r with list := list, prob := false }).order, d)

/-- SPEN (R352). -/
def spenOp (d : Dev) (r : StepRun) (a : Nat) (p : Bool) (path : Nat) : StepRes StepRun := do
  let depth := (r.reg a).v.toNat
  endIf (p && 16 < depth) stIllegal
  endIf r.prob stBadState
  let q := r.params
  let lent := d.countLent q (r.list.map (·.1)) false
  if !lent.isEmpty then .error (.waits (.link 0 lent)) else pure ()
  let extra (t : Nat) : Nat := if p then (r.shadow.filter (fun e => e.token == t && flag e.mask path && e.depth < depth)).length else 0
  let pen (c : Nat × Nat) : Nat × Nat :=
    let k := d.countOfToken r c.1 + extra c.1
    if k = 0 then c
    else
      let v := c.2
      let v := if FVal.lt FVal.zero (valF f32 v) then (fdivF f32 v q.rep).1 else (fmulF f32 v q.rep).1
      let v := (fsubF f32 v (rneOp f32 ((valF f32 q.freq).mul (FVal.ofInt k))).1).1
      (c.1, (fsubF f32 v q.pres).1)
  let list : List (Nat × Nat) := r.list.map pen
  endIf (list.any (fun (c : Nat × Nat) => (valF f32 c.2).isNan)) stNan
  let bad : List (Nat × Nat) := r.list.filter (fun c => d.countPoison r c.1)
  let r : StepRun := { r with
    list := list, listP := r.listP || !bad.isEmpty, pline := r.pline.or (bad.map (fun (c : Nat × Nat) => lineOf (countAddr q c.1))).head? }
  pure r.order

/-- STEMP (R352). -/
def stempOp (r : StepRun) : StepRes StepRun := do
  endIf r.prob stBadState
  let t := r.params.temp
  if FVal.eq (valF f32 t) FVal.zero then pure { r with list := r.list.take 1 }
  else do
    let list : List (Nat × Nat) := r.list.map (fun c => (c.1, (fdivF f32 c.2 t).1))
    endIf (list.any (fun (c : Nat × Nat) => (valF f32 c.2).isNan)) stNan
    pure ({ r with list := list }).order

/-- STOPK (R353). -/
def stopkOp (r : StepRun) : StepRun := if r.params.topk = 0 then r else { r with list := r.list.take r.params.topk }

/-- STOPP (R353). -/
def stoppOp (r : StepRun) : StepRes StepRun := do
  endIf (!r.prob) stBadState
  let tau := valF f64 (rneOp f64 ((valF f32 r.params.topp).mul (valF f64 r.total))).1
  pure { r with list := r.list.take (StepRun.scan (fun c => !FVal.lt c tau) 0 0 r.list + 1) }

/-- SMINP (R353). -/
def sminpOp (r : StepRun) : StepRes StepRun := do
  endIf (!r.prob) stBadState
  let thr := valF f32 (fmulF f32 r.params.minp ((r.list.map (·.2)).headD 0)).1
  pure { r with list := r.list.filter (fun c => !FVal.lt (valF f32 c.2) thr) }

/-- SSMAX (R354): as GATE computes (R307), over the whole list. -/
def ssmaxOp (r : StepRun) : StepRes StepRun := do
  endIf r.prob stBadState
  let list : List (Nat × Nat) := r.list.filter (fun (c : Nat × Nat) => valF f32 c.2 != .inf true)
  endIf list.isEmpty stAllMasked
  let list : List (Nat × Nat) := if valF f32 ((list.map (fun (c : Nat × Nat) => c.2)).headD 0) = .inf false then list.filter (fun c => valF f32 c.2 == .inf false) else list
  let ws := (gateWeights (list.map (fun c => valF f32 c.2))).1
  pure ({ r with list := (list.map (fun (c : Nat × Nat) => c.1)).zip ws, prob := true }).order

/-- SDRAW (R355). -/
def sdrawOp (r : StepRun) (g : Nat) : StepRes StepRun := do
  endIf (!r.prob) stBadState
  let q := r.params
  let u := philox q.seed.toNat (fld r.posn.toNat 0 32) (fld r.posn.toNat 32 32) r.draw q.seqid
  let x := valF f64 (rneOp f64 ((FVal.fin false (2 * u + 1) (2 ^ 33)).mul (valF f64 r.total))).1
  let sel := StepRun.scan (fun c => FVal.lt x c) 0 0 r.list
  let id := (r.list.map (fun (c : Nat × Nat) => c.1)).getD sel 0
  pure { r.setReg g (BitVec.ofNat 64 id) (if r.listP then 2 else 0) with draw := (r.draw + 1) % 2 ^ 32 }

/-- SCNT (R356). -/
def scntOp (r : StepRun) (a b depth : Nat) : StepRes StepRun := do
  let t := fld (r.reg a).v.toNat 0 32
  let k := (r.reg b).v.toNat
  endIf (2 ^ 16 ≤ k) stIllegal
  if k = 0 then pure { r with counts := r.counts ++ [t] }
  else do
    endIf (64 ≤ r.shadow.length) stIllegal
    pure { r with shadow := r.shadow ++ [⟨t, k, depth⟩] }

/-- SCOMMIT (R356). -/
def scommitOp (r : StepRun) (a path : Nat) : StepRes StepRun := do
  let depth := (r.reg a).v.toNat
  endIf (16 < depth) stIllegal
  let ts := (r.shadow.filter (fun e => flag e.mask path && e.depth < depth)).map (·.token)
  pure { r with counts := r.counts ++ ts, shadow := [] }

/-- SEMIT (R357). -/
def semitOp (r : StepRun) (a : Nat) : StepRes StepRun := do
  r.clean a
  endIf (64 ≤ r.emits.length) stIllegal
  pure { r with emits := r.emits ++ [fld (r.reg a).v.toNat 0 32] }

/-- SMOV from memory (R358). -/
def smovLoadOp (m : Mod) (d : Dev) (r : StepRun) (g a : Nat) (n : Int) : StepRes (StepRun × Dev) := do
  r.clean a
  let (v, q, d) ← d.stepRead m r.params.own ((r.reg a).v + BitVec.ofInt 64 (8 * n)).toNat 8
  pure ({ r with pline := r.pline.or q }.setReg g (BitVec.ofNat 64 v) (if q.isSome then 2 else 0), d)

/-- A branch (R350, R358): a target outside the store is ILLEGAL, whether or not it is taken. `r` already counts the
instruction as passed. -/
def stepBranch (r : StepRun) (taken : Bool) (o : Int) : StepRes StepRun := do
  let t := r.pc - 1 + o
  endIf (t < 0 || 4095 < t) stIllegal
  pure (if taken then { r with pc := t } else r)

/-! ### The unit -/

/-- A step that commits poison (R359): the owner is killed with a record tied to no group. -/
def poisonStep (d : Dev) (j : Nat) (r : StepRun) (kind : Nat) : Dev :=
  let w := Map.get 0 (d.sampler j).prog r.pc.toNat
  let rec_ : FaultRec :=
    { cause := 0x10, poison := true, pc := BitVec.ofInt 64 r.pc, step := BitVec.ofNat 64 (r.seqn j), word := w,
      pkind := kind, pline := if kind = 2 then r.pline.getD 0 else 0 }
  ((d.endStep j r stPoison).countCommit).killContext r.params.own 0x10 (some rec_)

/-- The step of a unit is over (R349, R360): its statuses are noted and the writes that waited for it take place. -/
def closeStep (d : Dev) (j : Nat) (r : StepRun) (status : Option Nat) : Dev :=
  let u := d.sampler j
  let seqs := match status with
    | some st => Map.upd {} u.seqs r.seq (fun q => { q with last := st })
    | none => u.seqs
  ((d.endWaits (.unit j)).setSampler j { u with
    run := none, steps := (u.steps + 1) % 2 ^ 16, last := status.getD u.last, seqs := seqs }).applyLate j r.seq

/-- The effects of a step that ended OK or ALL-MASKED on its sequence (R349 steps 1 to 3). -/
def commitStep (d : Dev) (j : Nat) (r : StepRun) : Dev :=
  let d := r.counts.foldl (fun d t =>
    if 131072 ≤ t then d
    else (d.snoop none (countAddr r.params t) 2 true).store (countAddr r.params t) 2 (min 65535 (d.ld (countAddr r.params t) 2 + 1)) false) d
  let u := d.sampler j
  d.setSampler j { u with seqs := Map.upd {} u.seqs r.seq (fun q => { q with
    shadow := r.shadow, pos := q.pos + BitVec.ofNat 64 r.emits.length }) }

/-- The result words of a step (R349): an emit word per token, then the end word. -/
def resultWords (j : Nat) (r : StepRun) (status : Nat) : List Word :=
  let hd := r.seqn j * 2 ^ 40
  let es := if status ≤ 1 then r.emits else []
  es.map (fun t => BitVec.ofNat 64 (2 ^ 60 + hd + t)) ++ [BitVec.ofNat 64 (2 * 2 ^ 60 + hd + status * 2 ^ 32 + es.length)]

/-- A push of a unit that is discarded (R349). -/
def discard (d : Dev) (j : Nat) : Dev := (d.smpDrop j).mcount 5

/-- STEP_REQUEST (R345, R347): an idle unit with EN = 1 pops its request queue; a request of a sequence that cannot run is
discarded, and what waited for its step waits no more (R346); an empty queue that is no longer OPEN ends EN. -/
def stepRequest (d : Dev) (j : Nat) : Dev :=
  let u := d.sampler j
  let q := d.queue u.rq
  if !u.en || u.run.isSome then d
  else
    match q.entries with
    | [] => if q.state = .opened then d else d.setSampler j { u with en := false }
    | e :: es =>
      let w := (e.v.setWidth 64 : Word).toNat
      let s := fld w 0 8
      let x := d.seq j s
      if (d.readyEntries (.pool u.rq)).isEmpty then d
      else
      let d := (({ d with cur := { d.cur with sampler := true, unit := j } }).serve (8 * u.rq)).setQueue u.rq { q with entries := es }
      let d := { d with cur := { d.cur with sampler := false } }
      if !x.valid || x.own != q.pctx || (d.ctx x.own).state = .killed then
        (if d.seqQueued j s then d else d.setSampler j { d.sampler j with late := (d.sampler j).late.filter (fun e => e.1 != s) }).discard j
      else
        let r : StepRun :=
          { seq := fld w 0 8, params := x, pc := fld w 8 12, posn := x.pos, shadow := x.shadow,
            g := [(1, ⟨BitVec.ofNat 64 (fld w 20 44 * 1024), e.p⟩)], kinds := [(1, if e.p then 3 else 0)] }
        d.setSampler j { u with run := some r }

/-- STEP_RESULT_PUSH (R349): the step is committed, once no line of its counts is the host's (R378), then its words go to RESQ as it has room; words that RESQ does not take are
discarded. A step whose owner was killed ends without effect (R360). -/
def stepResult (d : Dev) (j : Nat) : Dev :=
  match (d.sampler j).run with
  | none => d
  | some r =>
    match r.ended with
    | none => d
    | some st =>
      if r.killed && st != stPoison then d.closeStep j r none
      else
        let lent := if r.committed || 1 < st then [] else d.countLent r.params r.counts true
        if !lent.isEmpty then { (d.asUnit j r.params.own).keepAccess (.link 0 lent) with cur := d.cur }
        else
        let d := if r.committed || 1 < st then d else (d.endWaits (.unit j)).commitStep j r
        let out := if r.committed then r.out else resultWords j r st
        let q := d.queue r.params.resq
        let takes := q.state = .opened && q.pctx = r.params.own && !q.wide
        let n := if takes then min out.length (d.roomOf (.pool r.params.resq)) else out.length
        let d :=
          if takes then (out.take n).foldl (fun d w => d.putTail ⟨w.setWidth 16384, false⟩ (.pool r.params.resq)) d
          else (out.take n).foldl (fun d _ => (d.countDrop r.params.resq 1).discard j) d
        if n = out.length then d.closeStep j r (some st)
        else d.setSampler j { d.sampler j with run := some { r with committed := true, out := out.drop n } }

/-- The instruction that a unit runs next: none where its word or its place is ILLEGAL (R350). -/
def stepWord (d : Dev) (j : Nat) : Option Nat :=
  match (d.sampler j).run with
  | none => none
  | some r => if r.pc < 0 || 4095 < r.pc then none else some (Map.get 0 (d.sampler j).prog r.pc.toNat)

end Dev

/-- One instruction of the step that the unit of `cur` runs (R347, R359): a step that has ended runs nothing; one whose owner
was killed ends; the limit is 65,536 instructions. -/
def stepInstr (body : Mod → Dev → StepRun → StepRes (StepRun × Dev)) (s : State) : Host.Outcome State Fault Refusal :=
  let d := { s.dev with verdict := .done }
  let j := d.cur.unit
  match (d.sampler j).run with
  | none => .next { s with dev := d }
  | some r =>
    if r.ended.isSome then .next { s with dev := d }
    else if r.killed then .next { s with dev := d.closeStep j r none }
    else if 65536 ≤ r.count then .next { s with dev := d.endStep j r stRunaway }
    else
      match body s.mod d { r with pc := r.pc + 1, count := r.count + 1 } with
      | .ok (r', d') => .next { s with dev := { (d'.endWaits (.unit j)).setSampler j { d'.sampler j with run := some r' } with cur := d.cur } }
      | .error (.ended st) => .next { s with dev := d.endStep j r st }
      | .error (.poison k) => .next { s with dev := d.poisonStep j r k }
      | .error (.waits w) =>
        .next { s with dev := { (d.asUnit j r.params.own).keepAccess w with cur := d.cur, verdict := .waiting (Dev.bareWait w) } }

/-- An instruction that changes the step only. -/
def stepPure (body : StepRun → StepRes StepRun) (s : State) : Host.Outcome State Fault Refusal :=
  stepInstr (fun _ d r => (body r).map (fun r => (r, d))) s

def execSldc (a b f : Nat) (s : State) : Host.Outcome State Fault Refusal := stepInstr (fun m d r => d.sldcOp m r a b f) s

def execSpen (a : Nat) (p : Bool) (path : Nat) (s : State) : Host.Outcome State Fault Refusal :=
  stepInstr (fun _ d r => (d.spenOp r a p path).map (fun r => (r, d))) s

def execStemp (s : State) : Host.Outcome State Fault Refusal := stepPure Dev.stempOp s

def execStopk (s : State) : Host.Outcome State Fault Refusal := stepPure (fun r => .ok (Dev.stopkOp r)) s

def execStopp (s : State) : Host.Outcome State Fault Refusal := stepPure Dev.stoppOp s

def execSminp (s : State) : Host.Outcome State Fault Refusal := stepPure Dev.sminpOp s

def execSsmax (s : State) : Host.Outcome State Fault Refusal := stepPure Dev.ssmaxOp s

/-- SRNG (R355). -/
def execSrng (a n : Nat) (s : State) : Host.Outcome State Fault Refusal :=
  stepPure (fun r => .ok { r with posn := r.params.pos + (r.reg a).v, draw := n }) s

def execSdraw (d : Nat) (s : State) : Host.Outcome State Fault Refusal := stepPure (Dev.sdrawOp · d) s

/-- SMEMB (R355). -/
def execSmemb (a : Nat) (s : State) : Host.Outcome State Fault Refusal :=
  stepPure (fun r => .ok { r with flag := r.list.any (fun c => c.1 == fld (r.reg a).v.toNat 0 32) }) s

def execScnt (a b depth : Nat) (s : State) : Host.Outcome State Fault Refusal := stepPure (Dev.scntOp · a b depth) s

def execScommit (a path : Nat) (s : State) : Host.Outcome State Fault Refusal := stepPure (Dev.scommitOp · a path) s

/-- SABORT (R356). -/
def execSabort (s : State) : Host.Outcome State Fault Refusal := stepPure (fun r => .ok { r with shadow := [] }) s

def execSemit (a : Nat) (s : State) : Host.Outcome State Fault Refusal := stepPure (Dev.semitOp · a) s

/-- SMOV and SADD (R358): a written register takes the poison of those it reads. -/
def execSmov (d a : Nat) (s : State) : Host.Outcome State Fault Refusal :=
  stepPure (fun r => .ok (r.setReg d (r.reg a).v (r.kindOf a))) s

def execSmovImm (d : Nat) (n : Int) (s : State) : Host.Outcome State Fault Refusal :=
  stepPure (fun r => .ok (r.setReg d (BitVec.ofInt 64 n) 0)) s

def execSmovLoad (d a : Nat) (n : Int) (s : State) : Host.Outcome State Fault Refusal :=
  stepInstr (fun m v r => v.smovLoadOp m r d a n) s

def execSadd (d a b : Nat) (s : State) : Host.Outcome State Fault Refusal :=
  stepPure (fun r => .ok (r.setReg d ((r.reg a).v + (r.reg b).v) (max (r.kindOf a) (r.kindOf b)))) s

def execSaddImm (d a : Nat) (n : Int) (s : State) : Host.Outcome State Fault Refusal :=
  stepPure (fun r => .ok (r.setReg d ((r.reg a).v + BitVec.ofInt 64 n) (r.kindOf a))) s

/-- SCMP (R358): signed. -/
def execScmp (a b c : Nat) (s : State) : Host.Outcome State Fault Refusal :=
  stepPure (fun r => .ok { r with flag := cmpWord false c (r.reg a).v (r.reg b).v }) s

def execSbr (v : Bool) (o : Int) (s : State) : Host.Outcome State Fault Refusal :=
  stepPure (fun r => Dev.stepBranch r (r.flag == v) o) s

def execSjmp (o : Int) (s : State) : Host.Outcome State Fault Refusal := stepPure (fun r => Dev.stepBranch r true o) s

/-- SEND (R357): the step ends with OK. -/
def execSend (s : State) : Host.Outcome State Fault Refusal := stepPure (fun _ => .error (.ended 0)) s

/-- The units are 0 to 3 (R344). -/
def execStepRequest (j : Nat) (s : State) : Host.Outcome State Fault Refusal :=
  event (fun d => if j < 4 then d.stepRequest j else d) s

def execStepResultPush (j : Nat) (s : State) : Host.Outcome State Fault Refusal :=
  event (fun d => if j < 4 then d.stepResult j else d) s

end Sys2Proof.Machine
end

