-- ==== Sys2Proof/Machine/ScalarInt.lean ====
section
/-!
DEFINITION. Class 0x0, scalar integer arithmetic (spec/05_scalar.md R91 to R93). The same meanings serve the S stream on
s registers and the V, M and X streams on a registers.
-/

namespace Sys2Proof.Machine
open Word

/-- The quotient of R92: all ones for a zero divisor, -2^63 for the signed overflow, otherwise truncated toward zero. -/
def qdiv (z : Bool) (a b : Word) : Word :=
  if b = 0 then BitVec.allOnes 64
  else if z then a.udiv b
  else BitVec.ofInt 64 (a.toInt.tdiv b.toInt)

/-- The shift count of a register operand (R92). -/
def shiftCount (b : Word) : Nat := b.toNat % 64

/-- Leading zero bits among the low `n` bits of a value. -/
def clzNat (x : Nat) : Nat → Nat
  | 0 => 0
  | n + 1 => if x.testBit n then 0 else 1 + clzNat x n

/-- One bits among the low `n` bits of a value. -/
def popcNat (x : Nat) : Nat → Nat
  | 0 => 0
  | n + 1 => (if x.testBit n then 1 else 0) + popcNat x n

/-- MULH (R92): the high half of the exact product. -/
def mulHigh (z : Bool) (a b : Word) : Word :=
  if z then BitVec.ofNat 64 (a.toNat * b.toNat / 2 ^ 64) else BitVec.ofInt 64 (a.toInt * b.toInt / (2 ^ 64 : Nat))

/-- EXT (R92): `len` bits from `pos`, extended. -/
def extract (z : Bool) (pos len : Nat) (a : Word) : Word :=
  let f := fld a.toNat pos len
  if z then BitVec.ofNat 64 f else BitVec.ofInt 64 (sext f len)

def execAdd (h : Hdr) (fd fa fb : Nat) (s : State) : Host.Outcome State Fault Refusal :=
  stream h (fun d => .ok (d.put2 fd fa fb (· + ·))) s

def execSub (h : Hdr) (fd fa fb : Nat) (s : State) : Host.Outcome State Fault Refusal :=
  stream h (fun d => .ok (d.put2 fd fa fb (· - ·))) s

def execAddi (h : Hdr) (fd fa : Nat) (imm : Int) (s : State) : Host.Outcome State Fault Refusal :=
  stream h (fun d => .ok (d.put1 fd fa (· + BitVec.ofInt 64 imm))) s

def execMul (h : Hdr) (fd fa fb : Nat) (s : State) : Host.Outcome State Fault Refusal :=
  stream h (fun d => .ok (d.put2 fd fa fb (· * ·))) s

def execMulh (h : Hdr) (z : Bool) (fd fa fb : Nat) (s : State) : Host.Outcome State Fault Refusal :=
  stream h (fun d => .ok (d.put2 fd fa fb (mulHigh z))) s

def execDiv (h : Hdr) (z : Bool) (fd fa fb : Nat) (s : State) : Host.Outcome State Fault Refusal :=
  stream h (fun d => .ok (d.put2 fd fa fb (qdiv z))) s

def execRem (h : Hdr) (z : Bool) (fd fa fb : Nat) (s : State) : Host.Outcome State Fault Refusal :=
  stream h (fun d => .ok (d.put2 fd fa fb (fun a b => a - qdiv z a b * b))) s

def execAnd (h : Hdr) (fd fa fb : Nat) (s : State) : Host.Outcome State Fault Refusal :=
  stream h (fun d => .ok (d.put2 fd fa fb (· &&& ·))) s

def execOr (h : Hdr) (fd fa fb : Nat) (s : State) : Host.Outcome State Fault Refusal :=
  stream h (fun d => .ok (d.put2 fd fa fb (· ||| ·))) s

def execXor (h : Hdr) (fd fa fb : Nat) (s : State) : Host.Outcome State Fault Refusal :=
  stream h (fun d => .ok (d.put2 fd fa fb (· ^^^ ·))) s

def execAndn (h : Hdr) (fd fa fb : Nat) (s : State) : Host.Outcome State Fault Refusal :=
  stream h (fun d => .ok (d.put2 fd fa fb (fun a b => a &&& ~~~b))) s

def execShl (h : Hdr) (fd fa fb : Nat) (s : State) : Host.Outcome State Fault Refusal :=
  stream h (fun d => .ok (d.put2 fd fa fb (fun a b => a <<< shiftCount b))) s

def execShlImm (h : Hdr) (fd fa n : Nat) (s : State) : Host.Outcome State Fault Refusal :=
  stream h (fun d => .ok (d.put1 fd fa (· <<< n))) s

def execShr (h : Hdr) (fd fa fb : Nat) (s : State) : Host.Outcome State Fault Refusal :=
  stream h (fun d => .ok (d.put2 fd fa fb (fun a b => a >>> shiftCount b))) s

def execShrImm (h : Hdr) (fd fa n : Nat) (s : State) : Host.Outcome State Fault Refusal :=
  stream h (fun d => .ok (d.put1 fd fa (· >>> n))) s

def execSar (h : Hdr) (fd fa fb : Nat) (s : State) : Host.Outcome State Fault Refusal :=
  stream h (fun d => .ok (d.put2 fd fa fb (fun a b => a.sshiftRight (shiftCount b)))) s

def execSarImm (h : Hdr) (fd fa n : Nat) (s : State) : Host.Outcome State Fault Refusal :=
  stream h (fun d => .ok (d.put1 fd fa (·.sshiftRight n))) s

def execRot (h : Hdr) (fd fa fb : Nat) (s : State) : Host.Outcome State Fault Refusal :=
  stream h (fun d => .ok (d.put2 fd fa fb (fun a b => a.rotateRight (shiftCount b)))) s

def execRotImm (h : Hdr) (fd fa n : Nat) (s : State) : Host.Outcome State Fault Refusal :=
  stream h (fun d => .ok (d.put1 fd fa (·.rotateRight n))) s

def execClz (h : Hdr) (fd fa : Nat) (s : State) : Host.Outcome State Fault Refusal :=
  stream h (fun d => .ok (d.put1 fd fa (fun a => BitVec.ofNat 64 (clzNat a.toNat 64)))) s

def execPopc (h : Hdr) (fd fa : Nat) (s : State) : Host.Outcome State Fault Refusal :=
  stream h (fun d => .ok (d.put1 fd fa (fun a => BitVec.ofNat 64 (popcNat a.toNat 64)))) s

def execMin (h : Hdr) (z : Bool) (fd fa fb : Nat) (s : State) : Host.Outcome State Fault Refusal :=
  stream h (fun d => .ok (d.put2 fd fa fb (fun a b => if cmpWord z 2 b a then b else a))) s

def execMax (h : Hdr) (z : Bool) (fd fa fb : Nat) (s : State) : Host.Outcome State Fault Refusal :=
  stream h (fun d => .ok (d.put2 fd fa fb (fun a b => if cmpWord z 2 a b then b else a))) s

def execCmp (h : Hdr) (z : Bool) (cond cd fa fb : Nat) (s : State) : Host.Outcome State Fault Refusal :=
  stream h (fun d => .ok (d.putC cd fa fb (cmpWord z cond))) s

/-- SEL reads its condition register and both sources for poison (R87). -/
def execSel (h : Hdr) (fd fa fb cn : Nat) (s : State) : Host.Outcome State Fault Refusal :=
  stream h (fun d => .ok (d.setReg fd
    ⟨if (d.creg cn).v then (d.reg fa).v else (d.reg fb).v, (d.creg cn).p || (d.reg fa).p || (d.reg fb).p⟩)) s

def execLi (h : Hdr) (fd : Nat) (imm : Int) (s : State) : Host.Outcome State Fault Refusal :=
  stream h (fun d => .ok (d.setReg fd ⟨BitVec.ofInt 64 imm, false⟩)) s

def execLih (h : Hdr) (fd imm : Nat) (s : State) : Host.Outcome State Fault Refusal :=
  stream h (fun d => .ok (d.put1 fd fd (fun a => BitVec.ofNat 64 (imm * 2 ^ 39 + fld a.toNat 0 39)))) s

def execMov (h : Hdr) (fd fa : Nat) (s : State) : Host.Outcome State Fault Refusal :=
  stream h (fun d => .ok (d.put1 fd fa id)) s

def execExt (h : Hdr) (z : Bool) (fd fa pos lm : Nat) (s : State) : Host.Outcome State Fault Refusal :=
  stream h (fun d => .ok (d.put1 fd fa (extract z pos (lm + 1)))) s

def execIns (h : Hdr) (fd fa pos lm : Nat) (s : State) : Host.Outcome State Fault Refusal :=
  stream h (fun d => .ok (d.put2 fd fd fa (fun o a => BitVec.ofNat 64 (setFld o.toNat pos (lm + 1) a.toNat)))) s

end Sys2Proof.Machine
end

