-- ==== Sys2Proof/Machine/ScalarMem.lean ====
section
/-!
DEFINITION. Scalar memory, class 0x2 (spec/05_scalar.md R100 to R113), SPAWN and its relatives (spec/12_group.md R251, R254),
and RCPDEF (spec/03_register.md R58), which read through the S engine.
-/

namespace Sys2Proof.Machine
open Word

/-- The bytes that a type code of class 0x2 accesses (R100, R107). -/
def memBytes (t : Nat) : Nat := if t = 0 then 8 else typeBytes t

/-- A loaded value extended to 64 bits (R95, R100, R107). -/
def extendLoad (t v : Nat) : Word :=
  if t = 5 || t = 6 || t = 7 then BitVec.ofInt 64 (sext v (8 * memBytes t)) else BitVec.ofNat 64 v

namespace Dev

/-- The effective address of an access with an offset (R101). -/
def eaOf (d : Dev) (fa : Nat) (off : Int) : Nat := ((d.reg fa).v + BitVec.ofInt 64 off).toNat

/-- A poisoned base or length register commits (R87). -/
def baseClean (d : Dev) (fa ea : Nat) : Res Unit := if (d.reg fa).p then commitReg ea else .ok ()

/-- LD (R102): the access is made whatever the destination. -/
def loadOp (m : Mod) (d : Dev) (t fd fa : Nat) (off : Int) : Res Dev := do
  let ea := d.eaOf fa off
  d.baseClean fa ea
  let (v, p, d) ← d.loadAt m ea (memBytes t) .load
  pure (d.setReg fd ⟨extendLoad t v, p⟩)

/-- ST (R102, R103): a poisoned value commits at .sy, where an access of the MMIO window is performed (R191), and else poisons its
line. -/
def storeOp (m : Mod) (d : Dev) (t sc fd fa : Nat) (off : Int) : Res Dev := do
  let ea := d.eaOf fa off
  let x := d.reg fd
  let n := memBytes t
  d.baseClean fa ea
  let (pa, d) ← d.accessS ea n n .store ea
  if x.p && (sc = 3 || targetOf pa = .mmio) then commitReg ea
  else if targetOf pa = .mmio then
    pure (d.mmioStore m (some (clusterOf d.cur.core)) (mmioOffset pa) n (x.v.toNat % 2 ^ (8 * n)))
  else pure (d.store pa n (x.v.toNat % 2 ^ (8 * n)) x.p)

/-- Whether a failure is one of the checks of R101 or R296, which LDS leaves to CHKL (R104). -/
def deferred (t : Trap) : Bool := t.cause != 0x30

/-- LDS (R104): a load with a hoist-guard entry; a failed check or a poisoned base writes zero and leaves no entry, and
the misses and walks of the failed access are counted (R320). -/
def ldsOp (d : Dev) (t sc fd fa : Nat) (off : Int) : Res Dev :=
  let ea := d.eaOf fa off
  if (d.reg fa).p then .ok (d.setReg fd {})
  else
    match d.accessS ea (memBytes t) (memBytes t) .advanced ea with
    | .error (.trap e) => if deferred e then .ok ((d.countSeen e.seen).setReg fd {}) else .error (.trap e)
    | .error (.wait w) => waitFor w
    | .ok (pa, d) =>
      let v := if targetOf pa = .zeros then 0 else d.ld pa (memBytes t)
      let d := d.setReg fd ⟨extendLoad t v, d.linePoisoned (lineOf pa)⟩
      let x := d.stm
      let h : Hoist := ⟨fd, ea, t, sc, lineOf pa⟩
      .ok (d.setStm { x with hoist := (x.hoist ++ [h]).drop (x.hoist.length + 1 - 24) })

/-- CHKL (R105): an entry that matches is used up; without one the load is made. -/
def chklOp (m : Mod) (d : Dev) (t sc fd fa : Nat) (off : Int) : Res Dev := do
  let ea := d.eaOf fa off
  d.baseClean fa ea
  let x := d.stm
  if x.hoist.any (fun h => h.reg == fd && h.ea == ea && h.t == t && h.sc == sc) then
    pure (d.setStm { x with hoist := x.hoist.filter (·.reg != fd) })
  else d.loadOp m t fd fa off

/-- PREF (R106): a refused prefetch is dropped; one of a host line that is not here asks for it; PSTASH fills an entry. Where ea lies in
no mapped window, PSTASH requests nothing: it counts neither as completed nor as dropped, whatever R101 would say of it (DESIGN CHOICE,
log 90). -/
def prefOp (d : Dev) (tgt fa : Nat) (off : Int) : Dev :=
  let ea := d.eaOf fa off
  if (d.reg fa).p then d
  else if tgt = 2 && !d.stashed (ea % 2 ^ 54) then d
  else
    match if tgt = 2 then d.accessS ea 1 1 .load ea else d.access ea 1 1 .load ea with
    | .ok (pa, d') => if targetOf pa = .mmio then d.count 36 else d'.count 35
    | .error (.trap _) => d.count 36
    | .error (.wait (.link 0 ls _)) => (d.askLines 0 ls).count 35
    | .error (.wait _) => d.count 35

/-- The operand of a 64- or 32-bit atomic (R107). -/
def atomBits (t : Nat) : Nat := 8 * memBytes t

/-- AMO (R103, R107). -/
def amoScalarOp (d : Dev) (t sc op fd fa fb : Nat) : Res Dev := do
  let ea := (d.reg fa).v.toNat
  let n := memBytes t
  let b := d.reg fb
  let dp := (d.reg fd).p
  d.baseClean fa ea
  let (pa, d) ← d.accessS ea n n .atomic ea
  let lp := d.linePoisoned (lineOf pa)
  if sc = 3 && (b.p || dp) then commitReg ea
  else if sc = 3 && lp then commitLine ea (lineOf pa)
  else
    let old := d.ld pa n
    let r := amoOp op (8 * n) old (b.v.toNat % 2 ^ (8 * n))
    pure (((d.store pa n r.1 (b.p || dp || lp)).setReg fd ⟨extendLoad t old, b.p || lp⟩).raiseS r.2)

/-- CAS (R103, R108): a failed one writes nothing and commits nothing. -/
def casOp (d : Dev) (t sc cn fd fa fb : Nat) : Res Dev := do
  let ea := (d.reg fa).v.toNat
  let n := memBytes t
  let b := d.reg fb
  let e := d.reg fd
  d.baseClean fa ea
  let (pa, d) ← d.accessS ea n n .atomic ea
  let old := d.ld pa n
  let hit := old == e.v.toNat % 2 ^ (8 * n)
  let p := e.p || b.p || d.linePoisoned (lineOf pa)
  if hit && sc = 3 && b.p then commitReg ea
  else
    let d := if hit then d.store pa n (b.v.toNat % 2 ^ (8 * n)) b.p else d
    pure ((d.setReg fd ⟨extendLoad t old, p⟩).setCreg cn ⟨hit, p⟩)

/-- Write-backs of dirty stash entries to the L2 wait while a site of the cluster migrates (R368). -/
def writeBacks (d : Dev) (es : List StashEntry) : Res Unit :=
  if es.any (·.dirty) && d.peerHeld d.cur.core then waitFor (.peer d.cur.took) else .ok ()

/-- Dirty host lines written back over the link (R384, R385), which it keeps as clean ones. -/
def hostBack (d : Dev) (hit : Nat → Bool) : Res Dev :=
  let l := d.link 0
  if !l.dirty.any hit then .ok d
  else
    match l.state with
    | .training => waitFor (.link 0 [] d.cur.took)
    | .recovering => waitFor (.link 0 [] d.cur.took)
    | .down => trap 0x30 0
    | .fenced => trap 0x30 0
    | _ => .ok (d.setLink 0 { l with dirty := l.dirty.filter (!hit ·) })

/-- SMAP (R111). Where the limit is exceeded and the range overlaps another window too, the status is 1: the table gives no order
(DESIGN CHOICE, log 85). Service code has no group of its own, so that nothing is mapped for it (log 37). -/
def smapOp (d : Dev) (fd fa fb w : Nat) : Res Dev := do
  let ea := (d.reg fa).v.toNat
  let len := (d.reg fb).v.toNat
  d.baseClean fa ea
  d.baseClean fb ea
  trapIf (ea % 4096 != 0 || len % 4096 != 0) 5 ea
  trapIf (2 ^ 20 < len) 4 d.cur.pc.toNat
  trapIf (!canonical ea) 0x0B ea
  if d.cur.svc then pure (d.setReg fd ⟨if len = 0 then 0 else 1, false⟩)
  else do
    d.writeBacks ((windowEntries d.grp w).map (·.2))
    let d := d.setGrp (dropWindow d.grp w)
    let base := ea % 2 ^ 54
    let st : Nat :=
      if len = 0 then 0
      else if 2 ^ 20 < d.mappedBytes d.cur.core + len then 1
      else if d.grp.windows.any (fun x => x.2.1 < base + len && base < x.2.1 + x.2.2) then 2
      else 0
    let d := if st = 0 && len != 0 then d.setGrp { d.grp with windows := Map.set d.grp.windows w (base, len) } else d
    pure (d.setReg fd ⟨BitVec.ofNat 64 st, false⟩)

/-- SFLUSH (R112): at .sy the written data is visible in host memory (R113, R179). -/
def sflushOp (d : Dev) (sc w : Nat) (inv : Bool) : Res Dev :=
  if d.cur.svc then .ok d
  else do
    let es := ((windowEntries d.grp w).map (·.2)).filter (·.dirty)
    d.writeBacks es
    let d ← if sc = 3 then d.hostBack (fun x => es.any (fun e => realLine e.phys == x)) else pure d
    pure (d.setGrp (flushWindow d.grp w inv))

/-- The physical address of a byte for cache control (R113): no permission is needed, and no translation means none. -/
def cachePage (d : Dev) (va : Nat) : Option Nat × Dev :=
  if d.inWindow va then
    match d.windowCheck va .load 0 with
    | .ok pa => (some pa, d)
    | .error _ => (none, d)
  else
    match d.lookup va with
    | (d, .ok l, _) => (some (Leaf.at_ l va), d)
    | (d, .error _, _) => (none, d)

/-- The physical runs of the lines of a virtual range, page by page in ascending order (R113). -/
def cacheRuns (d : Dev) (lo hi : Nat) : List (Nat × Nat) × Dev :=
  (List.range ((hi - 1) / 4096 - lo / 4096 + 1)).foldl (fun (x : List (Nat × Nat) × Dev) i =>
    let a := max lo ((lo / 4096 + i) * 4096)
    let b := min hi ((lo / 4096 + i + 1) * 4096)
    match x.2.cachePage (a % 2 ^ 54) with
    | (some pa, d) => (x.1 ++ [(pa, b - a)], d)
    | (none, d) => (x.1, d)) ([], d)

/-- Whether a line lies in one of the runs. -/
def inRuns (rs : List (Nat × Nat)) (line : Nat) : Bool := rs.any (fun r => r.1 ≤ line * 64 && line * 64 < r.1 + r.2)

/-- Whether a core is in the instance of a scope of the core of `cur` (R183). -/
def inScope (d : Dev) (sc core : Nat) : Bool :=
  if sc = 1 then core = d.cur.core else if sc = 2 then clusterOf core = clusterOf d.cur.core else true

/-- CINV ops 0 and 1 (R113, R179, R379): stash entries of the runs become CLEAN or go, with op 1 the L1 lines too; at .sy host lines
that are dirty go back over the link, and with op 1 every host line goes. -/
def cleanRuns (d : Dev) (sc op : Nat) (rs : List (Nat × Nat)) : Res Dev := do
  let here (g : Group) : Bool := g.core != 0xFF && d.inScope sc g.core
  let hit (e : StashEntry) : Bool := inRuns rs (realLine e.phys)
  let one (g : Group) : Group :=
    if !here g then g
    else if op = 1 then { g with stash := g.stash.filter (fun e => !hit e.2) }
    else { g with stash := g.stash.map (fun e => if hit e.2 then (e.1, { e.2 with dirty := false }) else e) }
  d.writeBacks (d.groups.flatMap (fun e => if here e.2 then (e.2.stash.map (·.2)).filter hit else []))
  if rs.any (fun r => d.frozenDirty r.1 r.2) then waitFor (.peer d.cur.took) else pure ()
  let d ← if sc = 3 then d.hostBack (inRuns rs) else pure d
  let d : Dev := { d with groups := Map.mapV one d.groups }
  if op = 0 then pure d
  else
    let out (e : Nat × Core) : Nat × Core :=
      if d.inScope sc e.1 then (e.1, { e.2 with l1 := e.2.l1.filter (fun x => !inRuns rs x.line) }) else e
    let d := { d with cores := d.cores.map out }
    pure (if sc = 3 then d.setLink 0 { d.link 0 with lines := (d.link 0).lines.filter (fun x => !inRuns rs x) } else d)

/-- CINV (R113): on the lines that overlap the range. A non-canonical ea faults whatever the length: R113 says both that it faults and
that a length of 0 does nothing (DESIGN CHOICE, log 85). The kernels of op 2 retire when the cycle ends (R235). -/
def cinvOp (d : Dev) (sc fa fb op : Nat) : Res Dev := do
  let ea := (d.reg fa).v.toNat
  let len := (d.reg fb).v.toNat
  d.baseClean fa ea
  d.baseClean fb ea
  trapIf (!canonical ea) 0x0B ea
  let lo := ea % 2 ^ 54 / 64 * 64
  let hi := (ea % 2 ^ 54 + len + 63) / 64 * 64
  if len = 0 then pure d
  else if op = 2 then pure (if d.cur.svc then d else { d with retiring := d.retiring ++ [(d.myCtx, lo, hi)] })
  else
    let (rs, d) := d.cacheRuns lo hi
    d.cleanRuns sc op rs

/-- The dropped rows among those that a redefined recipe tags are replayed first (R58, R61). -/
def rcpdefReplay (d : Dev) (id : Nat) : Res Unit :=
  let rs := (d.grp.rows.filter (fun e => e.2.tag == .dropped id)).map (·.1)
  match rs with
  | [] => .ok ()
  | r :: _ => waitFor (.replay r [])

/-- RCPDEF (R58): the body is read, then checked, then put into the entry; rows of the old recipe lose their tags. -/
def rcpdefOp (m : Mod) (d : Dev) (id nm1 fa : Nat) : Res Dev := do
  let ea := (d.reg fa).v.toNat
  d.baseClean fa ea
  trapIf (ea % 8 != 0) 5 ea
  let (ws, d) ← readWords (rdWord m) d ea (nm1 + 1)
  trapIf (d.grp.recipesN ≤ id) 4 d.cur.pc.toNat
  match bodyFault d.grp.rowsN (ws.map (·.1)) with
  | some j => trap 0x15 (ea + 8 * j)
  | none => do
    d.rcpdefReplay id
    let g := d.grp
    let free (x : Row) : Row := if x.tag = .tagged id then { x with tag := .live } else x
    pure (d.setGrp { g with
      rows := Map.mapV free g.rows,
      recipes := Map.set g.recipes id { valid := true, words := ws.map (·.1), p := ws.any (·.2) } })

end Dev

def execLd (h : Hdr) (t _sc fd fa : Nat) (off : Int) (s : State) : Host.Outcome State Fault Refusal :=
  streamM h (fun m d => d.loadOp m t fd fa off) s

def execSt (h : Hdr) (t sc fd fa : Nat) (off : Int) (s : State) : Host.Outcome State Fault Refusal :=
  streamM h (fun m d => d.storeOp m t sc fd fa off) s

/-- LDA (R102): accesses are performed in one order (log 2), so that an acquire adds to LD only that the
logical clock of the stream advances (R182). -/
def execLda (h : Hdr) (t _sc fd fa : Nat) (off : Int) (s : State) : Host.Outcome State Fault Refusal :=
  streamM h (fun m d => (d.loadOp m t fd fa off).map (·.advance)) s

/-- STL (R102): a release adds nothing to ST in that order. -/
def execStl (h : Hdr) (t sc fd fa : Nat) (off : Int) (s : State) : Host.Outcome State Fault Refusal :=
  streamM h (fun m d => d.storeOp m t sc fd fa off) s

def execLds (h : Hdr) (t sc fd fa : Nat) (off : Int) (s : State) : Host.Outcome State Fault Refusal :=
  stream h (·.ldsOp t sc fd fa off) s

def execChkl (h : Hdr) (t sc fd fa : Nat) (off : Int) (s : State) : Host.Outcome State Fault Refusal :=
  streamM h (fun m d => d.chklOp m t sc fd fa off) s

def execPref (h : Hdr) (tgt fa : Nat) (off : Int) (s : State) : Host.Outcome State Fault Refusal :=
  stream h (fun d => .ok (d.prefOp tgt fa off)) s

def execAmo (h : Hdr) (t sc op fd fa fb : Nat) (s : State) : Host.Outcome State Fault Refusal :=
  stream h (·.amoScalarOp t sc op fd fa fb) s

def execCas (h : Hdr) (t sc cn fd fa fb : Nat) (s : State) : Host.Outcome State Fault Refusal :=
  stream h (·.casOp t sc cn fd fa fb) s

/-- FENCE (R110): accesses are performed in one order (log 2), which every fence finds kept. -/
def execFence (h : Hdr) (_sc _mask : Nat) (s : State) : Host.Outcome State Fault Refusal :=
  stream h (fun d => .ok d) s

def execSmap (h : Hdr) (fd fa fb w : Nat) (s : State) : Host.Outcome State Fault Refusal :=
  stream h (·.smapOp fd fa fb w) s

def execSflush (h : Hdr) (sc w : Nat) (inv : Bool) (s : State) : Host.Outcome State Fault Refusal :=
  stream h (·.sflushOp sc w inv) s

def execCinv (h : Hdr) (sc fa fb op : Nat) (s : State) : Host.Outcome State Fault Refusal :=
  stream h (·.cinvOp sc fa fb op) s

def execSpawn (h : Hdr) (fd fa fb place : Nat) (s : State) : Host.Outcome State Fault Refusal :=
  streamP h (fun d => d.spawnOp (Dev.rdWord s.mod) fd fa fb place) s

def execSpawnPstart (h : Hdr) (fd fa fb : Nat) (s : State) : Host.Outcome State Fault Refusal :=
  streamP h (fun d => d.pstartOp (Dev.rdWord s.mod) fd fa fb) s

def execSpawnPdrain (h : Hdr) (fd fa fb : Nat) (s : State) : Host.Outcome State Fault Refusal :=
  stream h (·.pdrainOp fd fa fb) s

def execRcpdef (h : Hdr) (id nm1 fa : Nat) (s : State) : Host.Outcome State Fault Refusal :=
  streamM h (fun m d => d.rcpdefOp m id nm1 fa) s

end Sys2Proof.Machine
end

