-- ==== Sys2Proof/Machine/Aes.lean ====
section
/-!
DEFINITION. AES-256 and its XTS mode of IEEE 1619, which the decrypt stage computes (spec/14_block.md R277, R279). The spec
names the standards and prints none of their tables: they are taken from FIPS 197 and IEEE 1619 (PRESUMED, log 38).
-/

namespace Sys2Proof.Machine.Aes
open Word

/-- Multiplication by x in GF(2^8) modulo x^8 + x^4 + x^3 + x + 1. -/
def xtime (a : Nat) : Nat := if a < 128 then 2 * a else (2 * a - 256) ^^^ 0x1B

/-- Multiplication in GF(2^8) by the low `n` bits of the second factor. -/
def mulN (a b : Nat) : Nat → Nat
  | 0 => 0
  | n + 1 => (if b % 2 = 1 then a else 0) ^^^ mulN (xtime a) (b / 2) n

def mul (a b : Nat) : Nat := mulN a b 8

/-- The inverse in GF(2^8), as the power 254; 0 for 0. -/
def inverse (a : Nat) : Nat :=
  let a2 := mul a a
  let a4 := mul a2 a2
  let a8 := mul a4 a4
  let a16 := mul a8 a8
  let a32 := mul a16 a16
  let a64 := mul a32 a32
  mul (mul (mul a2 a4) (mul a8 a16)) (mul (mul a32 a64) (mul a64 a64))

/-- A byte rotated left. -/
def rotl8 (x n : Nat) : Nat := (x * 2 ^ n) % 256 + x / 2 ^ (8 - n)

/-- The substitution box: inversion, then the affine map. -/
def sboxOf (a : Nat) : Nat :=
  let x := inverse a
  x ^^^ rotl8 x 1 ^^^ rotl8 x 2 ^^^ rotl8 x 3 ^^^ rotl8 x 4 ^^^ 0x63

def sboxTable : List Nat := (List.range 256).map sboxOf
def sbox (a : Nat) : Nat := sboxTable.getD a 0
def invTable : List Nat := (List.range 256).map (fun y => sboxTable.idxOf y)
def invSbox (a : Nat) : Nat := invTable.getD a 0

/-- Byte-wise exclusive or. -/
def xors (a b : List Nat) : List Nat := List.zipWith (· ^^^ ·) a b

/-- The word that follows in the key schedule: word `i` from the one before and the one eight before. -/
def nextWord (i rcon : Nat) (prev back : List Nat) : List Nat :=
  let t :=
    if i % 8 = 0 then xors ((prev.drop 1 ++ prev.take 1).map sbox) [rcon, 0, 0, 0]
    else if i % 8 = 4 then prev.map sbox
    else prev
  xors back t

/-- The key schedule, newest word first. -/
def expand (i rcon : Nat) (ws : List (List Nat)) : Nat → List (List Nat)
  | 0 => ws
  | n + 1 => expand (i + 1) (if i % 8 = 0 then xtime rcon else rcon) (nextWord i rcon (ws.headD []) (ws.getD 7 []) :: ws) n

/-- Bytes cut into pieces. -/
def pieces (k : Nat) : Nat → List Nat → List (List Nat)
  | 0, _ => []
  | n + 1, xs => xs.take k :: pieces k n (xs.drop k)

/-- The 15 round keys of a 32-byte key. -/
def roundKeys (key : List Nat) : List (List Nat) :=
  pieces 16 15 ((expand 8 1 (pieces 4 8 key).reverse 52).reverse.flatten)

/-- Rows shifted: byte `r + 4 c` comes from column `c + r`, or `c - r` for the inverse. -/
def shiftRows (s : List Nat) : List Nat := (List.range 16).map (fun i => s.getD (i % 4 + 4 * ((i / 4 + i % 4) % 4)) 0)
def invShiftRows (s : List Nat) : List Nat := (List.range 16).map (fun i => s.getD (i % 4 + 4 * ((i / 4 + 4 - i % 4) % 4)) 0)

/-- Columns multiplied by a circulant matrix, given by its first row. -/
def mixWith (m : List Nat) (s : List Nat) : List Nat :=
  (List.range 16).map (fun i =>
    (List.range 4).foldl (fun a k => a ^^^ mul (m.getD ((k + 4 - i % 4) % 4) 0) (s.getD (4 * (i / 4) + k) 0)) 0)

def mixColumns : List Nat → List Nat := mixWith [2, 3, 1, 1]
def invMixColumns : List Nat → List Nat := mixWith [14, 11, 13, 9]

/-- One 16-byte block encrypted. -/
def encrypt (ks : List (List Nat)) (b : List Nat) : List Nat :=
  let s := (List.range 13).foldl (fun s i => xors (mixColumns (shiftRows (s.map sbox))) (ks.getD (i + 1) [])) (xors b (ks.getD 0 []))
  xors (shiftRows (s.map sbox)) (ks.getD 14 [])

/-- One 16-byte block decrypted. -/
def decrypt (ks : List (List Nat)) (b : List Nat) : List Nat :=
  let s := (invShiftRows (xors b (ks.getD 14 []))).map invSbox
  let s := (List.range 13).foldl (fun s i => (invShiftRows (invMixColumns (xors s (ks.getD (13 - i) [])))).map invSbox) s
  xors s (ks.getD 0 [])

/-- The tweak of the next block: multiplication by x in GF(2^128), little-endian. -/
def nextTweak (t : Nat) : Nat := if t < 2 ^ 127 then 2 * t else (2 * t - 2 ^ 128) ^^^ 0x87

/-- A number as bytes, lowest first. -/
def bytesOf : Nat → Nat → List Nat
  | 0, _ => []
  | n + 1, v => v % 256 :: bytesOf n (v / 256)

/-- Bytes as a number, lowest first. -/
def numOf : List Nat → Nat
  | [] => 0
  | b :: bs => b + 256 * numOf bs

/-- The blocks of a data unit decrypted in order. -/
def xtsBlocks (k1 : List (List Nat)) (t : Nat) : List (List Nat) → List Nat
  | [] => []
  | b :: bs =>
    let tb := bytesOf 16 t
    xors (decrypt k1 (xors b tb)) tb ++ xtsBlocks k1 (nextTweak t) bs

/-- XTS decryption of a data unit under the eight key words of a slot: K1 the first four, K2 the others (R279). -/
def xtsDecrypt (key : List Nat) (tweak : Nat) (unit : List Nat) : List Nat :=
  let bs := key.flatMap (bytesOf 8)
  let t := encrypt (roundKeys (bs.drop 32)) (bytesOf 16 (tweak % 2 ^ 128))
  xtsBlocks (roundKeys (bs.take 32)) (numOf t) (pieces 16 (unit.length / 16) unit)

end Sys2Proof.Machine.Aes
end

