-- ==== Sys2Proof/Machine/Blocks.lean ====
section
/-!
DEFINITION. What the X engine reads and writes, and compressed streams (spec/14_block.md R273, R280 to R286): pieces of a
transfer, stream descriptors, block headers, canonical codes, and what a corrupt block does.
-/

namespace Sys2Proof.Machine
open Word

/-- A stream descriptor and its table as they are staged (R280, R282); `tag` is one more than a poisoned line of them, or 0. -/
structure SDesc where
  clt : Nat := 0
  tsize : Nat := 0
  bound : Nat := 0
  tab : Nat := 0
  flags : Nat := 0
  expid : Nat := 0
  tag : Nat := 0
  lens : List Nat := []
  deriving DecidableEq, Repr

def SDesc.pack (x : SDesc) : List Nat := [x.clt, x.tsize, x.bound, x.tab, x.flags, x.expid, x.tag] ++ x.lens

def SDesc.unpack (n : List Nat) : SDesc :=
  let f (i : Nat) : Nat := n.getD i 0
  { clt := f 0, tsize := f 1, bound := f 2, tab := f 3, flags := f 4, expid := f 5, tag := f 6, lens := n.drop 7 }

/-- The first tag that is not 0. -/
def firstTag (ts : List Nat) : Nat := (ts.find? (· != 0)).getD 0

/-- A table is valid (R282). -/
def lensOk (ls : List Nat) : Bool :=
  ls.all (· ≤ 12) && ls.any (· != 0) && decide (sumOf (fun l => if l = 0 then 0 else 2 ^ (12 - l)) ls ≤ 4096)

/-- The first field of a descriptor that is out of range, by its offset (R280); the four words in order. -/
def sdescFault (w0 w1 w2 w3 : Nat) : Option Nat :=
  let checks : List (Nat × Bool) :=
    [(0x00, w0 % 8 != 0), (0x08, fld w1 0 16 < 32 || 4096 < fld w1 0 16 || fld w1 0 16 % 16 != 0),
      (0x0A, fld w1 16 8 < 16 || 128 < fld w1 16 8), (0x0C, fld w1 35 5 != 0), (0x0D, fld w1 40 24 != 0),
      (0x14, fld w2 32 32 != 0 || w3 != 0)]
  (checks.find? (fun (c : Nat × Bool) => c.2)).map (fun (c : Nat × Bool) => c.1)

/-- A block header that has been accepted (R281). -/
structure Block where
  esc : Bool
  last : Bool
  count : Nat
  size : Nat
  /-- The payload bytes that are read. -/
  body : Nat
  crc : Nat
  deriving DecidableEq, Repr

/-- A block header as a number (R281, R283, R284): the block, or the cause. `want` says whether LAST is expected, where that is
known. -/
def blockHead (sd : SDesc) (h : Nat) (want : Option Bool) : Except Nat Block :=
  let fl := fld h 16 8
  let count := fld h 32 16
  let pad := fld h 48 16
  let esc := flag fl 0
  let last := flag fl 1
  let raw := 16 * ((count + 15) / 16)
  if fld h 0 16 != 0x4B42 || 4 ≤ fl || fld h 24 8 != sd.tab || count = 0 || 4096 < count || fld h 96 32 != 0 then .error 0x13
  else if (if esc then pad != raw - count else sd.tsize < pad + 17) then .error 0x13
  else if want.any (· != last) then .error 0x13
  else if !esc && decide (sd.bound * (sd.tsize - 16 - pad) < count * 16) then .error 0x12
  else
    .ok { esc := esc, last := last, count := count, size := if esc then 16 + raw else sd.tsize,
          body := if esc then count else sd.tsize - 16 - pad, crc := fld h 64 32 }

/-- The first code of each length from 1 on, and its symbols in order (R282). -/
def codeTable (lens : List Nat) : List (Nat × List Nat) :=
  let syms (l : Nat) : List Nat := ((List.range 256).zip lens).filterMap (fun e => if e.2 = l then some e.1 else none)
  ((List.range 12).foldl (fun (x : List (Nat × List Nat) × Nat × Nat) i =>
    let code := (x.2.1 + x.2.2) * 2
    let s := syms (i + 1)
    (x.1 ++ [(code, s)], code, s.length)) ([], 0, 0)).1

/-- The symbol of a code of a length. -/
def codeSym (t : List (Nat × List Nat)) (len code : Nat) : Option Nat :=
  match t[len - 1]? with
  | none => none
  | some (first, syms) => if code < first then none else syms[code - first]?

/-- Symbols read from bits (R282): all that are wanted and the bits left over, or `none` for a code error (R283). -/
def readSyms (t : List (Nat × List Nat)) : List Bool → (code len want : Nat) → (acc : List Nat) → Option (List Nat × List Bool)
  | [], _, _, _, _ => none
  | b :: bs, code, len, want, acc =>
    let code := 2 * code + bit b
    match codeSym t (len + 1) code with
    | some s => if want ≤ 1 then some ((s :: acc).reverse, bs) else readSyms t bs 0 0 (want - 1) (s :: acc)
    | none => if 12 ≤ len + 1 then none else readSyms t bs code (len + 1) want acc

/-- The bits of payload bytes in order (R282). -/
def bitsOf (bs : List Nat) : List Bool := bs.flatMap (fun b => (List.range 8).map (flag b))

/-- The decoded bytes of a block (R282, R283); `none` where it is corrupt. -/
def blockBytes (sd : SDesc) (b : Block) (body : List Nat) : Option (List Nat) :=
  let out : Option (List Nat) :=
    if b.esc then some (body.take b.count)
    else
      match readSyms (codeTable sd.lens) (bitsOf (body.take b.body)) 0 0 b.count [] with
      | none => none
      | some (ss, rest) => if rest.any id || 8 < rest.length then none else some ss
  out.bind (fun ss => if crc32c (ss.map (BitVec.ofNat 8)) 0 = b.crc then some ss else none)

namespace Dev

/-- The physical pieces of a run of bytes that the X engine accesses (R101, R273): an access of the MMIO window must be aligned
too (R7). -/
def xPieces (d : Dev) (a : Acc) (va n : Nat) : Res (List (Nat × Nat) × Dev) := do
  let ls := linesOf va n
  let (ps, d) ← d.accessLinesS a ls
  match (ls.zip ps).find? (fun e => targetOf e.2.1 == .mmio && e.2.1 % e.2.2 != 0) with
  | some e => trap 5 (e.1.1 % 2 ^ 64)
  | none => pure (ps, d)

/-- The bytes of pieces, and one more than the first poisoned line, or 0. -/
def xRead (m : Mod) (d : Dev) : List (Nat × Nat) → List Nat × Nat × Dev
  | [] => ([], 0, d)
  | (pa, n) :: ps =>
    if targetOf pa = .mmio then
      let (v, _, d) := d.readAt m pa n
      let (bs, t, d) := xRead m d ps
      ((toBytes n v).map (·.toNat) ++ bs, t, d)
    else
      let p := d.rangePoisoned pa n
      let mine := (d.lds pa n).map (·.toNat)
      let (bs, t, d) := xRead m d ps
      (mine ++ bs, if p then lineOf pa + 1 else t, d)

/-- A checked read of a run of bytes. -/
def xLoad (m : Mod) (d : Dev) (va n : Nat) : Res (List Nat × Nat × Dev) := do
  let (ps, d) ← d.xPieces .load va n
  pure (d.xRead m ps)

/-- Bytes written to pieces in order; registers of the MMIO window take them by their own rules. -/
def xWrite (m : Mod) (d : Dev) (bs : List Byte) (p : Bool) : List (Nat × Nat) → Dev
  | [] => d
  | (pa, n) :: ps =>
    let d := if targetOf pa = .mmio then d.mmioStore m (some (clusterOf d.cur.core)) (mmioOffset pa) n (ofBytes (bs.take n))
      else d.storeBytes pa (bs.take n) p
    xWrite m d (bs.drop n) p ps

/-- Whether a write of an X instruction is made at .sy: by its scope, or because it reaches the MMIO window (R191, R273). -/
def atSy (sc : Nat) (ps : List (Nat × Nat)) : Bool := sc == 3 || ps.any (fun p => targetOf p.1 == .mmio)

/-- Words of 8 bytes read as LD reads them (R276, R280): the words, and the tag of the first poisoned line. -/
def xWords (m : Mod) (d : Dev) (va : Nat) : Nat → Res (List Nat × Nat × Dev)
  | 0 => .ok ([], 0, d)
  | n + 1 => do
    let va := va % 2 ^ 64
    let (pa, d) ← d.accessS va 8 8 .load va
    let (v, p, d) := d.readAt m pa 8
    let (vs, t, d) ← xWords m d (va + 8) n
    pure (v :: vs, if p then lineOf pa + 1 else t, d)

/-- A stream descriptor and its table read and checked (R280). -/
def readSdesc (m : Mod) (d : Dev) (a : Nat) : Res (SDesc × Dev) := do
  let (ws, t0, d) ← d.xWords m a 4
  let w (i : Nat) : Nat := ws.getD i 0
  match sdescFault (w 0) (w 1) (w 2) (w 3) with
  | some off => .error (.trap { cause := 4, addr := BitVec.ofNat 64 a, step := off })
  | none => do
    let (ts, t1, d) ← d.xWords m (w 0) 16
    let lens := ts.flatMap (fun x => (List.range 16).map (fun i => fld x (4 * i) 4))
    trapIf (!lensOk lens) 4 (w 0)
    let sd : SDesc :=
      { clt := w 0, tsize := fld (w 1) 0 16, bound := fld (w 1) 16 8, tab := fld (w 1) 24 8, flags := fld (w 1) 32 8,
        expid := fld (w 2) 0 32, tag := firstTag [t0, t1], lens := lens }
    pure (sd, d)

/-- The physical address behind a virtual one, without a right checked. -/
def whereIs (d : Dev) (va : Nat) : Option Nat :=
  if !canonical va then none
  else if d.inWindow (va % 2 ^ 54) then (d.windowCheck (va % 2 ^ 54) .load 0).toOption
  else (d.lookup (va % 2 ^ 54)).2.1.toOption.map (fun l => Leaf.at_ l (va % 2 ^ 54))

/-- The source of the refetch that a corrupt block starts (R285): 0 Lake, 1 Plain. -/
def refetchSource (c : Copy) (pa : Option Nat) : Option Nat :=
  match pa.map targetOf with
  | some .pond => if c.inLake || Copy.lakeHome c then some 0 else some 1
  | some .lake => if Copy.lakeHome c then none else some 1
  | _ => none

/-- What a fault of a block does beside the fault (R285): it is counted, and cause 0x13 marks the copy that the stream names. -/
def blockFault (d : Dev) (sd : SDesc) (cause va : Nat) : Dev :=
  let pa := d.whereIs va
  let d := d.count (if cause = 0x12 then 41 else 42)
  let d := { d with lifetime := { d.lifetime with block := min 0xFFFF (d.lifetime.block + 1) } }
  if cause != 0x13 || !flag sd.flags 0 then d
  else
    match d.findCopy sd.expid (fld sd.flags 1 2) with
    | none => d
    | some e =>
      let c := d.copyAt e
      let src := refetchSource c pa
      if c.state = .faulted then
        match c.refetch, src with
        | none, some s => d.startRefetch e s
        | _, _ => d
      else
        let c := if c.state = .fetching then c else { c with target := bit c.inPond }
        (d.setCopy e c).faultCopy e src

end Dev
end Sys2Proof.Machine
end

