-- ==== Sys2Proof/Machine/Chain.lean ====
section
/-!
DEFINITION. The transfer chain of XCOPY (spec/14_block.md R276 to R279): the descriptor and its checks, the eight stages, and
one restart step. Bytes are drawn through the stages only as a step needs them.
-/

namespace Sys2Proof.Machine
open Word

/-- The chain's restart state (R273). Bytes on their way carry their value in bits [7:0], in [63:8] the tag of the poisoned line
they were computed from (one more than it, or 0), and above that the address that a fault found at them names. -/
structure Chain where
  en : Nat
  sc : Nat
  sr : Bool
  /-- a[aS], and the descriptor's fields (R276). -/
  da : Nat
  src : Nat
  dst : Nat
  gidx : Nat
  sidx : Nat
  tweak : Nat
  len : Nat
  rlen : Nat
  fmt : Nat
  tr : Nat
  tc : Nat
  typ : Nat
  opt : Nat
  /-- The expected checksum, the captured counter and key of stochastic rounding, the tag of the descriptors. -/
  expect : Nat
  expectP : Bool
  ctr : Nat
  srkey : Nat
  tag : Nat
  key : List Nat
  sd : SDesc
  /-- Steps done; bytes gathered; the gather row whose base is at hand (one more than it), its base and tag; decrypted units;
  requantised elements; whether the LAST block and the transpose are done. -/
  step : Nat := 0
  pos : Nat := 0
  /-- Bytes that come again before those that expand has still to read. -/
  skip : Nat := 0
  grow : Nat := 0
  gbase : Nat := 0
  gtag : Nat := 0
  unit_ : Nat := 0
  elem : Nat := 0
  last : Bool := false
  turned : Bool := false
  /-- Bytes written; the scatter row whose base is at hand, its base and tag; the running checksum; any poison so far; whether
  the comparison has failed. -/
  wpos : Nat := 0
  srow : Nat := 0
  sbase : Nat := 0
  stag : Nat := 0
  crc : Nat := 0
  anyP : Bool := false
  bad : Bool := false
  /-- Flags and invalid codes of the step at hand. -/
  fl : Nat := 0
  ic : Nat := 0
  /-- The input of stage `k` at index `k`; at 8 the input of the write. -/
  bufs : List (List Nat) := List.replicate 9 []
  deriving DecidableEq, Repr

/-- Lists one after the other, each behind its length. -/
def packLists (xs : List (List Nat)) : List Nat := xs.flatMap (fun x => x.length :: x)

/-- The lists taken out again. -/
def unpackLists : Nat → List Nat → List (List Nat)
  | 0, _ => []
  | _ + 1, [] => []
  | n + 1, k :: xs => xs.take k :: unpackLists n (xs.drop k)

def Chain.pack (c : Chain) : List Nat :=
  packLists ([[c.en, c.sc, bit c.sr, c.da, c.src, c.dst, c.gidx, c.sidx, c.tweak, c.len, c.rlen, c.fmt, c.tr, c.tc, c.typ, c.opt,
      c.expect, bit c.expectP, c.ctr, c.srkey, c.tag],
    [c.step, c.pos, c.grow, c.gbase, c.gtag, c.unit_, c.elem, bit c.last, bit c.turned, c.wpos, c.srow, c.sbase, c.stag, c.crc,
      bit c.anyP, bit c.bad, c.skip], c.key, c.sd.pack] ++ c.bufs)

def Chain.unpack (n : List Nat) : Chain :=
  let ls := unpackLists 13 n
  let f (i : Nat) : Nat := (ls.getD 0 []).getD i 0
  let g (i : Nat) : Nat := (ls.getD 1 []).getD i 0
  { en := f 0, sc := f 1, sr := f 2 == 1, da := f 3, src := f 4, dst := f 5, gidx := f 6, sidx := f 7, tweak := f 8, len := f 9,
    rlen := f 10, fmt := f 11, tr := f 12, tc := f 13, typ := f 14, opt := f 15, expect := f 16, expectP := f 17 == 1, ctr := f 18,
    srkey := f 19, tag := f 20, key := ls.getD 2 [], sd := SDesc.unpack (ls.getD 3 []),
    step := g 0, pos := g 1, grow := g 2, gbase := g 3, gtag := g 4, unit_ := g 5, elem := g 6, last := g 7 == 1,
    turned := g 8 == 1, wpos := g 9, srow := g 10, sbase := g 11, stag := g 12, crc := g 13, anyP := g 14 == 1, bad := g 15 == 1, skip := g 16,
    bufs := ls.drop 4 }

/-! ### The descriptor (R276) -/

/-- The first field of a transfer descriptor that fails its check, by its offset, for the enabled stages (R276, R277). -/
def xdescFault (en : Nat) (w : Nat → Nat) (keyValid : Bool) : Option Nat :=
  let e (k : Nat) : Bool := flag en (k - 1)
  let len := fld (w 6) 0 32
  let rlen := fld (w 6) 32 16
  let xv := sext (fld (w 7) 40 5) 5
  let tr := fld (w 7) 0 16
  let tc := fld (w 7) 16 16
  let checks : List (Nat × Bool) :=
    [(0x00, w 0 % 64 != 0), (0x08, w 1 % 64 != 0), (0x10, e 1 && w 2 % 4 != 0), (0x18, e 8 && w 3 % 4 != 0),
      (0x20, e 3 && w 4 % 8 != 0),
      (0x30, len < 64 || 2 ^ 30 < len || len % 64 != 0 || (e 1 && len % (64 * rlen) != 0) || (e 2 && len % 4096 != 0)),
      (0x34, (e 1 || e 8) && (rlen = 0 || 1024 < rlen)),
      (0x36, fld (w 6) 52 4 != 0 || (e 2 && !keyValid)),
      (0x37, (e 4 && 8 < fld (w 6) 60 4) || (e 6 && 8 < fld (w 6) 56 4)),
      (0x38, e 5 && (tr = 0 || 131072 < tr * tc * 2 ^ fld (w 7) 36 2)),
      (0x3A, e 5 && tc = 0),
      (0x3C, fld (w 7) 38 2 != 0 || ((e 4 || e 6) && fld (w 7) 32 4 != 1 && fld (w 7) 32 4 != 2)),
      (0x3D, fld (w 7) 46 2 != 0 || ((e 4 || e 6) && (decide (xv < -13) || decide (13 < xv)))),
      (0x3E, fld (w 7) 48 16 != 0)]
  (checks.find? (fun (c : Nat × Bool) => c.2)).map (fun (c : Nat × Bool) => c.1)

/-! ### Bytes on their way -/

/-- A byte with its tag and its address. -/
def mkByte (v tag va : Nat) : Nat := v + tag * 2 ^ 8 + va * 2 ^ 64

def byteVal (x : Nat) : Nat := fld x 0 8
def byteTag (x : Nat) : Nat := fld x 8 56
def byteAddr (x : Nat) : Nat := x / 2 ^ 64

/-- The tag of data computed from bytes. -/
def tagsOf (xs : List Nat) : Nat := firstTag (xs.map byteTag)

/-- Bytes as a number. -/
def bytesNum (xs : List Nat) : Nat := Aes.numOf (xs.map byteVal)

namespace Chain

def enabled (c : Chain) (k : Nat) : Bool := flag c.en (k - 1)

/-- The stages that hold bytes, last first. -/
def stages (c : Chain) : List Nat := [6, 5, 4, 3, 2].filter c.enabled

def buf (c : Chain) (k : Nat) : List Nat := c.bufs.getD k []

def setBuf (c : Chain) (k : Nat) (xs : List Nat) : Chain := { c with bufs := c.bufs.set k xs }

/-- Bytes handed to the first enabled stage behind stage `k`. -/
def feed (c : Chain) (k : Nat) (xs : List Nat) : Chain :=
  let n := (([2, 3, 4, 5, 6].filter (fun j => k < j && c.enabled j)).head?).getD 8
  if n = 3 then { c with skip := c.skip - xs.length }.setBuf 3 (c.buf 3 ++ xs.drop c.skip)
  else c.setBuf n (c.buf n ++ xs)

/-- The chain without the bytes that expand has not decoded: the step that reaches their block reads it afresh, with its header
(R286). A line, or a unit of decrypt, comes again whole. -/
def rewind (c : Chain) : Chain :=
  if !c.enabled 3 || c.last then c
  else
    let p := c.pos + c.skip - (c.buf 2).length - (c.buf 3).length
    let unit := if c.enabled 2 then 4096 else 64
    { (c.setBuf 2 []).setBuf 3 [] with
      pos := p / unit * unit, skip := p % unit, grow := 0, unit_ := if c.enabled 2 then p / 4096 else c.unit_ }

def xv (c : Chain) : Int := sext (fld c.opt 0 5) 5
def cmp (c : Chain) : Bool := flag c.opt 5

/-- The work type: 1 FP32, 2 BF16. -/
def work (c : Chain) : Nat := fld c.typ 0 4

/-- No more bytes are gathered. -/
def srcDone (c : Chain) : Bool := c.len ≤ c.pos || c.last

/-- Nothing more reaches stage `k`. -/
def drained (c : Chain) (k : Nat) : Bool := c.srcDone && [2, 3, 4, 5, 6].all (fun j => k ≤ j || (c.buf j).isEmpty)

/-- Nothing is on its way. -/
def done (c : Chain) : Bool := c.drained 8 && (c.buf 8).isEmpty && (!c.enabled 3 || c.last) && (!c.enabled 5 || c.turned)

/-- The fault of a stage that the data reaches: cause 0x04 with a[aS] (R277). -/
def bad4 {α : Type} (c : Chain) : Res α := trap 4 c.da

/-! ### The stages (R277); `none` where a stage lacks input -/

/-- Decrypt: one data unit. -/
def decrypt (c : Chain) : Option Chain :=
  let b := c.buf 2
  if b.length < 4096 then none
  else
    let u := b.take 4096
    let t := tagsOf u
    let vs := Aes.xtsDecrypt c.key (c.tweak + c.unit_) (u.map byteVal)
    some ({ c.setBuf 2 (b.drop 4096) with unit_ := c.unit_ + 1 }.feed 2
      (List.zipWith (fun v x => mkByte v t (byteAddr x)) vs u))

/-- Expand: one block. A corrupt one is cause 0x13 with its header's address, one beyond its bound cause 0x12 (R283, R284). -/
def expand (c : Chain) : Res (Option Chain) :=
  let b := c.buf 3
  if b.length < 16 then .ok none
  else
    let va := byteAddr (b.headD 0)
    match blockHead c.sd (bytesNum (b.take 16)) none with
    | .error cause => trap cause va
    | .ok h =>
      if b.length < h.size then .ok none
      else if !h.last && c.drained 3 && b.length = h.size then trap 0x13 va
      else
        match blockBytes c.sd h (((b.drop 16).take h.body).map byteVal) with
        | none => trap 0x13 va
        | some out =>
          let t := tagsOf (b.take h.size)
          let c := (c.setBuf 3 (b.drop h.size)).feed 3 (out.map (fun v => mkByte v t c.da))
          .ok (some (if h.last then { (c.setBuf 3 []).setBuf 2 [] with last := true } else c))

/-- Dequantise: one record; a reserved scale is cause 0x04 with the scale's address (R72), which for data that the expand stage has
produced is the destination of the operation, since such data has no address of its own (DESIGN CHOICE, log 85). -/
def dequant (c : Chain) : Res (Option Chain) :=
  let b := c.buf 4
  let f := fld c.fmt 4 4
  let nb := narrowBits f
  let size := 4 * nb + 2
  if b.length < size then .ok none
  else
    let r := b.take size
    let v := bytesNum r
    match scaleVal (fld v (32 * nb) 12) with
    | none => trap 4 (byteAddr (r.getD (4 * nb) 0))
    | some s =>
      let t := tagsOf r
      let es := (List.range 32).map (fun i =>
        let x := blockVal f c.xv s (fld v (nb * i) nb)
        let y := fromF32 c.work x.1
        (y.1, x.2.1 ||| y.2, x.2.2))
      let ic := sumOf (fun e => e.2.2) es
      let fl := es.foldl (fun a e => a ||| e.2.1) (if ic = 0 then c.fl else c.fl ||| fIC)
      let out := es.flatMap (fun e => (Aes.bytesOf (typeBytes c.work) e.1).map (fun v => mkByte v t c.da))
      .ok (some ({ c.setBuf 4 (b.drop size) with fl := fl, ic := c.ic + ic }.feed 4 out))

/-- Transpose: the whole input at once. -/
def transpose (c : Chain) : Res (Option Chain) :=
  let b := c.buf 5
  let e := 2 ^ fld c.typ 4 2
  let size := c.tr * c.tc * e
  if size < b.length then c.bad4
  else if c.turned || !c.drained 5 then .ok none
  else if b.length != size then c.bad4
  else
    let a := b.toArray
    let out := (List.range size).map (fun i =>
      let j := i / e
      a.getD ((j % c.tr * c.tc + j / c.tr) * e + i % e) 0)
    .ok (some ({ c.setBuf 5 [] with turned := true }.feed 5 out))

/-- The largest finite magnitude of values. -/
def maxAbs (xs : List FVal) : Nat × Nat :=
  xs.foldl (fun (m : Nat × Nat) x => match x with
    | .fin _ n d => if m.1 * d < n * m.2 then (n, d) else m
    | _ => m) (0, 1)

/-- The scale of a requantised block and its flags: the least code that reaches maxabs / Fmax. -/
def scaleFor (f : Nat) (xs : List FVal) : Nat × Nat :=
  let (n, d) := maxAbs xs
  if n = 0 then (0, 0)
  else
    match leastScale (2 * n) (d * fmax2 f) with
    | some k => (k, 0)
    | none => (0xFEF, fOF)

/-- The draw of an element (R81). -/
def draw (c : Chain) (i : Nat) : Option Nat :=
  if c.sr then some (philox c.srkey (fld c.ctr 0 32) (fld c.ctr 32 32) (i % 2 ^ 32) 0) else none

/-- Requantise: one block of 32 elements. -/
def requant (c : Chain) : Option Chain :=
  let b := c.buf 6
  let f := fld c.fmt 0 4
  let w := typeBytes c.work
  if b.length < 32 * w then none
  else
    let r := b.take (32 * w)
    let v := bytesNum r
    let xs := (List.range 32).map (fun i => valF (fmtOf c.work) (fld v (8 * w * i) (8 * w)))
    let (k, fl) := scaleFor f xs
    let y := packBlock f c.xv k ((scaleVal k).getD .zero) (fun i => c.draw (c.elem + i)) xs
    let nb := narrowBits f
    let out := (Aes.bytesOf (4 * nb) (packLanes nb y.1) ++ Aes.bytesOf 2 y.2.2.2).map (fun v => mkByte v (tagsOf r) c.da)
    some ({ c.setBuf 6 (b.drop (32 * w)) with elem := c.elem + 32, fl := c.fl ||| fl ||| y.2.1 }.feed 6 out)

/-- One move of stage `k`. -/
def fire (c : Chain) (k : Nat) : Res (Option Chain) :=
  match k with
  | 2 => .ok c.decrypt
  | 3 => c.expand
  | 4 => c.dequant
  | 5 => c.transpose
  | _ => .ok c.requant

/-- One move of the last stage that has its input. -/
def fireAny (c : Chain) : List Nat → Res (Option Chain)
  | [] => .ok none
  | k :: ks => do
    match ← c.fire k with
    | some c => pure (some c)
    | none => fireAny c ks

/-- The fault of input that ends inside a record, a block or before a LAST block (R277, R283). -/
def short (c : Chain) : Res Unit :=
  match [2, 3, 4, 5, 6].find? (fun k => c.enabled k && (!(c.buf k).isEmpty || (k == 3 && !c.last))) with
  | none => .ok ()
  | some k => if k = 3 then trap 0x13 (match c.buf 3 with
      | x :: _ => byteAddr x
      | [] => (c.src + c.len) % 2 ^ 64) else c.bad4

/-- Gather: 64 bytes of the row at hand, whose index is read where the row begins. -/
def gather (m : Mod) (d : Dev) (c : Chain) : Res (Chain × Dev) := do
  let size := 64 * c.rlen
  let j := c.pos / size
  let (c, d) ←
    if !c.enabled 1 || c.grow = j + 1 then pure (c, d)
    else do
      let (bs, t, d) ← d.xLoad m (c.gidx + 4 * j) 4
      let base := (BitVec.ofNat 64 c.src + BitVec.ofInt 64 (sext (Aes.numOf bs) 32 * 64)).toNat
      pure ({ c with grow := j + 1, gbase := base, gtag := t }, d)
  let va := (if c.enabled 1 then c.gbase + c.pos % size else c.src + c.pos) % 2 ^ 64
  let (bs, t, d) ← d.xLoad m va 64
  let t := firstTag [t, if c.enabled 1 then c.gtag else 0]
  let line := ((List.range 64).zip bs).map (fun (e : Nat × Nat) => mkByte e.2 t (va + e.1))
  pure ({ c with pos := c.pos + 64 }.feed 1 line, d)

/-- The bytes of one restart step (R278): 4096, or all of them with transpose. -/
def want (c : Chain) : Nat := if c.enabled 5 then 2 ^ 40 else 4096

/-- Bytes drawn through stages 1 to 6 until a step is full or the input has ended. -/
def pump (m : Mod) (d : Dev) (c : Chain) : Nat → Res (Chain × Dev)
  | 0 => .ok (c, d)
  | n + 1 =>
    if c.want ≤ (c.buf 8).length then .ok (c, d)
    else do
      match ← c.fireAny c.stages with
      | some c => pump m d c n
      | none =>
        if c.srcDone then do
          c.short
          pure (c, d)
        else do
          let (c, d) ← c.gather m d
          pump m d c n

/-- More moves than a step can take: each line, block and record of the input moves at most once. -/
def fuel (c : Chain) : Nat := 32 * c.len + 64

/-- Scatter: where the bytes of a step go, as runs. The index of a row is read where the row begins. -/
def runs (m : Mod) (d : Dev) (c : Chain) (n : Nat) : Nat → Res (List (Nat × Nat) × Nat × Chain × Dev)
  | 0 => .ok ([], 0, c, d)
  | k + 1 =>
    if n = 0 then .ok ([], 0, c, d)
    else if !c.enabled 8 then .ok ([((c.dst + c.wpos) % 2 ^ 64, n)], 0, { c with wpos := c.wpos + n }, d)
    else do
      let size := 64 * c.rlen
      let j := c.wpos / size
      let (c, d) ←
        if c.srow = j + 1 then pure (c, d)
        else do
          let (bs, t, d) ← d.xLoad m (c.sidx + 4 * j) 4
          let base := (BitVec.ofNat 64 c.dst + BitVec.ofInt 64 (sext (Aes.numOf bs) 32 * 64)).toNat
          pure ({ c with srow := j + 1, sbase := base, stag := t }, d)
      let off := c.wpos % size
      let here := min n (size - off)
      let run : Nat × Nat := ((c.sbase + off) % 2 ^ 64, here)
      let t := c.stag
      let (rs, t', c, d) ← runs m d { c with wpos := c.wpos + here } (n - here) k
      pure (run :: rs, firstTag [t, t'], c, d)

/-- The checks of every run before any byte is written (R273). -/
def targets (d : Dev) : List (Nat × Nat) → Res (List (Nat × Nat) × Dev)
  | [] => .ok ([], d)
  | (va, n) :: rs => do
    let (ps, d) ← d.xPieces .store va n
    let (qs, d) ← targets d rs
    pure (ps ++ qs, d)

/-- One restart step (R278): produced, checked, then written; the chain after it and whether the transfer has ended. `write` is
false for a step that counts as complete (R207). -/
def runStep (m : Mod) (d : Dev) (c : Chain) (write : Bool) : Res (Chain × Bool × Dev) := do
  let (c, d) ← c.pump m d c.fuel
  let ys := (c.buf 8).take c.want
  let c := c.setBuf 8 ((c.buf 8).drop c.want)
  let fin := c.done
  if fin && c.enabled 8 && (c.wpos + ys.length) % (64 * c.rlen) != 0 then c.bad4
  else do
    let bs := ys.map (fun y => BitVec.ofNat 8 (byteVal y))
    let next (c : Chain) (t : Nat) : Chain :=
      { (if fin then c else c.rewind) with
        step := c.step + 1, crc := if c.enabled 7 then crc32c bs c.crc else 0, anyP := c.anyP || t != 0, fl := 0, ic := 0 }
    if !write then
      let t := firstTag [c.tag, tagsOf ys]
      pure (next { c with wpos := c.wpos + ys.length, srow := 0 } t, fin, d)
    else do
      let (rs, t0, c, d) ← runs m d c ys.length (ys.length + 1)
      let t := firstTag [c.tag, tagsOf ys, t0]
      let (ps, d) ← targets d rs
      if t != 0 && Dev.atSy c.sc ps then commitLine ((rs.headD (0, 0)).1) (t - 1)
      else
        let d := d.xWrite m bs (t != 0) ps
        let d := if c.fl = 0 then d else d.raiseF 10 c.fl
        pure (next c t, fin, d.count 40 c.ic)

/-- The chain as it began, to be brought to another step (R207). -/
def restart (c : Chain) : Chain :=
  { en := c.en, sc := c.sc, sr := c.sr, da := c.da, src := c.src, dst := c.dst, gidx := c.gidx, sidx := c.sidx, tweak := c.tweak,
    len := c.len, rlen := c.rlen, fmt := c.fmt, tr := c.tr, tc := c.tc, typ := c.typ, opt := c.opt, expect := c.expect,
    expectP := c.expectP, ctr := c.ctr, srkey := c.srkey, tag := c.tag, key := c.key, sd := c.sd }

/-- The chain brought to a step without the writes of the steps before it; `none` where the transfer ends first. -/
def seek (m : Mod) (d : Dev) (c : Chain) : Nat → Res (Option Chain × Dev)
  | 0 => .ok (some c, d)
  | n + 1 => do
    let (c, fin, d) ← c.runStep m d false
    if fin then pure (none, d) else seek m d c n

end Chain

namespace Dev

/-- The issue of XCOPY (R276 to R278): the descriptor is read, checked and staged with the key, the stream descriptor, the
captured counter and the expected checksum. -/
def xcopyOp (m : Mod) (d : Dev) (i : Instr) (sc : Nat) (sr : Bool) (en fd fa : Nat) : Res Dev := do
  if d.stm.op.isSome then waitFor .busy else pure ()
  let a := d.reg fa
  let da := a.v.toNat
  if a.p then commitReg da else pure ()
  trapIf (da % 64 != 0) 5 da
  let (ws, t0, d) ← d.xWords m da 8
  let w (i : Nat) : Nat := ws.getD i 0
  let key := Map.get {} (d.ctx d.myCtx).xkeys (fld (w 6) 48 4)
  match xdescFault en w key.valid with
  | some off => .error (.trap { cause := 4, addr := BitVec.ofNat 64 da, step := off })
  | none => do
    let (sd, d) ← if flag en 2 then d.readSdesc m (w 4) else pure ({}, d)
    let x := d.reg fd
    let c : Chain :=
      { en := en, sc := sc, sr := sr, da := da, src := w 0, dst := w 1, gidx := w 2, sidx := w 3, tweak := w 5,
        len := fld (w 6) 0 32, rlen := fld (w 6) 32 16, fmt := fld (w 6) 56 8, tr := fld (w 7) 0 16, tc := fld (w 7) 16 16,
        typ := fld (w 7) 32 8, opt := fld (w 7) 40 8, expect := fld x.v.toNat 0 32, expectP := x.p,
        ctr := (asStaged d.grp d.time).srctrX.toNat, srkey := (asStaged d.grp d.time).srkey.toNat, tag := firstTag [t0, sd.tag],
        key := (List.range 8).map (fun j => (Map.get 0 key.words j).toNat), sd := sd }
    let d := if sr && !(d.grp.old.at_ == d.time + 1 && d.grp.old.wroteX) then d.setGrp { d.grp with srctrX := d.grp.srctrX + 1 } else d
    let o : LongOp := { ins := i, word := 0, pc := 0, step := 0, n := c.pack, regs := [], rows := [], mask := {}, p := false, res := [] }
    pure (d.begin o)

/-- The retirement of XCOPY: the checksum, or 0 (R278). -/
def xcopyRetire (d : Dev) (key fd : Nat) (o : LongOp) (c : Chain) : Dev :=
  let crc := if c.enabled 7 then c.crc else 0
  (d.setReg fd ⟨BitVec.ofNat 64 crc, c.expectP || (c.enabled 7 && c.anyP)⟩).finishOp key .X o

/-- One step of XCOPY. The operation waits at its step after a mismatch; unchanged it then retires with the checksum (R278). -/
def xcopyStep (m : Mod) (d : Dev) (key fd : Nat) (o : LongOp) : Res Dev := do
  let c := Chain.unpack o.n
  if c.bad && o.step = c.step then pure (d.xcopyRetire key fd o c)
  else do
    let (c, d) ← if o.step = c.step then pure (some c, d) else c.restart.seek m d o.step
    match c with
    | none => pure (d.finishOp key .X o)
    | some c => do
      let (c, fin, d) ← c.runStep m d true
      let put (c : Chain) : Dev := d.setOp key .X { o with step := c.step, n := c.pack }
      if !fin then pure (put c)
      else if c.enabled 7 && c.cmp && c.crc != c.expect then
        pure ((put { c with bad := true }).takeFault
          { cause := 0x13, addr := BitVec.ofNat 64 c.crc, step := c.step, pc := some o.pc, word := some o.word })
      else pure (d.xcopyRetire key fd o c)

end Dev
end Sys2Proof.Machine
end

