-- ==== Sys2Proof/Machine/Transfer.lean ====
section
/-!
DEFINITION. Class 0x9, the X engine (spec/14_block.md R273 to R291): the issue of its instructions, their restart steps, and
the events that complete a step and push a checked block.
-/

namespace Sys2Proof.Machine
open Word

namespace Dev

/-- An operation of the X stream begun with its numbers and rows. -/
def beginX (d : Dev) (i : Instr) (n : List Nat) (rows : List RowData := []) (p : Bool := false) (res : List (Nat × Nat) := []) : Dev :=
  d.begin { ins := i, word := 0, pc := 0, step := 0, n := n, regs := [], rows := rows, mask := {}, p := p, res := res }

/-- A class-0x9 instruction waits until the one before it has retired (R273). -/
def xFree (d : Dev) : Res Unit := if d.stm.op.isSome then waitFor .busy else .ok ()

/-- A poisoned register that gives an address or a length commits (R87, R273). -/
def xClean (d : Dev) (rs : List Nat) (addr : Nat) : Res Unit := if rs.any (fun r => (d.reg r).p) then commitReg addr else .ok ()

/-! ### Rows (R289) -/

/-- The address of row `j`: the base and lane `j` of the index row. -/
def rowAddr (base : Nat) (ix : RowBits) (j : Nat) : Nat :=
  (BitVec.ofNat 64 base + BitVec.ofInt 64 (sext (fld ix.toNat (32 * j) 32) 32 * 64)).toNat

/-- The checks on the index row and the base of XGATH and XSCAT (R289): `mid` stands for those of the rows or the port. -/
def rowArgs {α : Type} (d : Dev) (aN fI : Nat) (mid : Dev → Res α) : Res (Nat × RowData × α) := do
  d.xFree
  let base := (d.reg aN).v.toNat
  d.xClean [aN] base
  trapIf (0x800 ≤ fI) 4 d.cur.pc.toNat
  let x ← d.readRow fI
  let r ← mid d
  trapIf (base % 64 != 0) 5 base
  pure (base, x, r)

/-- Destination rows may be written whole (R61, R63). -/
def rowsWritable (d : Dev) (r : Nat) : Nat → Res Unit
  | 0 => .ok ()
  | n + 1 => do
    rowsWritable d r n
    d.rowWritable (r + n) true

/-- The destination of XGATH: rows, or a pool queue with `cnt` slots reserved (R220, R289). -/
def gathDst (cnt fD : Nat) (d : Dev) : Res (List (Nat × Nat) × Dev) :=
  if fD < 0x800 then do
    trapIf (d.grp.rowsN < fD + cnt) 4 d.cur.pc.toNat
    d.rowsWritable fD cnt
    pure ([], d)
  else if fD < 0x900 then do
    let port := fD - 0x800
    let f ← d.resolve port true true .operand
    match f with
    | .pool q => do
      trapIf (d.depthOf f < cnt) 0x16 port
      if !d.isOpen f then pure ([(q, 0)], d)
      else if d.roomBefore f < cnt || d.servesOther (8 * d.fifoNum f + 1) then waitFor (.queue port)
      else pure ([(q, cnt)], (d.setQueue q { d.queue q with reserved := (d.queue q).reserved + cnt }).serve (8 * d.fifoNum f + 1))
    | _ => trap 0x16 port
  else trap 4 d.cur.pc.toNat

/-- XGATH: `n` holds the base, the count, the destination, the queue and its round. -/
def xgathOp (d : Dev) (i : Instr) (cm1 fD aN fI : Nat) : Res Dev := do
  let (base, x, res, d) ← d.rowArgs aN fI (gathDst (cm1 + 1) fD)
  let q := ((res.head?).map (·.1)).getD 0
  pure (d.beginX i [base, cm1 + 1, fD, q, (d.queue q).round] [x] x.p (res.filter (·.2 != 0)))

/-- An entry into a queue whose slot an operation has reserved; a queue that is not OPEN discards it (R218, R220). `tag` is one
more than the poisoned line that the entry comes from, or 0. -/
def fillSlot (d : Dev) (key q round : Nat) (e : Entry) (tag : Nat) : Res Dev := do
  let f := Fifo.pool q
  if (d.queue q).round != round then pure d
  else do
    if tag = 0 then d.pushPoison f e.p else if (d.pushPoison f true).toBool then pure () else commitLine 0 (tag - 1)
    if !d.isOpen f then pure (d.countDrop q 1)
    else
    let d := d.putTail e f
    let d := d.setQueue q { d.queue q with reserved := (d.queue q).reserved - 1 }
    match (d.group key).streamX.op with
    | none => pure d
    | some o => pure (d.setOp key .X { o with res := o.res.map (fun r => if r.1 = q then (q, r.2 - 1) else r) })

/-- One row of XGATH. -/
def xgathStep (m : Mod) (d : Dev) (key : Nat) (o : LongOp) : Res Dev := do
  let f (i : Nat) : Nat := o.n.getD i 0
  let x := o.rows.headD {}
  if f 1 ≤ o.step then pure ((d.releaseRes o).finishOp key .X o)
  else do
    let (bs, t, d) ← d.xLoad m (rowAddr (f 0) x.v o.step) 2048
    let v : RowBits := BitVec.ofNat 16384 (Aes.numOf bs)
    let p := x.p || t != 0
    let d ← if f 2 < 0x800 then do
        let d ← d.readyRows key true [f 2 + o.step]
        pure (d.retireRow key (f 2 + o.step) v p true)
      else d.fillSlot key (f 3) (f 4) ⟨v, p⟩ t
    let o := ((d.group key).streamX.op).getD o
    if f 1 ≤ o.step + 1 then pure ((d.releaseRes o).finishOp key .X o)
    else pure (d.setOp key .X { o with step := o.step + 1 })

/-- The source of XSCAT: rows, or entries popped at issue (R26, R289). -/
def scatSrc (cnt fA : Nat) (d : Dev) : Res (List RowData × Bool × Dev) :=
  if fA < 0x800 then do
    trapIf (d.grp.rowsN < fA + cnt) 4 d.cur.pc.toNat
    let rs ← (List.range cnt).mapM (fun j => d.readRow (fA + j))
    pure (rs, false, d)
  else if fA < 0x900 then do
    let f ← d.resolve (fA - 0x800) false true .operand
    let (es, d) ← d.popN (fA - 0x800) cnt f
    pure (es.map (fun e => ⟨e.v, e.p⟩), true, d)
  else trap 4 d.cur.pc.toNat

/-- XSCAT: `n` holds the base, the count, the scope, and whether the rows are queue entries. -/
def xscatOp (d : Dev) (i : Instr) (sc cm1 fA aN fI : Nat) : Res Dev := do
  let (base, x, rs, port, d) ← d.rowArgs aN fI (scatSrc (cm1 + 1) fA)
  pure (d.beginX i [base, cm1 + 1, sc, bit port] (x :: rs) x.p)

/-- One row of XSCAT: a poisoned one commits at .sy and poisons its lines otherwise (R273). -/
def xscatStep (m : Mod) (d : Dev) (key : Nat) (o : LongOp) : Res Dev := do
  let f (i : Nat) : Nat := o.n.getD i 0
  if f 1 ≤ o.step then pure (d.finishOp key .X o)
  else do
    let x := o.rows.getD (o.step + 1) {}
    let a := rowAddr (f 0) (o.rows.headD {}).v o.step
    let (ps, d) ← d.xPieces .store a 2048
    let p := o.p || x.p
    if p && atSy (f 2) ps then (if f 3 = 1 && x.p then commitEntry a else commitReg a)
    else
      let d := d.xWrite m (toBytes 2048 x.v.toNat) p ps
      if f 1 ≤ o.step + 1 then pure (d.finishOp key .X o)
      else pure (d.setOp key .X { o with step := o.step + 1 })

/-! ### Ranges (R290, R291) -/

/-- The bytes of step `s` of a range: where it begins and how many it covers, up to the next 4 KiB boundary. -/
def rangeStep (base len s : Nat) : Nat × Nat :=
  let lo := if s = 0 then 0 else 4096 * s - base % 4096
  (lo, min len (4096 * (s + 1) - base % 4096) - lo)

/-- The steps of a range. -/
def rangeSteps (base len : Nat) : Nat := if len = 0 then 0 else (base % 4096 + len + 4095) / 4096

/-- XFILL: `n` holds the base, the length, the pattern and the scope. -/
def xfillOp (d : Dev) (i : Instr) (sc fd fa fb : Nat) : Res Dev := do
  d.xFree
  let base := (d.reg fa).v.toNat
  let len := (d.reg fb).v.toNat
  d.xClean [fa, fb] base
  trapIf (base % 8 != 0) 5 base
  trapIf (len % 8 != 0 || 2 ^ 40 < len) 4 d.cur.pc.toNat
  if len = 0 then pure d else pure (d.beginX i [base, len, (d.reg fd).v.toNat, sc] [] (d.reg fd).p)

/-- One step of XFILL. -/
def xfillStep (m : Mod) (d : Dev) (key : Nat) (o : LongOp) : Res Dev := do
  let f (i : Nat) : Nat := o.n.getD i 0
  if rangeSteps (f 0) (f 1) ≤ o.step then pure (d.finishOp key .X o)
  else do
    let (lo, n) := rangeStep (f 0) (f 1) o.step
    let (ps, d) ← d.xPieces .store (f 0 + lo) n
    if o.p && atSy (f 3) ps then commitReg ((f 0 + lo) % 2 ^ 64)
    else
      let d := d.xWrite m ((List.range n).map (fun i => BitVec.ofNat 8 (fld (f 2) (8 * ((lo + i) % 8)) 8))) o.p ps
      if rangeSteps (f 0) (f 1) ≤ o.step + 1 then pure (d.finishOp key .X o)
      else pure (d.setOp key .X { o with step := o.step + 1 })

/-- XCHK: `n` holds the base, the length and the running value. -/
def xchkOp (d : Dev) (i : Instr) (cont : Bool) (fd fa fb : Nat) : Res Dev := do
  d.xFree
  let base := (d.reg fa).v.toNat
  let len := (d.reg fb).v.toNat
  d.xClean [fa, fb] base
  trapIf (2 ^ 40 < len) 4 d.cur.pc.toNat
  let x := d.reg fd
  let start := if cont then fld x.v.toNat 0 32 else 0
  if len = 0 then pure (d.setReg fd ⟨BitVec.ofNat 64 start, cont && x.p⟩)
  else pure (d.beginX i [base, len, start] [] (cont && x.p))

/-- One step of XCHK. -/
def xchkStep (m : Mod) (d : Dev) (key fd : Nat) (o : LongOp) : Res Dev := do
  let f (i : Nat) : Nat := o.n.getD i 0
  if rangeSteps (f 0) (f 1) ≤ o.step then pure (d.finishOp key .X o)
  else do
    let (lo, n) := rangeStep (f 0) (f 1) o.step
    let (bs, t, d) ← d.xLoad m (f 0 + lo) n
    let crc := crc32c (bs.map (BitVec.ofNat 8)) (f 2)
    let p := o.p || t != 0
    if rangeSteps (f 0) (f 1) ≤ o.step + 1 then pure ((d.setReg fd ⟨BitVec.ofNat 64 crc, p⟩).finishOp key .X o)
    else pure (d.setOp key .X { o with step := o.step + 1, n := [f 0, f 1, crc], p := p })

/-! ### XDEC (R286, R287) -/

/-- XDEC: `n` holds the start, the number of blocks, the address and the number of the block at hand, its size once it is
CHECKED, then the stream descriptor. -/
def xdecOp (m : Mod) (d : Dev) (i : Instr) (fd fa fb : Nat) : Res Dev := do
  d.xFree
  let base := (d.reg fa).v.toNat
  let n := (d.reg fd).v.toNat
  d.xClean [fa, fb, fd] base
  trapIf (base % 16 != 0) 5 base
  trapIf (n = 0 || 2 ^ 20 < n) 4 n
  let (sd, d) ← d.readSdesc m (d.reg fb).v.toNat
  pure (d.beginX i ([base, n, base, 0, 0] ++ sd.pack))

/-- The stream descriptor of an XDEC in progress. -/
def xdecSd (o : LongOp) : SDesc := SDesc.unpack (o.n.drop 5)

/-- The address of a block that a handler has chosen: the blocks before it are passed over by their headers (R207). -/
def seekBlock (m : Mod) (d : Dev) (sd : SDesc) (addr : Nat) : Nat → Res (Nat × Dev)
  | 0 => .ok (addr, d)
  | k + 1 => do
    let (h, _, d) ← d.xLoad m addr 16
    match blockHead sd (Aes.numOf h) none with
    | .error c => trap c (addr % 2 ^ 64)
    | .ok b => seekBlock m d sd ((addr + b.size) % 2 ^ 64) k

/-- One block of XDEC up to CHECKED (R286): its entries are staged until q249 takes them. -/
def xdecBlock (m : Mod) (d : Dev) (key : Nat) (o : LongOp) : Res Dev := do
  let f (i : Nat) : Nat := o.n.getD i 0
  let sd := xdecSd o
  if f 1 ≤ o.step then pure (d.finishOp key .X o)
  else if !o.rows.isEmpty then pure d
  else do
    let (addr, d) ← if o.step = f 3 then pure (f 2, d) else d.seekBlock m sd (f 0) o.step
    let (h, t0, d) ← d.xLoad m addr 16
    match blockHead sd (Aes.numOf h) (some (o.step + 1 == f 1)) with
    | .error c => trap c addr
    | .ok b => do
      let (body, t1, d) ← d.xLoad m (addr + 16) (b.size - 16)
      match blockBytes sd b (body.take b.body) with
      | none => trap 0x13 addr
      | some out =>
        let p := firstTag [sd.tag, t0, t1] != 0
        let rows := (List.range ((b.count + 2047) / 2048)).map (fun j =>
          (⟨BitVec.ofNat 16384 (Aes.numOf ((out.drop (2048 * j)).take 2048)), p⟩ : RowData))
        pure (d.setOp key .X { o with rows := rows, n := [f 0, f 1, addr, o.step, b.size] ++ o.n.drop 5 })

/-- XDEC_PUSH: the entries of a CHECKED block go into q249 once it has room for all of them (R287). -/
def xdecPush (d : Dev) (key : Nat) : Dev :=
  match d.opOf key .X with
  | none => d
  | some o =>
    let d := d.curStep key .X
    if o.rows.isEmpty || d.roomOf .q249 < o.rows.length then d
    else
      match o.ins with
      | .xdec .. =>
        let f (i : Nat) : Nat := o.n.getD i 0
        let d := o.rows.foldl (fun d r => d.putTail ⟨r.v, r.p⟩ .q249) d
        let d := if f 1 ≤ o.step + 1 then d.finishOp key .X o
          else d.setOp key .X { o with
            step := o.step + 1, rows := [], n := [f 0, f 1, (f 2 + f 4) % 2 ^ 64, o.step + 1, 0] ++ o.n.drop 5 }
        d.stepOver key .X
      | _ => d

/-! ### Steps -/

/-- One restart step of the operation of the X stream. -/
def transferStep (m : Mod) (d : Dev) (key : Nat) (o : LongOp) : Res Dev :=
  match o.ins with
  | .xcopy _ _ _ _ fd _ => d.xcopyStep m key fd o
  | .xgath .. => d.xgathStep m key o
  | .xscat .. => d.xscatStep m key o
  | .xfill .. => d.xfillStep m key o
  | .xchk _ _ _ fd _ _ => d.xchkStep m key fd o
  | .xdec .. => d.xdecBlock m key o
  | _ => .ok d

/-- The stream descriptor that an operation decodes under. -/
def sdescOf (o : LongOp) : SDesc :=
  match o.ins with
  | .xcopy .. => (Chain.unpack o.n).sd
  | _ => xdecSd o

/-- TRANSFER_STEP_COMPLETE (R273): a step that faults leaves nothing of itself done; a block that fails has the effects of R285
too. A step that needs a link asks for its lines and is tried again. -/
def transferStepComplete (m : Mod) (d : Dev) (key : Nat) : Dev :=
  match d.opOf key .X with
  | none => d
  | some o =>
    let d := d.curStep key .X
    match d.transferStep m key o with
    | .ok d => d.stepOver key .X
    | .error (.wait (.granule _)) => d.preemptReader key
    | .error (.wait w) => d.keepAccess w
    | .error (.trap t) =>
      let d := if t.cause = 0x12 || t.cause = 0x13 then d.blockFault (sdescOf o) t.cause t.addr.toNat else d
      d.takeFault { t with step := o.step, pc := some o.pc, word := some o.word }

end Dev

/-- XCOPY (R276 to R278). -/
def execXcopy (h : Hdr) (sc : Nat) (sr : Bool) (en fd fa : Nat) (s : State) : Host.Outcome State Fault Refusal :=
  streamM h (fun m d => d.xcopyOp m (.xcopy h sc sr en fd fa) sc sr en fd fa) s

/-- XGATH (R289). -/
def execXgath (h : Hdr) (sc cm1 fD aN fI : Nat) (s : State) : Host.Outcome State Fault Refusal :=
  stream h (·.xgathOp (.xgath h sc cm1 fD aN fI) cm1 fD aN fI) s

/-- XSCAT (R289). -/
def execXscat (h : Hdr) (sc cm1 fA aN fI : Nat) (s : State) : Host.Outcome State Fault Refusal :=
  stream h (·.xscatOp (.xscat h sc cm1 fA aN fI) sc cm1 fA aN fI) s

/-- XFILL (R290). -/
def execXfill (h : Hdr) (sc fd fa fb : Nat) (s : State) : Host.Outcome State Fault Refusal :=
  stream h (·.xfillOp (.xfill h sc fd fa fb) sc fd fa fb) s

/-- XDEC (R287). -/
def execXdec (h : Hdr) (sc fd fa fb : Nat) (s : State) : Host.Outcome State Fault Refusal :=
  streamM h (fun m d => d.xdecOp m (.xdec h sc fd fa fb) fd fa fb) s

/-- XCHK (R291). -/
def execXchk (h : Hdr) (sc : Nat) (cont : Bool) (fd fa fb : Nat) (s : State) : Host.Outcome State Fault Refusal :=
  stream h (·.xchkOp (.xchk h sc cont fd fa fb) cont fd fa fb) s

def execTransferStepComplete (g : Nat) (s : State) : Host.Outcome State Fault Refusal :=
  event (fun d => d.transferStepComplete s.mod g) s

def execXdecPush (g : Nat) (s : State) : Host.Outcome State Fault Refusal := event (·.xdecPush g) s

end Sys2Proof.Machine
end

