-- ==== Sys2Proof/Machine/Dispatch.lean ====
section
/-!
DEFINITION. One arm for each constructor of `Instr`: the meaning of the instruction.
-/

namespace Sys2Proof.Machine

def exec (i : Instr) (s : State) : Host.Outcome State Fault Refusal :=
  match i with
  | .add h fd fa fb => Sys2Proof.Machine.execAdd h fd fa fb s
  | .sub h fd fa fb => Sys2Proof.Machine.execSub h fd fa fb s
  | .addi h fd fa imm => Sys2Proof.Machine.execAddi h fd fa imm s
  | .mul h fd fa fb => Sys2Proof.Machine.execMul h fd fa fb s
  | .mulh h z fd fa fb => Sys2Proof.Machine.execMulh h z fd fa fb s
  | .div h z fd fa fb => Sys2Proof.Machine.execDiv h z fd fa fb s
  | .rem h z fd fa fb => Sys2Proof.Machine.execRem h z fd fa fb s
  | .andR h fd fa fb => Sys2Proof.Machine.execAnd h fd fa fb s
  | .orR h fd fa fb => Sys2Proof.Machine.execOr h fd fa fb s
  | .xorR h fd fa fb => Sys2Proof.Machine.execXor h fd fa fb s
  | .andnR h fd fa fb => Sys2Proof.Machine.execAndn h fd fa fb s
  | .shl h fd fa fb => Sys2Proof.Machine.execShl h fd fa fb s
  | .shlImm h fd fa n => Sys2Proof.Machine.execShlImm h fd fa n s
  | .shr h fd fa fb => Sys2Proof.Machine.execShr h fd fa fb s
  | .shrImm h fd fa n => Sys2Proof.Machine.execShrImm h fd fa n s
  | .sar h fd fa fb => Sys2Proof.Machine.execSar h fd fa fb s
  | .sarImm h fd fa n => Sys2Proof.Machine.execSarImm h fd fa n s
  | .rot h fd fa fb => Sys2Proof.Machine.execRot h fd fa fb s
  | .rotImm h fd fa n => Sys2Proof.Machine.execRotImm h fd fa n s
  | .clz h fd fa => Sys2Proof.Machine.execClz h fd fa s
  | .popc h fd fa => Sys2Proof.Machine.execPopc h fd fa s
  | .minR h z fd fa fb => Sys2Proof.Machine.execMin h z fd fa fb s
  | .maxR h z fd fa fb => Sys2Proof.Machine.execMax h z fd fa fb s
  | .cmp h z cond cd fa fb => Sys2Proof.Machine.execCmp h z cond cd fa fb s
  | .sel h fd fa fb cn => Sys2Proof.Machine.execSel h fd fa fb cn s
  | .li h fd imm => Sys2Proof.Machine.execLi h fd imm s
  | .lih h fd imm => Sys2Proof.Machine.execLih h fd imm s
  | .mov h fd fa => Sys2Proof.Machine.execMov h fd fa s
  | .ext h z fd fa pos lm => Sys2Proof.Machine.execExt h z fd fa pos lm s
  | .ins h fd fa pos lm => Sys2Proof.Machine.execIns h fd fa pos lm s
  | .fadd h t fd fa fb => Sys2Proof.Machine.execFadd h t fd fa fb s
  | .fsub h t fd fa fb => Sys2Proof.Machine.execFsub h t fd fa fb s
  | .fmul h t fd fa fb => Sys2Proof.Machine.execFmul h t fd fa fb s
  | .ffma h t fd fa fb fc => Sys2Proof.Machine.execFfma h t fd fa fb fc s
  | .fdiv h t fd fa fb => Sys2Proof.Machine.execFdiv h t fd fa fb s
  | .fsqrt h t fd fa => Sys2Proof.Machine.execFsqrt h t fd fa s
  | .fmin h t fd fa fb => Sys2Proof.Machine.execFmin h t fd fa fb s
  | .fmax h t fd fa fb => Sys2Proof.Machine.execFmax h t fd fa fb s
  | .fcmp h t cond cd fa fb => Sys2Proof.Machine.execFcmp h t cond cd fa fb s
  | .fcvt h td ts fd fa => Sys2Proof.Machine.execFcvt h td ts fd fa s
  | .fclass h t fd fa => Sys2Proof.Machine.execFclass h t fd fa s
  | .ld h t sc fd fa off => Sys2Proof.Machine.execLd h t sc fd fa off s
  | .st h t sc fd fa off => Sys2Proof.Machine.execSt h t sc fd fa off s
  | .lda h t sc fd fa off => Sys2Proof.Machine.execLda h t sc fd fa off s
  | .stl h t sc fd fa off => Sys2Proof.Machine.execStl h t sc fd fa off s
  | .lds h t sc fd fa off => Sys2Proof.Machine.execLds h t sc fd fa off s
  | .chkl h t sc fd fa off => Sys2Proof.Machine.execChkl h t sc fd fa off s
  | .pref h tgt fa off => Sys2Proof.Machine.execPref h tgt fa off s
  | .amo h t sc op fd fa fb => Sys2Proof.Machine.execAmo h t sc op fd fa fb s
  | .cas h t sc cn fd fa fb => Sys2Proof.Machine.execCas h t sc cn fd fa fb s
  | .fence h sc mask => Sys2Proof.Machine.execFence h sc mask s
  | .smap h fd fa fb w => Sys2Proof.Machine.execSmap h fd fa fb w s
  | .sflush h sc w inv => Sys2Proof.Machine.execSflush h sc w inv s
  | .cinv h sc fa fb op => Sys2Proof.Machine.execCinv h sc fa fb op s
  | .pbr h bn imm => Sys2Proof.Machine.execPbr h bn imm s
  | .pbrReg h bn fa => Sys2Proof.Machine.execPbrReg h bn fa s
  | .br h bn cn mode n => Sys2Proof.Machine.execBr h bn cn mode n s
  | .brl h bn bl cn mode n => Sys2Proof.Machine.execBrl h bn bl cn mode n s
  | .loop h i1 fa n => Sys2Proof.Machine.execLoop h i1 fa n s
  | .lend h => Sys2Proof.Machine.execLend h s
  | .rdv h mask => Sys2Proof.Machine.execRdv h mask s
  | .wfe h => Sys2Proof.Machine.execWfe h s
  | .sev h fa mask => Sys2Proof.Machine.execSev h fa mask s
  | .pause h n => Sys2Proof.Machine.execPause h n s
  | .nop h => Sys2Proof.Machine.execNop h s
  | .bari h g b fa => Sys2Proof.Machine.execBari h g b fa s
  | .bara h g b => Sys2Proof.Machine.execBara h g b s
  | .barw h g b => Sys2Proof.Machine.execBarw h g b s
  | .spawn h fd fa fb place => Sys2Proof.Machine.execSpawn h fd fa fb place s
  | .spawnPstart h fd fa fb => Sys2Proof.Machine.execSpawnPstart h fd fa fb s
  | .spawnPdrain h fd fa fb => Sys2Proof.Machine.execSpawnPdrain h fd fa fb s
  | .retire h => Sys2Proof.Machine.execRetire h s
  | .slk h n => Sys2Proof.Machine.execSlk h n s
  | .trap h code => Sys2Proof.Machine.execTrap h code s
  | .eret h => Sys2Proof.Machine.execEret h s
  | .csrr h fd csr => Sys2Proof.Machine.execCsrr h fd csr s
  | .csrw h fa csr => Sys2Proof.Machine.execCsrw h fa csr s
  | .csrx h fd fa csr => Sys2Proof.Machine.execCsrx h fd fa csr s
  | .tlbi h kind fd fa fb => Sys2Proof.Machine.execTlbi h kind fd fa fb s
  | .tlbs h => Sys2Proof.Machine.execTlbs h s
  | .ctxsStop h fd fa => Sys2Proof.Machine.execCtxsStop h fd fa s
  | .ctxsCheckpoint h fd fa => Sys2Proof.Machine.execCtxsCheckpoint h fd fa s
  | .ctxl h fd fa => Sys2Proof.Machine.execCtxl h fd fa s
  | .vadd h v fD fA fB => Sys2Proof.Machine.execVadd h v fD fA fB s
  | .vsub h v fD fA fB => Sys2Proof.Machine.execVsub h v fD fA fB s
  | .vmul h v fD fA fB => Sys2Proof.Machine.execVmul h v fD fA fB s
  | .vfma h v fD fA fB => Sys2Proof.Machine.execVfma h v fD fA fB s
  | .vmin h v fD fA fB => Sys2Proof.Machine.execVmin h v fD fA fB s
  | .vmax h v fD fA fB => Sys2Proof.Machine.execVmax h v fD fA fB s
  | .vabs h v fD fA => Sys2Proof.Machine.execVabs h v fD fA s
  | .vneg h v fD fA => Sys2Proof.Machine.execVneg h v fD fA s
  | .vexp2 h v fD fA => Sys2Proof.Machine.execVexp2 h v fD fA s
  | .vlog2 h v fD fA => Sys2Proof.Machine.execVlog2 h v fD fA s
  | .vrcp h v fD fA => Sys2Proof.Machine.execVrcp h v fD fA s
  | .vrsq h v fD fA => Sys2Proof.Machine.execVrsq h v fD fA s
  | .vtbi h v fD fA fB => Sys2Proof.Machine.execVtbi h v fD fA fB s
  | .vcmp h v cond kd fA fB => Sys2Proof.Machine.execVcmp h v cond kd fA fB s
  | .vsel h v fD fA fB => Sys2Proof.Machine.execVsel h v fD fA fB s
  | .viadd h v fD fA fB => Sys2Proof.Machine.execViadd h v fD fA fB s
  | .visub h v fD fA fB => Sys2Proof.Machine.execVisub h v fD fA fB s
  | .vimul h v fD fA fB => Sys2Proof.Machine.execVimul h v fD fA fB s
  | .vand h v fD fA fB => Sys2Proof.Machine.execVand h v fD fA fB s
  | .vor h v fD fA fB => Sys2Proof.Machine.execVor h v fD fA fB s
  | .vxor h v fD fA fB => Sys2Proof.Machine.execVxor h v fD fA fB s
  | .vshl h v fD fA fB => Sys2Proof.Machine.execVshl h v fD fA fB s
  | .vshr h v fD fA fB => Sys2Proof.Machine.execVshr h v fD fA fB s
  | .vred h v op fD fA => Sys2Proof.Machine.execVred h v op fD fA s
  | .vscan h v op x fD fA => Sys2Proof.Machine.execVscan h v op x fD fA s
  | .vany h v cd ka => Sys2Proof.Machine.execVany h v cd ka s
  | .vall h v cd ka => Sys2Proof.Machine.execVall h v cd ka s
  | .vpopc h v ad ka => Sys2Proof.Machine.execVpopc h v ad ka s
  | .vkop h t op kd ka kb => Sys2Proof.Machine.execVkop h t op kd ka kb s
  | .vld h v sc fD aN off => Sys2Proof.Machine.execVld h v sc fD aN off s
  | .vst h v sc fA aN off => Sys2Proof.Machine.execVst h v sc fA aN off s
  | .vldx h v sc fD aN fI => Sys2Proof.Machine.execVldx h v sc fD aN fI s
  | .vstx h v sc fA aN fI => Sys2Proof.Machine.execVstx h v sc fA aN fI s
  | .vmov h v fD fA => Sys2Proof.Machine.execVmov h v fD fA s
  | .vbcast h v fD fA lane => Sys2Proof.Machine.execVbcast h v fD fA lane s
  | .vbcastAreg h v fD aN => Sys2Proof.Machine.execVbcastAreg h v fD aN s
  | .viota h v fD start => Sys2Proof.Machine.execViota h v fD start s
  | .vperm h v fD fA fB => Sys2Proof.Machine.execVperm h v fD fA fB s
  | .vcmpr h v fD fA ce aC => Sys2Proof.Machine.execVcmpr h v fD fA ce aC s
  | .vxpnd h v fD fA => Sys2Proof.Machine.execVxpnd h v fD fA s
  | .vhist h v fD fA pos => Sys2Proof.Machine.execVhist h v fD fA pos s
  | .vradix h v fD fA inv desc => Sys2Proof.Machine.execVradix h v fD fA inv desc s
  | .vpack h t sr fmt fD fA fS => Sys2Proof.Machine.execVpack h t sr fmt fD fA fS s
  | .vunpk h t fmt fD fA fS => Sys2Proof.Machine.execVunpk h t fmt fD fA fS s
  | .vscale h fmt thr fD fS => Sys2Proof.Machine.execVscale h fmt thr fD fS s
  | .vcvt h sr p ts td me k fD fA => Sys2Proof.Machine.execVcvt h sr p ts td me k fD fA s
  | .vamo h v sc op fD aN fI => Sys2Proof.Machine.execVamo h v sc op fD aN fI s
  | .nest h wclass opc bd ba bb e m ext sD sA sB => Sys2Proof.Machine.execNest h wclass opc bd ba bb e m ext sD sA sB s
  | .orient2 h v sos tnf fD fA => Sys2Proof.Machine.execOrient2 h v sos tnf fD fA s
  | .orient3 h v sos tnf fD fA => Sys2Proof.Machine.execOrient3 h v sos tnf fD fA s
  | .incirc h v sos tnf fD fA => Sys2Proof.Machine.execIncirc h v sos tnf fD fA s
  | .insph h v sos tnf fD fA => Sys2Proof.Machine.execInsph h v sos tnf fD fA s
  | .segx h v sos tnf fD fA => Sys2Proof.Machine.execSegx h v sos tnf fD fA s
  | .mmt h t fI ws mm => Sys2Proof.Machine.execMmt h t fI ws mm s
  | .mmv h t fI aW mm => Sys2Proof.Machine.execMmv h t fI aW mm s
  | .mmvHandle h t fI aW mm => Sys2Proof.Machine.execMmvHandle h t fI aW mm s
  | .mldw h half sc aN aL off => Sys2Proof.Machine.execMldw h half sc aN aL off s
  | .mbcw h half c p aN aL off => Sys2Proof.Machine.execMbcw h half c p aN aL off s
  | .mzero h t => Sys2Proof.Machine.execMzero h t s
  | .mdeq h td cs rs acc fD t fC => Sys2Proof.Machine.execMdeq h td cs rs acc fD t fC s
  | .mstat h aD sel t => Sys2Proof.Machine.execMstat h aD sel t s
  | .xcopy h sc sr en fd fa => Sys2Proof.Machine.execXcopy h sc sr en fd fa s
  | .xgath h sc cm1 fD aN fI => Sys2Proof.Machine.execXgath h sc cm1 fD aN fI s
  | .xscat h sc cm1 fA aN fI => Sys2Proof.Machine.execXscat h sc cm1 fA aN fI s
  | .xfill h sc fd fa fb => Sys2Proof.Machine.execXfill h sc fd fa fb s
  | .xdec h sc fd fa fb => Sys2Proof.Machine.execXdec h sc fd fa fb s
  | .xchk h sc cont fd fa fb => Sys2Proof.Machine.execXchk h sc cont fd fa fb s
  | .gate h v q km1 aB fA => Sys2Proof.Machine.execGate h v q km1 aB fA s
  | .eres h fd fa c form => Sys2Proof.Machine.execEres h fd fa c form s
  | .edisp h fd fa fb c => Sys2Proof.Machine.execEdisp h fd fa fb c s
  | .edispClose h fd fa => Sys2Proof.Machine.execEdispClose h fd fa s
  | .epin h fd fa c => Sys2Proof.Machine.execEpin h fd fa c s
  | .eunpin h fd fa c => Sys2Proof.Machine.execEunpin h fd fa c s
  | .efetch h fd fa c tier => Sys2Proof.Machine.execEfetch h fd fa c tier s
  | .eevict h fd fa c tgt => Sys2Proof.Machine.execEevict h fd fa c tgt s
  | .epred h fa c tier => Sys2Proof.Machine.execEpred h fa c tier s
  | .qpush h port fa => Sys2Proof.Machine.execQpush h port fa s
  | .qpushRow h port vR => Sys2Proof.Machine.execQpushRow h port vR s
  | .qpop h port e cd fd => Sys2Proof.Machine.execQpop h port e cd fd s
  | .qpopRow h port e cd vR => Sys2Proof.Machine.execQpopRow h port e cd vR s
  | .qpeek h port cd fd => Sys2Proof.Machine.execQpeek h port cd fd s
  | .qpeekRow h port cd vR => Sys2Proof.Machine.execQpeekRow h port cd vR s
  | .qstat h port fd => Sys2Proof.Machine.execQstat h port fd s
  | .qbind h port mode fd fa => Sys2Proof.Machine.execQbind h port mode fd fa s
  | .rcpdef h id nm1 fa => Sys2Proof.Machine.execRcpdef h id nm1 fa s
  | .rcpset h id fD => Sys2Proof.Machine.execRcpset h id fD s
  | .rcpclr h cm1 fD => Sys2Proof.Machine.execRcpclr h cm1 fD s
  | .sldc a b f => Sys2Proof.Machine.execSldc a b f s
  | .spen a p path => Sys2Proof.Machine.execSpen a p path s
  | .stemp => Sys2Proof.Machine.execStemp s
  | .stopk => Sys2Proof.Machine.execStopk s
  | .stopp => Sys2Proof.Machine.execStopp s
  | .sminp => Sys2Proof.Machine.execSminp s
  | .ssmax => Sys2Proof.Machine.execSsmax s
  | .srng a n => Sys2Proof.Machine.execSrng a n s
  | .sdraw d => Sys2Proof.Machine.execSdraw d s
  | .smemb a => Sys2Proof.Machine.execSmemb a s
  | .scnt a b depth => Sys2Proof.Machine.execScnt a b depth s
  | .scommit a path => Sys2Proof.Machine.execScommit a path s
  | .sabort => Sys2Proof.Machine.execSabort s
  | .semit a => Sys2Proof.Machine.execSemit a s
  | .smov d a => Sys2Proof.Machine.execSmov d a s
  | .smovImm d n => Sys2Proof.Machine.execSmovImm d n s
  | .smovLoad d a n => Sys2Proof.Machine.execSmovLoad d a n s
  | .sadd d a b => Sys2Proof.Machine.execSadd d a b s
  | .saddImm d a n => Sys2Proof.Machine.execSaddImm d a n s
  | .scmp a b c => Sys2Proof.Machine.execScmp a b c s
  | .sbr v o => Sys2Proof.Machine.execSbr v o s
  | .sjmp o => Sys2Proof.Machine.execSjmp o s
  | .send => Sys2Proof.Machine.execSend s
  | .selfTestDone r => Sys2Proof.Machine.execSelfTestDone r s
  | .getState c => Sys2Proof.Machine.execGetState c s
  | .getIdentity c => Sys2Proof.Machine.execGetIdentity c s
  | .attest c nonce => Sys2Proof.Machine.execAttest c nonce s
  | .readConfig c => Sys2Proof.Machine.execReadConfig c s
  | .mapOut c kind index => Sys2Proof.Machine.execMapOut c kind index s
  | .loadImage c off data => Sys2Proof.Machine.execLoadImage c off data s
  | .runImage c => Sys2Proof.Machine.execRunImage c s
  | .sealOff c => Sys2Proof.Machine.execSealOff c s
  | .readPanel c off cnt => Sys2Proof.Machine.execReadPanel c off cnt s
  | .unknownCommand c opcode => Sys2Proof.Machine.execUnknownCommand c opcode s
  | .panelSample p => Sys2Proof.Machine.execPanelSample p s
  | .queryStepComplete g => Sys2Proof.Machine.execQueryStepComplete g s
  | .slabComplete g => Sys2Proof.Machine.execSlabComplete g s
  | .mbcwSessionDissolve cluster c => Sys2Proof.Machine.execMbcwSessionDissolve cluster c s
  | .weightSwap core g => Sys2Proof.Machine.execWeightSwap core g s
  | .transferStepComplete g => Sys2Proof.Machine.execTransferStepComplete g s
  | .xdecPush g => Sys2Proof.Machine.execXdecPush g s
  | .fetchComplete e readError => Sys2Proof.Machine.execFetchComplete e readError s
  | .evictionDrainStart e => Sys2Proof.Machine.execEvictionDrainStart e s
  | .evictionComplete e => Sys2Proof.Machine.execEvictionComplete e s
  | .recipeReplay g r => Sys2Proof.Machine.execRecipeReplay g r s
  | .serviceEntry core => Sys2Proof.Machine.execServiceEntry core s
  | .ctxCreate n => Sys2Proof.Machine.execCtxCreate n s
  | .ctxStart n => Sys2Proof.Machine.execCtxStart n s
  | .ctxStop n => Sys2Proof.Machine.execCtxStop n s
  | .ctxCheckpoint n => Sys2Proof.Machine.execCtxCheckpoint n s
  | .ctxResume n => Sys2Proof.Machine.execCtxResume n s
  | .ctxKill n => Sys2Proof.Machine.execCtxKill n s
  | .ctxFree n => Sys2Proof.Machine.execCtxFree n s
  | .ctxBadCommand n code => Sys2Proof.Machine.execCtxBadCommand n code s
  | .ctxSaveComplete n => Sys2Proof.Machine.execCtxSaveComplete n s
  | .faultQueueHeadWrite n head => Sys2Proof.Machine.execFaultQueueHeadWrite n head s
  | .queOpen n => Sys2Proof.Machine.execQueOpen n s
  | .queClose n => Sys2Proof.Machine.execQueClose n s
  | .queFree n => Sys2Proof.Machine.execQueFree n s
  | .queBadCommand n code => Sys2Proof.Machine.execQueBadCommand n code s
  | .queDropRead n => Sys2Proof.Machine.execQueDropRead n s
  | .groupPlacement g core => Sys2Proof.Machine.execGroupPlacement g core s
  | .breakpointFire n b => Sys2Proof.Machine.execBreakpointFire n b s
  | .dbgStop n g => Sys2Proof.Machine.execDbgStop n g s
  | .dbgStopat n g => Sys2Proof.Machine.execDbgStopat n g s
  | .dbgRelease n g => Sys2Proof.Machine.execDbgRelease n g s
  | .xkeyWrite n k w v => Sys2Proof.Machine.execXkeyWrite n k w v s
  | .xkstWrite n k v => Sys2Proof.Machine.execXkstWrite n k v s
  | .modelValidWrite m v => Sys2Proof.Machine.execModelValidWrite m v s
  | .modelUnloadComplete m => Sys2Proof.Machine.execModelUnloadComplete m s
  | .tlbCommand v => Sys2Proof.Machine.execTlbCommand v s
  | .ccgPlace tcc ctx => Sys2Proof.Machine.execCcgPlace tcc ctx s
  | .ccgBadCommand tcc ctx code => Sys2Proof.Machine.execCcgBadCommand tcc ctx code s
  | .siteFreeze c i1 => Sys2Proof.Machine.execSiteFreeze c i1 s
  | .siteClear c i1 => Sys2Proof.Machine.execSiteClear c i1 s
  | .errthrWrite c v => Sys2Proof.Machine.execErrthrWrite c v s
  | .correctedSoftError site => Sys2Proof.Machine.execCorrectedSoftError site s
  | .uncorrectableSoftError site e => Sys2Proof.Machine.execUncorrectableSoftError site e s
  | .checkerError core => Sys2Proof.Machine.execCheckerError core s
  | .issueStallLimit core eng => Sys2Proof.Machine.execIssueStallLimit core eng s
  | .migrationComplete site => Sys2Proof.Machine.execMigrationComplete site s
  | .controlCoreSelfTest tcc pass => Sys2Proof.Machine.execControlCoreSelfTest tcc pass s
  | .pwrQuiesce c own => Sys2Proof.Machine.execPwrQuiesce c own s
  | .pwrSave c own => Sys2Proof.Machine.execPwrSave c own s
  | .pwrClkoff c own => Sys2Proof.Machine.execPwrClkoff c own s
  | .pwrRailoff c own => Sys2Proof.Machine.execPwrRailoff c own s
  | .pwrAbort c own => Sys2Proof.Machine.execPwrAbort c own s
  | .pwrBadCommand c own code => Sys2Proof.Machine.execPwrBadCommand c own code s
  | .pwrWake c own => Sys2Proof.Machine.execPwrWake c own s
  | .clusterQuiesced c => Sys2Proof.Machine.execClusterQuiesced c s
  | .clusterSaveDone c => Sys2Proof.Machine.execClusterSaveDone c s
  | .clusterWakeDone c failed => Sys2Proof.Machine.execClusterWakeDone c failed s
  | .lnkTrain p => Sys2Proof.Machine.execLnkTrain p s
  | .lnkFence p => Sys2Proof.Machine.execLnkFence p s
  | .trainingDone p rate width flit68 => Sys2Proof.Machine.execTrainingDone p rate width flit68 s
  | .trainingTimeout p => Sys2Proof.Machine.execTrainingTimeout p s
  | .linkRecoveryEntry p => Sys2Proof.Machine.execLinkRecoveryEntry p s
  | .recoveryDone p rate width => Sys2Proof.Machine.execRecoveryDone p rate width s
  | .recoveryTimeout p => Sys2Proof.Machine.execRecoveryTimeout p s
  | .uncorrectableFlitError p => Sys2Proof.Machine.execUncorrectableFlitError p s
  | .ideIntegrityFailure p => Sys2Proof.Machine.execIdeIntegrityFailure p s
  | .surpriseDown p => Sys2Proof.Machine.execSurpriseDown p s
  | .fenceComplete p => Sys2Proof.Machine.execFenceComplete p s
  | .hostLakeAccess q => Sys2Proof.Machine.execHostLakeAccess q s
  | .peerLakeAccess p q => Sys2Proof.Machine.execPeerLakeAccess p q s
  | .stashRemoteAccess g line write => Sys2Proof.Machine.execStashRemoteAccess g line write s
  | .smpUcfgWrite j v => Sys2Proof.Machine.execSmpUcfgWrite j v s
  | .smpScfgWrite j q v => Sys2Proof.Machine.execSmpScfgWrite j q v s
  | .smpDropRead j => Sys2Proof.Machine.execSmpDropRead j s
  | .stepRequest j => Sys2Proof.Machine.execStepRequest j s
  | .stepResultPush j => Sys2Proof.Machine.execStepResultPush j s
  | .obsCntReadClear site i1 => Sys2Proof.Machine.execObsCntReadClear site i1 s
  | .obsCntWrite site i1 v => Sys2Proof.Machine.execObsCntWrite site i1 v s
  | .obsOvfClear site v => Sys2Proof.Machine.execObsOvfClear site v s
  | .registerWrite off size v => Sys2Proof.Machine.execRegisterWrite off size v s
  | .decodeFault cause word addr => Sys2Proof.Machine.execDecodeFault cause word addr s
  | .fetchFault cause addr => Sys2Proof.Machine.execFetchFault cause addr s
  | .linkResponse p r => Sys2Proof.Machine.execLinkResponse p r s
  | .ideKm p key => Sys2Proof.Machine.execIdeKm p key s
  | .allRailsGood => Sys2Proof.Machine.execAllRailsGood s
  | .configRecordSelected => Sys2Proof.Machine.execConfigRecordSelected s
  | .identityDerived => Sys2Proof.Machine.execIdentityDerived s
  | .powerRemoved => Sys2Proof.Machine.execPowerRemoved s
  | .thermalTrip => Sys2Proof.Machine.execThermalTrip s
  | .railFault => Sys2Proof.Machine.execRailFault s
  | .recordRewrite => Sys2Proof.Machine.execRecordRewrite s
  | .stageEpoch => Sys2Proof.Machine.execStageEpoch s
  | .perstRelease => Sys2Proof.Machine.execPerstRelease s

end Sys2Proof.Machine
end

