-- ==== Sys2Proof/Machine/Uses.lean ====
section
/-!
DEFINITION. What the words of an issue group read, write and name (spec/02_word.md R23 to R25), and the checks on a group.
Registers are numbered: s and a by their number, c from 1000, b from 2000, k from 3000, CSRs from 4000, rows from 10000.
-/

namespace Sys2Proof.Machine
open Word

/-- The registers that an instruction reads and writes, and the ports it names (R24, R25). -/
structure Uses where
  reads : List Nat := []
  writes : List Nat := []
  ports : List Nat := []
  deriving DecidableEq, Repr

/-- Scalar or address register `n` of an engine; s0 is never part of a dependence (R24). -/
def useReg (e : Engine) (n : Nat) : List Nat := if e = .S && n = 0 then [] else [n]

def useC (n : Nat) : List Nat := [1000 + n]
def useB (n : Nat) : List Nat := [2000 + n]
def useK (n : Nat) : List Nat := [3000 + n]
def useCsr (n : Nat) : List Nat := [4000 + n]

/-- COR_XVAL, which the conversions of FP4 read (R70, R140, R141). -/
def useXval (fmt : Nat) : List Nat := if fmt = 3 then useCsr 0x024 else []

/-- COR_SRKEY, which a .sr conversion reads, and COR_SRCTRV, which it reads and increases (R81, R140, R143). -/
def useKey (sr : Bool) : List Nat := if sr then useCsr 0x025 else []
def useCtr (sr : Bool) : List Nat := if sr then useCsr 0x026 else []

/-- A row specifier; a port or a constant row is no row. -/
def useRow (s : Nat) : List Nat := if s < 0x800 then [10000 + s] else []

/-- A specifier that names a port. -/
def usePort (s : Nat) : List Nat := if 0x800 ≤ s && s < 0x900 then [s - 0x800] else []

/-- The mask register that governs a vector instruction. -/
def useMask (v : VField) : List Nat := if v.me then useK v.k else []

/-- `n` rows from a specifier. -/
def useRows (s n : Nat) : List Nat := (List.range n).flatMap (fun i => useRow (s + i))

/-- A vector instruction: its destination and its sources. -/
def useVec (v : VField) (d : Nat) (ss : List Nat) : Uses :=
  { reads := useMask v ++ ss.flatMap useRow, writes := useRow d, ports := (d :: ss).flatMap usePort }

/-- A query: coordinate and index rows, and two result rows (R330, R331). -/
def useQuery (q : QKind) (v : VField) (sos : Bool) (d a : Nat) : Uses :=
  { reads := useMask v ++ useRows a (q.coords + (if sos then q.pts else 0)), writes := useRows d 2,
    ports := usePort d ++ usePort a }

/-- A scalar instruction: registers written and read. -/
def useS (e : Engine) (ds ss : List Nat) : Uses := { reads := ss.flatMap (useReg e), writes := ds.flatMap (useReg e) }

/-- What an instruction of a stream of an engine reads and writes. -/
def usesOf (e : Engine) (i : Instr) : Uses :=
  match i with
  | .add _ d a b | .sub _ d a b | .mul _ d a b | .mulh _ _ d a b | .div _ _ d a b | .rem _ _ d a b | .andR _ d a b
  | .orR _ d a b | .xorR _ d a b | .andnR _ d a b | .shl _ d a b | .shr _ d a b | .sar _ d a b | .rot _ d a b
  | .minR _ _ d a b | .maxR _ _ d a b | .fadd _ _ d a b | .fsub _ _ d a b | .fmul _ _ d a b | .fdiv _ _ d a b
  | .fmin _ _ d a b | .fmax _ _ d a b | .smap _ d a b _ | .spawn _ d a b _ | .spawnPstart _ d a b | .spawnPdrain _ d a b
  | .edisp _ d a b _ => useS e [d] [a, b]
  | .addi _ d a _ | .shlImm _ d a _ | .shrImm _ d a _ | .sarImm _ d a _ | .rotImm _ d a _ | .clz _ d a | .popc _ d a
  | .mov _ d a | .ext _ _ d a _ _ | .fsqrt _ _ d a | .fcvt _ _ _ d a | .fclass _ _ d a | .ld _ _ _ d a _
  | .lda _ _ _ d a _ | .lds _ _ _ d a _ | .chkl _ _ _ d a _ | .ctxsStop _ d a | .ctxsCheckpoint _ d a | .ctxl _ d a
  | .eres _ d a _ _ | .edispClose _ d a | .epin _ d a _ | .eunpin _ d a _ | .efetch _ d a _ _ | .eevict _ d a _ _ =>
    useS e [d] [a]
  | .ins _ d a _ _ => useS e [d] [d, a]
  | .lih _ d _ => useS e [d] [d]
  | .li _ d _ => useS e [d] []
  | .cmp _ _ _ c a b | .fcmp _ _ _ c a b => { reads := useReg e a ++ useReg e b, writes := useC c }
  | .sel _ d a b c => { reads := useReg e a ++ useReg e b ++ useC c, writes := useReg e d }
  | .ffma _ _ d a b c => useS e [d] [a, b, c]
  | .st _ _ _ d a _ | .stl _ _ _ d a _ => useS e [] [d, a]
  | .pref _ _ a _ | .epred _ a _ _ | .sev _ a _ | .bari _ _ _ a => useS e [] [a]
  | .amo _ _ _ _ d a b => useS e [d] [a, b]
  | .cas _ _ _ c d a b => { reads := [d, a, b].flatMap (useReg e), writes := useReg e d ++ useC c }
  | .fence .. | .sflush .. => {}
  | .cinv _ _ a b _ => useS e [] [a, b]
  | .pbr _ b _ => { writes := useB b }
  | .pbrReg _ b a => { reads := useReg e a, writes := useB b }
  | .br _ b c mode _ => { reads := useB b ++ (if mode = 0 then [] else useC c) }
  | .brl _ b l c mode _ => { reads := useB b ++ (if mode = 0 then [] else useC c), writes := useB l }
  | .loop _ i a _ => { reads := if i then useReg e a else [] }
  | .csrr _ d c => { reads := useCsr c, writes := useReg e d ++ useCsr c }
  | .csrw _ a c => { reads := useReg e a ++ useCsr c, writes := useCsr c }
  | .csrx _ d a c => { reads := useReg e a ++ useCsr c, writes := useReg e d ++ useCsr c }
  | .tlbi _ kind d a b =>
    useS e [] ((if kind = 0 || kind = 1 then [d] else []) ++ (if kind = 0 || kind = 2 then [a, b] else []))
  | .vadd _ v d a b | .vsub _ v d a b | .vmul _ v d a b | .vmin _ v d a b | .vmax _ v d a b | .vtbi _ v d a b
  | .vsel _ v d a b | .viadd _ v d a b | .visub _ v d a b | .vimul _ v d a b | .vand _ v d a b | .vor _ v d a b
  | .vxor _ v d a b | .vshl _ v d a b | .vshr _ v d a b | .vperm _ v d a b => useVec v d [a, b]
  | .vfma _ v d a b => { useVec v d [a, b] with reads := useMask v ++ [d, a, b].flatMap useRow }
  | .vabs _ v d a | .vneg _ v d a | .vexp2 _ v d a | .vlog2 _ v d a | .vrcp _ v d a | .vrsq _ v d a | .vred _ v _ d a
  | .vscan _ v _ _ d a | .vmov _ v d a | .vbcast _ v d a _ | .vxpnd _ v d a | .vradix _ v d a _ _ => useVec v d [a]
  | .vcmp _ v _ k a b => { useVec v 0xA00 [a, b] with writes := useK k }
  | .vany _ v c k | .vall _ v c k => { reads := useMask v ++ useK k, writes := useC c }
  | .vpopc _ v d k => { reads := useMask v ++ useK k, writes := useReg e d }
  | .vkop _ _ op d a b => { reads := (if op < 6 then useK a else []) ++ (if op < 4 then useK b else []), writes := useK d }
  | .vld _ v _ d a _ | .vbcastAreg _ v d a => { useVec v d [] with reads := useMask v ++ useReg e a }
  | .vst _ v _ s a _ => { reads := useMask v ++ useReg e a ++ useRow s, ports := usePort s }
  | .vldx _ v _ d a x => { useVec v d [x] with reads := useMask v ++ useReg e a ++ useRow x }
  | .vstx _ v _ s a x => { reads := useMask v ++ useReg e a ++ useRow s ++ useRow x, ports := usePort s ++ usePort x }
  | .viota _ v d _ => useVec v d []
  | .vcmpr _ v d a ce c => { useVec v d [a] with writes := useRow d ++ (if ce then useReg e c else []) }
  | .vhist _ v d a _ => { useVec v d [a] with reads := useMask v ++ useRow d ++ useRow a }
  | .vpack _ _ sr fmt d a s =>
    { reads := useRow a ++ useXval fmt ++ useKey sr, writes := useRow d ++ useRow s ++ useCtr sr, ports := usePort d ++ usePort a }
  | .vunpk _ _ fmt d a s => { reads := useRow a ++ useRow s ++ useXval fmt, writes := useRow d, ports := [d, a, s].flatMap usePort }
  | .vscale _ _ _ d s => { reads := useRow s, writes := useRow d, ports := usePort d ++ usePort s }
  | .vcvt _ sr _ _ _ me k d a =>
    let u := useVec ⟨0, me, k⟩ d [a]
    { u with reads := u.reads ++ useKey sr, writes := u.writes ++ useCtr sr }
  | .vamo _ v _ _ d a x => { useVec v d [x] with reads := useMask v ++ useReg e a ++ useRow d ++ useRow x }
  | .orient2 _ v sos _ d a => useQuery qOrient2 v sos d a
  | .orient3 _ v sos _ d a => useQuery qOrient3 v sos d a
  | .incirc _ v sos _ d a => useQuery qIncirc v sos d a
  | .insph _ v sos _ d a => useQuery qInsph v sos d a
  | .segx _ v sos _ d a => useQuery qSegx v sos d a
  | .mstat _ d _ _ => useS e [d] []
  | .xcopy _ _ _ _ d a => useS e [d] [d, a]
  | .xgath _ _ _ _ a _ | .xscat _ _ _ _ a _ => useS e [] [a]
  | .xfill _ _ d a b | .xdec _ _ d a b => useS e [] [d, a, b]
  | .xchk _ _ cont d a b => useS e [d] ((if cont then [d] else []) ++ [a, b])
  | .gate _ v q _ b a => { reads := useMask v ++ useReg e b ++ useRow a, ports := usePort a ++ [q] }
  | .qpush _ p a => { reads := useReg e a, ports := [p] }
  | .qpushRow _ p r => { reads := useRow r, ports := [p] }
  | .qpop _ p ef c d => { writes := useReg e d ++ (if ef then useC c else []), ports := [p] }
  | .qpopRow _ p ef c r => { writes := useRow r ++ (if ef then useC c else []), ports := [p] }
  | .qpeek _ p c d => { writes := useReg e d ++ useC c, ports := [p] }
  | .qpeekRow _ p c r => { writes := useRow r ++ useC c, ports := [p] }
  | .qstat _ p d => { writes := useReg e d, ports := [p] }
  | .qbind _ p m d a => { reads := if m = 0 then [] else useReg e a, writes := useReg e d, ports := [p] }
  | .rcpdef _ _ _ a => useS e [] [a]
  | .rcpset _ _ d => { writes := useRow d, ports := usePort d }
  | .rcpclr _ _ d => { ports := usePort d }
  | _ => {}

/-- Whether an instruction is of class 0x3 (R23). -/
def isControl : Instr → Bool
  | .pbr .. | .pbrReg .. | .br .. | .brl .. | .loop .. | .lend .. | .rdv .. | .wfe .. | .sev .. | .pause .. | .nop ..
  | .bari .. | .bara .. | .barw .. | .spawn .. | .spawnPstart .. | .spawnPdrain .. | .retire .. | .slk .. => true
  | _ => false

/-- Instructions that stand alone in their issue group (R206, R207, R209). -/
def isAlone : Instr → Bool
  | .trap .. | .eret .. | .ctxsStop .. | .ctxsCheckpoint .. | .ctxl .. => true
  | _ => false

/-- A word of an issue group as it was read: its address, its bits and its instruction. -/
structure GroupWord where
  at_ : Word
  word : Nat
  ins : Instr
  deriving DecidableEq, Repr

/-- The instructions that an issue group of an engine may hold (R23). -/
def groupLimit : Engine → Nat
  | .S => 4
  | .V => 2
  | _ => 1

/-- The class of a word. -/
def classOf (w : Nat) : Nat := fld w 59 4

/-- The first position from 1 on at which a check of a word against the words before it fails. -/
def firstLater (p : List GroupWord → GroupWord → Bool) (gs : List GroupWord) : Option GroupWord :=
  ((List.range gs.length).find? (fun i => match gs[i]? with
    | some g => p (gs.take i) g
    | none => false)).bind (fun i => gs[i]?)

/-- The limits of R23 but for the number of words: one class-0x3 word, one word of each V slot, the words that stand alone. -/
def slotFault (e : Engine) (gs : List GroupWord) : Option GroupWord :=
  let compute (g : GroupWord) : Bool := [5, 7, 0xA, 0xC].contains (classOf g.word)
  let data (g : GroupWord) : Bool := [6, 0xB].contains (classOf g.word)
  firstLater (fun before g =>
    (isControl g.ins && before.any (fun b => isControl b.ins))
      || (e == .V && ((compute g && before.any compute) || (data g && before.any data)))
      || (!before.isEmpty && (isAlone g.ins || before.any (fun b => isAlone b.ins)))) gs

/-- A true dependence or a double write of R24. -/
def dependFault (e : Engine) (gs : List GroupWord) : Option GroupWord :=
  firstLater (fun before g =>
    let w := before.flatMap (fun b => (usesOf e b.ins).writes)
    let u := usesOf e g.ins
    u.reads.any w.contains || u.writes.any w.contains) gs

/-- Two words that name one port (R25). -/
def portFault (e : Engine) (gs : List GroupWord) : Option GroupWord :=
  firstLater (fun before g => (usesOf e g.ins).ports.any (before.flatMap (fun b => (usesOf e b.ins).ports)).contains) gs

/-- The group-level checks of R36 in the order of their rules: the word that completes the first violation (R37). -/
def groupFaultWord (e : Engine) (gs : List GroupWord) : Option GroupWord :=
  (slotFault e gs).orElse (fun _ => (dependFault e gs).orElse (fun _ => portFault e gs))

end Sys2Proof.Machine
end

