-- ==== Sys2Proof/Machine/Issue.lean ====
section
/-!
DEFINITION. The issue of one group of a stream (spec/02_word.md R21 to R27, R34 to R37, spec/12_group.md R238, R244 to R248): fetch,
decoding, the checks of a group, what holds it, its words, and where the stream goes on.
-/

namespace Sys2Proof.Machine
open Word

/-- An issue group as it was read: its words so far, the device with the fetches made, and what stopped the reading. -/
structure GroupRead where
  words : List GroupWord
  dev : Dev
  stop : Option Stop

/-- A check of decoding that fails (R36, R37): the cause, the failing word's address and its bits. -/
def decodeStop (cause : Nat) (pc : Word) (w : Nat) : Stop := .trap { cause := cause, addr := pc, word := some w }

/-- A fetch that fails (R37): the word of the record is 0. -/
def fetchStop : Stop → Stop
  | .trap t => .trap { t with word := some 0 }
  | .wait w => .wait w

namespace Dev

/-- Whether a stream fetches no words: a V, M or X stream of a core in service mode (R201); a fetch that waits already goes on. -/
def fetchBarred (d : Dev) : Bool := !d.cur.svc && d.cur.eng != .S && (d.core d.cur.core).service && (d.waitsOf d.me).isEmpty

/-- One instruction word (R21): of the decoded queue, where it has entered it, else 8 bytes with the fetch right, as they stand (R113),
which then enter it; from there on the fetch holds no translation (R321). -/
def fetchWord (d : Dev) (pc : Word) : Res (Nat × Dev) :=
  match d.stm.decoded.find? (fun e => e.1 == pc) with
  | some e => .ok (e.2, d)
  | none =>
    if d.fetchBarred then waitFor .busy
    else do
      let (pa, d1) ← d.access pc.toNat 8 8 .fetch pc.toNat
      let w := d1.ld pa 8
      let d2 := ({ d1 with cur := { d1.cur with took := d.cur.took } }).endWaits d.me
      pure (w, d2.setStm { d2.stm with decoded := d2.stm.decoded ++ [(pc, w)] })

/-- The words of a group from an address on, at most `n`, each fetched and then decoded (R23, R36). A NEST form that is not the
first word breaks R23. -/
def readWordsFrom (d : Dev) (e : Engine) (decl : Nat) (pc : Word) : Nat → GroupRead
  | 0 => ⟨[], d, none⟩
  | n + 1 =>
    match d.fetchWord pc with
    | .error st => ⟨[], d, some (fetchStop st)⟩
    | .ok (w, d) =>
      if e == .V && isNest w then ⟨[], d, some (decodeStop 2 pc w)⟩
      else
        match decodeWord e decl w with
        | .error c => ⟨[], d, some (decodeStop c pc w)⟩
        | .ok i =>
          if flag w 63 || n = 0 then ⟨[⟨pc, w, i⟩], d, none⟩
          else
            let r := readWordsFrom d e decl (pc + 8) n
            { r with words := ⟨pc, w, i⟩ :: r.words }

/-- `n` words from an address on, as far as they can be fetched, and what stops the fetch. -/
def fetchWords (d : Dev) (pc : Word) : Nat → List Nat × Dev × Option Stop
  | 0 => ([], d, none)
  | n + 1 =>
    match d.fetchWord pc with
    | .error st => ([], d, some st)
    | .ok (w, d) =>
      let r := fetchWords d (pc + 8) n
      (w :: r.1, r.2)

/-- The four words of a NEST form (R32, R33, R34). All four are fetched before any is checked, so that a failed fetch of an extension
word comes before an illegal encoding of the prefix (DESIGN CHOICE, log 75); it is reported at the prefix (R34). -/
def readNest (d : Dev) (e : Engine) (decl : Nat) (pc : Word) (w0 : Nat) : GroupRead :=
  match d.fetchWords (pc + 8) 3 with
  | (_, d, some (.trap t)) => ⟨[], d, some (.trap { t with word := some 0, pc := some pc, resume := some pc })⟩
  | (_, d, some st) => ⟨[], d, some st⟩
  | (ws, d, none) =>
    match decodeNest e decl w0 (ws.getD 0 0) (ws.getD 1 0) (ws.getD 2 0) with
    | .error c => ⟨[], d, some (decodeStop c pc w0)⟩
    | .ok i => ⟨[⟨pc, w0, i⟩], d, none⟩

/-- The group-level checks of R36 on the words of a group: slots, the limit, dependences, ports. -/
def groupCheck (e : Engine) (gs : List GroupWord) : Option Stop :=
  let bad (g : GroupWord) : Stop := decodeStop 2 g.at_ g.word
  let long := (gs.getLast?).filter (fun g => !flag g.word 63)
  match slotFault e gs, long, dependFault e gs, portFault e gs with
  | some g, _, _, _ => some (bad g)
  | none, some g, _, _ => some (bad g)
  | none, none, some g, _ => some (bad g)
  | none, none, none, some g => some (bad g)
  | none, none, none, none => none

/-- The issue group at an address, with every check of decoding made (R23, R36). -/
def readGroup (d : Dev) (e : Engine) (decl : Nat) (pc : Word) : GroupRead :=
  let r :=
    match d.fetchWord pc with
    | .ok (w, d1) => if e == .V && isNest w then d1.readNest e decl pc w else d1.readWordsFrom e decl pc (groupLimit e)
    | .error _ => d.readWordsFrom e decl pc (groupLimit e)
  if r.stop.isSome then r else { r with stop := groupCheck e r.words }

/-- The address after a group: a NEST form takes four words (R34). -/
def afterWords (pc : Word) (gs : List GroupWord) : Word :=
  if gs.any (fun g => isNest g.word) then pc + 32 else pc + BitVec.ofNat 64 (8 * gs.length)

/-- The end of the issue group at an address, read without any other effect. -/
def groupEnd (d : Dev) (e : Engine) (pc : Word) : Nat → Option Word
  | 0 => none
  | n + 1 =>
    match d.fetchWord pc with
    | .error _ => none
    | .ok (w, _) =>
      if e == .V && isNest w then some (pc + 32) else if flag w 63 then some (pc + 8) else groupEnd d e (pc + 8) n

/-- The link of a BRL (R244): the address after the second delay group, and whether it could be read. Where the delay groups cannot
be read at the issue, the register takes that address when the second of them has issued; until then it holds some address
(log 16). -/
def linkAfter (d : Dev) (e : Engine) (next : Word) : Word × Bool × Dev :=
  match (d.groupEnd e next (groupLimit e)).bind (fun p => d.groupEnd e p (groupLimit e)) with
  | some p => (asTarget p, true, d)
  | none => (asTarget d.free.1, false, d.free.2)

/-- The streams that the stream's group declares, as a mask; service code is an S stream alone. -/
def declared (d : Dev) : Nat :=
  if d.cur.svc then 1 else (engines.map (fun e => bit (d.grp.stream e).declared * 2 ^ e.num)).foldl (· + ·) 0

/-! ### What holds a group -/

/-- Whether a group names a register that an operation of its own stream has still to write (R50, R340). -/
def interlocked (d : Dev) (e : Engine) (gs : List GroupWord) : Bool :=
  match d.stm.op with
  | none => false
  | some o =>
    let w := (usesOf e o.ins).writes
    gs.any (fun g =>
      let u := usesOf e g.ins
      u.reads.any w.contains || u.writes.any w.contains)

/-- The device with `cur` at a word of the group. -/
def atWord (d : Dev) (g : GroupWord) : Dev := { d with cur := { d.cur with pc := g.at_, word := g.word } }

/-- The FIFOs that a group consumes from, and how many tokens of each (R26). -/
def groupNeeds (d : Dev) (e : Engine) (gs : List GroupWord) : List (Nat × Nat) :=
  let hs := (gs.filterMap (fun g => g.ins.hdr?)).filter (fun h => !d.suppressed h)
  ((List.range 3).map (fun j => (fifoFrom e j, (hs.filter (fun h => flag h.cm j)).length))).filter (fun f => f.2 != 0)

/-- The first word of a group that lacks a token or a place for one, when the words take theirs in order (R26, R261). -/
def tokenLack (d : Dev) : List GroupWord → Option GroupWord
  | [] => none
  | g :: gs =>
    match g.ins.hdr? with
    | none => tokenLack d gs
    | some h =>
      if d.suppressed h then tokenLack d gs
      else
        match d.tokensReady h with
        | .error (.wait _) => some g
        | .error (.trap _) => none
        | .ok _ => tokenLack ((d.takeTokens h.cm).reserveToken h.pt) gs

/-! ### After a group -/

/-- The depth that stands for the end of a skip: its LEND has been met. -/
def skipEnd : Nat := 2 ^ 64

/-- The depth of a skip after words of a skipped group (R248). -/
def skipDepth (n : Nat) (gs : List GroupWord) : Nat :=
  gs.foldl (fun n g =>
    match g.ins with
    | .loop .. => if n = skipEnd then n else n + 1
    | .lend .. => if n = 0 then skipEnd else if n = skipEnd then n else n - 1
    | _ => n) n


/-- Whether the stream that `cur` names is still there. -/
def present (d : Dev) : Bool := d.cur.svc || (Map.find d.groups d.cur.key).isSome

/-- A stream of a core by its slot and engine. -/
def streamNum (slot : Nat) (e : Engine) : Nat := 4 * slot + e.num

/-- The credits that a stream receives in each round of its engine: one more than its priority (R238; how they choose is log 91). -/
def creditsPer (d : Dev) (key : Nat) : Nat := (d.ctx (ctxOf key)).prio + 1

/-- The credits that are left to a resident stream in the round of its engine (R238). -/
def creditsLeft (d : Dev) (core slot : Nat) (e : Engine) : Nat :=
  let c := d.core core
  match Map.find c.credits (streamNum slot e) with
  | some n => n
  | none => d.creditsPer (Map.get 0 c.slots slot)

/-- Whether a stream has been ready for 64 cycles without issuing (R238). -/
def overdue (d : Dev) (core slot : Nat) (e : Engine) : Bool :=
  match Map.find (d.core core).readySince (streamNum slot e) with
  | some t => t + 63 ≤ d.time
  | none => false

/-- An issue of the stream that `cur` names spends a credit (R238). One that has none left issues where no ready stream has any, which
ends the round, or because it is overdue. -/
def spendCredit (d : Dev) : Dev :=
  let n := d.cur.core
  let c := d.core n
  let x := streamNum d.grp.slot d.cur.eng
  let left := d.creditsLeft n d.grp.slot d.cur.eng
  let cs :=
    if 0 < left then Map.set c.credits x (left - 1)
    else if d.overdue n d.grp.slot d.cur.eng then c.credits
    else Map.set (c.credits.filter (fun y => y.1 % 4 != d.cur.eng.num)) x (d.creditsPer d.cur.key - 1)
  d.setCore n { c with credits := cs, readySince := Map.del c.readySince x }

/-- An engine issues a group (R238, R258, R389, R394): the engine's cycle, its counter, a credit of the stream, and the end of an
exemption of it. -/
def noteIssue (d : Dev) : Dev :=
  let e := d.cur.eng
  let c := d.core d.cur.core
  let d := d.setCore d.cur.core { c with engAt := Map.set c.engAt e.num (d.time + 1) }
  if d.cur.svc then d
  else
    let d := (if Map.find c.slots d.grp.slot = some d.cur.key then d.spendCredit else d).count (1 + e.num)
    if d.present then d.setGrp { d.grp with lastIssue := d.time, exempt := d.grp.exempt.filter (· != e) } else d

/-- The words of the decoded queue that are left once the stream stands at an address, having begun at another; a change of the PC
empties it (R201). -/
def leftWords (ws : List (Word × Nat)) (from_ to_ : Word) : List (Word × Nat) :=
  ws.filter (fun e => !(from_.toNat ≤ e.1.toNat && e.1.toNat < to_.toNat))

/-- A group that has issued (R201, R391, R394): the stream's position, what it waited for, a transfer that was pending, and the words
left in the decoded queue. `rest` says that it was the rest of one that has issued. -/
def issued (d : Dev) (pend : Option Transfer) (rest : Bool) : Dev :=
  let d := if rest then d else d.noteIssue
  if !d.present then d
  else
    let x := d.stm
    let y := afterDelay x pend
    (d.endWaits d.me).setStm { y with
      wait := .none, resumeStep := 0
      position := if rest then x.position else x.position + 1
      issuedAt := if rest then x.issuedAt else d.time + 1
      decoded := if y.pc = d.cur.next || y.rest then leftWords x.decoded d.cur.group y.pc else [] }

/-- The stream put back to the start of its group. -/
def backTo (d : Dev) (cur : Cur) (pc : Word) : Dev :=
  let d := { d with cur := cur }
  if d.present then d.setStm { d.stm with pc := pc } else d

/-- The words of a group that fetch reaches: those read, the four of a NEST form, and the one that fetch stands at. -/
def reached (gs : List GroupWord) : Nat := if gs.any (fun g => isNest g.word) then 4 else max 1 gs.length

/-- A slack-table entry at an address among the `n` words that fetch reaches and that were not yet in the decoded queue; the last of
several counts (R259). -/
def loadSlack (d : Dev) (had : List (Word × Nat)) (pc : Word) (n : Nat) : Dev :=
  if d.cur.svc then d
  else
    let k := d.kernel d.myCtx d.grp.kernel
    let new (a : Word) : Bool := !had.any (fun e => e.1 == a)
    let here (s : Nat × Nat × Nat) : Bool :=
      s.1 == d.cur.eng.num && (List.range n).any (fun i =>
        let a := pc + BitVec.ofNat 64 (8 * i)
        new a && k.base + s.2.1 == a.toNat)
    match (k.slacks.filter here).foldl (fun (b : Option (Nat × Nat × Nat)) s => match b with
        | none => some s
        | some x => if x.2.1 ≤ s.2.1 then some s else some x) none with
    | some s => d.setStm { d.stm with slack := s.2.2 }
    | none => d

/-- Rows that an instruction writes, retags or reads when it issues (R64). -/
def rowsTouched (d : Dev) (e : Engine) (i : Instr) : List Nat :=
  let u := usesOf e i
  let named := ((u.reads ++ u.writes).filter (10000 ≤ ·)).map (· - 10000)
  let from_ (r n : Nat) : List Nat := if r < 0x800 then (List.range n).map (r + ·) else []
  let tile (t : Nat) : List Nat := from_ (d.tileRow t) d.grp.view.trows
  let acts (fI mm : Nat) : List Nat :=
    let ix := match d.src fI with
      | .ok r => r.1.v
      | .error _ => 0
    (List.range (mm + 1)).flatMap (fun j => [aRow (indexLane ix j), sRow (indexLane ix j)])
  named ++ match i with
    | .mmt _ t fI _ mm => from_ fI 1 ++ acts fI mm ++ tile t
    | .mmv _ t fI _ mm => from_ fI 1 ++ acts fI mm ++ tile t
    | .mmvHandle _ t fI _ mm => from_ fI 1 ++ acts fI mm ++ tile t
    | .mdeq _ _ _ _ _ fD t fC => from_ fD d.grp.view.trows ++ from_ fC 2 ++ tile t
    | .xgath _ _ c fD _ fI => from_ fD (c + 1) ++ from_ fI 1
    | .xscat _ _ c fA _ fI => from_ fA (c + 1) ++ from_ fI 1
    | .edisp _ _ _ fb _ => [fld (d.reg fb).v.toNat 0 11]
    | .rcpclr _ c fD => from_ fD (c + 1)
    | _ => []

/-- Rows that the words of a group write, retag or read when they issue (R64). -/
def groupRows (d : Dev) (gs : List GroupWord) : List Nat :=
  gs.flatMap (fun g => if ((g.ins.hdr?).map d.suppressed).getD false then [] else d.rowsTouched d.cur.eng g.ins)

end Dev

/-! ### The words of a group -/

/-- Instructions that keep what they have done when they wait or fault: NEST by elements (R148), VAMO by lanes (R144), the forms that
join or ask before they wait (R162, R168), and those that verify kernels (R232). -/
def keepsPart : Instr → Bool
  | .nest .. => true
  | .vamo .. => true
  | .mmv .. => true
  | .mmvHandle .. => true
  | .spawn .. => true
  | .spawnPstart .. => true
  | _ => false

/-- The result of the words of a group. -/
inductive Ran where
  | done (s : State)
  | stopped (g : GroupWord) (why : Stop)
  | other (o : Host.Outcome State Fault Refusal)

/-- Whether an instruction without steps goes on at a step of its own (R207): it retires at once. -/
def Dev.retiresNow (d : Dev) (g : GroupWord) : Bool :=
  d.stm.resumeStep != 0 && d.stm.op.isNone && g.at_ == d.stm.resumeAt && (match g.ins with
    | .rcpclr .. => false
    | _ => true)

/-- The result of an instruction that retires with everything as it stands: its token, but where FL suppresses it (R27, R207). -/
def Dev.tokenOnly (d : Dev) (g : GroupWord) : Dev :=
  match g.ins.hdr? with
  | some h => if d.suppressed h then d else d.pushToken h.pt
  | none => d

/-- One word executed under the loop state from before the group (R27, R247). -/
def execWord (loops : List Loop) (s : State) (g : GroupWord) : Host.Outcome State Fault Refusal :=
  let d := s.dev.atWord g
  let live := d.stm.loops
  if d.retiresNow g then .next { s with dev := { d.tokenOnly g with verdict := .done } }
  else if live = loops then exec g.ins { s with dev := d }
  else
    match exec g.ins { s with dev := d.setStm { d.stm with loops := loops } } with
    | .next t => .next { t with dev := t.dev.setStm { t.dev.stm with loops := live } }
    | o => o

/-- RETIRE as one word of a larger group, after the others: an operation that a later word began does not hold it (R250). -/
def execRetireWord (last : Bool) (before : Option LongOp) (s : State) (g : GroupWord) : Host.Outcome State Fault Refusal :=
  let d := s.dev.atWord g
  let op := d.stm.op
  if last || op = before then exec g.ins { s with dev := d }
  else
    match exec g.ins { s with dev := d.setStm { d.stm with op := before } } with
    | .next t => .next (if t.dev.present then { t with dev := t.dev.setStm { t.dev.stm with op := op } } else t)
    | o => o

/-- Words in order, each with a way to execute it; the first that waits or faults stops the group. -/
def runWords (run : State → GroupWord → Host.Outcome State Fault Refusal) : State → List GroupWord → Ran
  | s, [] => .done s
  | s, g :: gs =>
    match run s g with
    | .next t =>
      match t.dev.verdict with
      | .done => runWords run t gs
      | .waiting w => .stopped g (.wait w)
      | .trapped t => .stopped g (.trap t)
    | o => .other o

/-- Whether a word is RETIRE. -/
def isRetire (g : GroupWord) : Bool :=
  match g.ins with
  | .retire _ => true
  | _ => false

/-- When a word of a group takes effect among the others (R24): a CSR access sees the values from before the group and gives way to a
flag that the group raises (R89, R208); BARA waits for no operation that its own group begins (R267); QSTAT sees the pushes and
pops of its cycle (R228). Words of one rank keep the ascending order that memory asks for. -/
def wordRank (g : GroupWord) : Nat :=
  match g.ins with
  | .csrr .. => 0
  | .csrw .. => 0
  | .csrx .. => 0
  | .bara .. => 0
  | .qstat .. => 2
  | .retire .. => 3
  | _ => 1

/-- A wait with the translations that all words of its group have taken (R321). -/
def withHeld (hs : List Held) : Stop → Stop
  | .wait (.link p ls _) => .wait (.link p ls hs)
  | .wait (.peer _) => .wait (.peer hs)
  | st => st

/-- The stops of the words of a group, each executed by itself on the state from before the group, and the translations that they
take. -/
def wordStops (loops : List Loop) : State → List GroupWord → List (GroupWord × Stop) × List Held
  | s, [] => ([], s.dev.cur.took)
  | s, g :: gs =>
    let took (hs : List Held) : State := { s with dev := { s.dev with cur := { s.dev.cur with took := hs } } }
    match execWord loops s g with
    | .next t =>
      match t.dev.verdict with
      | .done => wordStops loops (took t.dev.cur.took) gs
      | .waiting w =>
        let hs := match w with
          | .link _ _ hs => hs
          | .peer hs => hs
          | _ => s.dev.cur.took
        let r := wordStops loops (took hs) gs
        ((g, .wait w) :: r.1, r.2)
      | .trapped t =>
        let r := wordStops loops s gs
        ((g, .trap t) :: r.1, r.2)
    | _ => wordStops loops s gs

/-- What stops a group of several words before it issues (R26, R37, R88): each word against the state from before the group. A word
that waits comes first, then the fault of the lowest address (log 79). -/
def groupStop (s : State) (gs : List GroupWord) : Option (GroupWord × Stop) :=
  let (stops, hs) := wordStops s.dev.stm.loops s gs
  ((stops.find? (fun x => match x.2 with
    | .wait _ => true
    | .trap _ => false)).orElse (fun _ => stops.head?)).map (fun x => (x.1, withHeld hs x.2))

/-- The scalar or address registers that a CSR access writes. -/
def csrDest (g : GroupWord) : List Nat :=
  match g.ins with
  | .csrr _ d _ => [d]
  | .csrx _ d _ _ => [d]
  | _ => []

/-- The words of a group in the order of their ranks. What a CSR access has read reaches its register after the other words, which read
their sources from before the group (R24). -/
def runOrdered (loops : List Loop) (s : State) (gs : List GroupWord) : Ran :=
  let at_ (r : Nat) : List GroupWord := gs.filter (fun g => wordRank g == r)
  match runWords (execWord loops) s (at_ 0) with
  | .done t =>
    let later := at_ 1 ++ at_ 2
    let ds := (at_ 0).flatMap csrDest
    if later.isEmpty || ds.isEmpty then runWords (execWord loops) t later
    else
      let put (d : Dev) (m : Dev) : Dev := ds.foldl (fun d n => d.setReg n (m.reg n)) d
      match runWords (execWord loops) { t with dev := put t.dev s.dev } later with
      | .done u => .done { u with dev := put u.dev t.dev }
      | r => r
  | r => r

/-- A group executed as a whole (R24, R26): nothing where a word of it waits or faults; else its words in their order, RETIRE after
the others. A RETIRE that must wait for an operation of its own group completes later: the stream then stands at it. -/
def runGroup (s : State) (gs : List GroupWord) : Ran :=
  let loops := s.dev.stm.loops
  match (if gs.length < 2 then none else groupStop s gs) with
  | some (g, why) => .stopped g why
  | none =>
    match runOrdered loops s gs with
    | .done t =>
      match gs.find? isRetire with
      | none => .done t
      | some g =>
        let last := gs.getLast? == some g
        match runWords (execRetireWord last s.dev.stm.op) t [g] with
        | .stopped g (.wait w) =>
          if last && s.dev.stm.op.isNone && t.dev.stm.op.isSome then
            .done { t with dev := t.dev.setStm { t.dev.stm with pc := g.at_, rest := true } }
          else .stopped g (.wait w)
        | r => r
    | r => r

/-! ### One attempt to issue -/

/-- What came of an attempt to issue the head group of a stream. -/
inductive Attempt where
  /-- The stream does not run now. -/
  | idle
  | waits (s : State)
  | faults (s : State)
  | issues (s : State)
  | other (o : Host.Outcome State Fault Refusal)

/-- A stop of the group with nothing done (R26, R37): `d` has `cur` at the word. -/
def stopHere (s : State) (d : Dev) (why : Stop) : Attempt :=
  match why with
  | .wait w => .waits { s with dev := { d.applyWait w with verdict := .waiting w } }
  | .trap t => .faults { s with dev := { d.takeFault t with verdict := .trapped t } }

/-- A stop of an instruction that keeps its part (R148): its own result, with the stream at the start of its group. A NEST form
that began has issued. A word that does not stop by itself has kept nothing. -/
def stopPartly (s : State) (d : Dev) (pc : Word) (why : Stop) (o : Host.Outcome State Fault Refusal) : Attempt :=
  match o with
  | .next t =>
    let b := t.dev.backTo d.cur pc
    let b := if Dev.began d b then
        let b := b.noteIssue
        b.setStm { b.stm with
          position := b.stm.position + 1, issuedAt := b.time + 1, decoded := Dev.leftWords b.stm.decoded pc (pc + 32) }
      else b
    match t.dev.verdict with
    | .done => stopHere s (d.backTo d.cur pc) why
    | .waiting _ => .waits { t with dev := b }
    | .trapped _ => .faults { t with dev := b }
  | o => .other o

/-- The ready head group `gs` executed (R24 to R27): `d` has `cur` at the group and the stream's PC after it. -/
def fire (s : State) (d : Dev) (pc : Word) (gs : List GroupWord) : Attempt :=
  let rest := d.stm.rest
  let s1 : State := { s with dev := if rest then d.setStm { d.stm with rest := false } else d }
  match runGroup s1 gs with
  | .done t =>
    let u : Dev := { t.dev with cur := d.cur }
    .issues { t with dev := (u.touchRows d.cur.key (d.groupRows gs)).issued d.stm.pend rest }
  | .other o => .other o
  | .stopped g why =>
    if keepsPart g.ins then stopPartly s (d.atWord g) pc why (execWord d.stm.loops s1 g)
    else stopHere s ((d.atWord g).backTo (d.atWord g).cur pc) why

/-- A breakpoint that matches a group that is ready (R394). -/
def breakAt (s : State) (d : Dev) (pc : Word) (a : Attempt) (gs : List GroupWord) : Attempt :=
  match a with
  | .issues _ | .faults _ =>
    if d.cur.svc || (d.ctx d.myCtx).breaks.isEmpty then a
    else
      match d.breakScan with
      | (some b, d1) => stopHere s (d1.backTo d1.cur pc) (.trap { cause := 0x21, addr := BitVec.ofNat 64 b })
      | (none, d1) => fire s d1 pc gs
  | a => a

/-- The head group decoded and checked: what still holds it, else its execution. `d` has the fetches made and `cur` at the
group; the stream's PC is still at its start. -/
def issueGroup (s : State) (d : Dev) (e : Engine) (pc : Word) (gs : List GroupWord) : Attempt :=
  let next := Dev.afterWords pc gs
  let isBrl (g : GroupWord) : Bool := match g.ins with
    | .brl .. => true
    | _ => false
  let (link, read, d) := if gs.any isBrl then d.linkAfter e next else (0, true, d)
  let d := { d with cur := { d.cur with next := next, link := link, linkRead := read } }
  if d.interlocked e gs then stopHere s d (.wait .busy)
  else
    match d.tokenLack gs with
    | some g => stopHere s (d.atWord g) (.wait (.token (d.groupNeeds e gs)))
    | none =>
      let d1 := d.setStm { d.stm with pc := next }
      breakAt s d1 pc (fire s d1 pc gs) gs

/-- A skipped group (R248): decoded, not issued; its LOOP and LEND change the depth. -/
def skipGroup (s : State) (d : Dev) (pc : Word) (depth : Nat) (start : Word) (gs : List GroupWord) : Attempt :=
  let n := Dev.skipDepth depth gs
  let x := d.stm
  let pc' := Dev.afterWords pc gs
  .issues { s with dev := { (d.endWaits d.me).setStm { x with
    pc := pc', skip := if n = Dev.skipEnd then none else some (n, start), wait := .none
    decoded := Dev.leftWords x.decoded pc pc' } with verdict := .done } }

/-- A NEST form that a wait or a fault stopped goes on (R148). -/
def resumeNest (s : State) (d : Dev) (o : LongOp) : Attempt :=
  let d := { d with cur := { d.cur with pc := o.pc, group := o.pc, word := o.word, next := o.pc + 32 } }
  let d1 := d.setStm { d.stm with pc := o.pc + 32 }
  match exec o.ins { s with dev := d1 } with
  | .next t =>
    match t.dev.verdict with
    | .done =>
      let b := { t.dev with cur := d.cur }
      let x := b.stm
      .issues { t with dev := (b.endWaits b.me).setStm { Dev.afterDelay x d1.stm.pend with wait := .none, resumeStep := 0 } }
    | .waiting _ => .waits { t with dev := t.dev.backTo d.cur o.pc }
    | .trapped _ => .faults { t with dev := t.dev.backTo d.cur o.pc }
  | o => .other o

/-- The head of the stream that `cur` names (R21 to R27, R248): a NEST form in progress, a skipped group, or a group to issue. -/
def attemptHead (s : State) : Attempt :=
  let d := s.dev
  let x := d.stm
  let e := d.cur.eng
  match x.load.filter (fun o => isNestForm o.ins) with
  | some o => resumeNest s d o
  | none =>
    let pc := x.pc
    let d : Dev := { d with cur := { d.cur with group := pc, pc := pc, word := 0 } }
    let r := d.readGroup e d.declared pc
    let r := { r with dev := r.dev.loadSlack x.decoded pc (Dev.reached r.words) }
    match x.skip, r.stop with
    | none, none => issueGroup s r.dev e pc r.words
    | none, some why => stopHere s r.dev why
    | some (n, start), none => skipGroup s r.dev pc n start r.words
    | some (n, start), some (.trap t) =>
      if t.word = some 0 && 4 < t.cause then
        let n := Dev.skipDepth n r.words
        let b := r.dev.setStm { r.dev.stm with skip := some (n, start) }
        let at_ := t.pc.getD t.addr
        stopHere s b (.trap { t with pc := some at_, resume := some at_ })
      else stopHere s r.dev (.trap t)
    | some _, some w => stopHere s r.dev w

/-- The device with `cur` at a stream of a resident group. -/
def Dev.forGroup (d : Dev) (core key : Nat) (e : Engine) : Dev :=
  { d with cur := { core := core, eng := e, svc := false, key := key, unit := d.cur.unit } }

/-- The device with `cur` at the service stream of a core; its group number names no group. -/
def Dev.forService (d : Dev) (core : Nat) : Dev :=
  { d with cur := { core := core, eng := .S, svc := true, key := keyOf 64 65535, unit := d.cur.unit } }

/-- Whether an engine of a core has issued no group in this cycle (R238). -/
def Dev.engineFree (d : Dev) (core : Nat) (e : Engine) : Bool := Map.get 0 (d.core core).engAt e.num != d.time + 1

/-- How many words a group at an address has, of at most `n`, where the decoded queue holds them all; one that is longer is complete for
the check that it fails. -/
def wordsAt (ws : List (Word × Nat)) (pc : Word) : Nat → Option Nat
  | 0 => some 0
  | n + 1 =>
    match ws.find? (fun e => e.1 == pc) with
    | none => none
    | some (_, w) => if flag w 63 then some 1 else (wordsAt ws (pc + 8) n).map (· + 1)

/-- How many words the head group of a stream has, where the decoded queue holds it whole (R201, R389). -/
def Stream.headWords (x : Stream) (e : Engine) : Option Nat :=
  match x.decoded.find? (fun w => w.1 == x.pc) with
  | none => none
  | some (_, w) =>
    if e == .V && isNest w then
      (if [8, 16, 24].all (fun k => x.decoded.any (fun e => e.1 == x.pc + BitVec.ofNat 64 k)) then some 4 else none)
    else wordsAt x.decoded x.pc (groupLimit e)

/-- Whether a stream is inside an instruction whose access has still to be performed (R368, R384). -/
def Dev.inAccess (d : Dev) (key : Nat) (e : Engine) : Bool :=
  !(d.waitsOf (.stream key e)).isEmpty && (Stream.headWords ((d.group key).stream e) e).isSome

/-- Whether service mode on a core keeps a stream from issuing (R200, R201): every S stream, and another once its decoded queue would hold
fewer words than the watermark. A NEST form that has begun has issued. -/
def Dev.serviceBars (d : Dev) (core : Nat) (e : Engine) (x : Stream) : Bool :=
  let c := d.core core
  c.service && (e == .S || (!(x.load.map (fun o => isNestForm o.ins)).getD false && (match Stream.headWords x e with
    | none => true
    | some n => x.decoded.length < c.svcwm + n)))

/-- Whether a stream of a resident group may issue now (R195, R200, R201, R237, R238, R240, R250, R393): in the cycle of a fault that
holds the group its other streams still issue (R198), and one that is inside an access completes it. -/
def Dev.mayIssue (d : Dev) (core key : Nat) (e : Engine) : Bool :=
  let g := d.group key
  let x := g.stream e
  d.engineFree core e && (d.ctx (ctxOf key)).state != .saving && x.declared && !x.retired
    && (d.inAccess key e
      || ((g.state == .running || (g.state == .held && g.heldAt == d.time + 1)) && (!Dev.atTarget g e || x.rest)
        && !g.entries.any (·.stream == e) && !d.serviceBars core e x))

/-- An attempt to issue on an engine of a core: a resident group by its slot, or the service stream (R200). -/
def attempt (s : State) (core slot : Nat) (e : Engine) : Attempt :=
  let d := s.dev
  let c := d.core core
  if !Life.works s.mod.life || !d.siteRuns core then .idle
  else if c.service && e == .S then
    (if c.svc.retired || !d.engineFree core e then .idle else attemptHead { s with dev := d.forService core })
  else
    match Map.find c.slots slot with
    | none => .idle
    | some key => if d.mayIssue core key e then attemptHead { s with dev := d.forGroup core key e } else .idle

/-- Whether an attempt shows a stream that is ready (R239): its group issues, or faults at issue. -/
def Attempt.ready : Attempt → Bool
  | .issues _ => true
  | .faults _ => true
  | _ => false

/-- Whether a stream of a slot would take its engine for an issue now (R238): it is ready, and goes on with nothing that has issued. -/
def contends (s : State) (core slot : Nat) (e : Engine) : Bool :=
  let key := Map.get 0 (s.dev.core core).slots slot
  let x := (s.dev.group key).stream e
  !(x.load.map (fun o => isNestForm o.ins)).getD false && x.skip.isNone && !s.dev.inAccess key e && (attempt s core slot e).ready

/-- Whether of two streams that are ready the one of slot `a` issues before the one of `b` (R238): one that is overdue first, of several
the one of the lowest slot; then the one with more credits, which are those of a new round where neither has any; of equal ones the one whose
slack is exhausted. -/
def Dev.goesFirst (d : Dev) (core : Nat) (e : Engine) (fresh : Bool) (a b : Nat) : Bool :=
  let key (sl : Nat) : Nat := Map.get 0 (d.core core).slots sl
  let spent (sl : Nat) : Bool := ((d.group (key sl)).stream e).slack == 0
  let have_ (sl : Nat) : Nat := if fresh then d.creditsPer (key sl) else d.creditsLeft core sl e
  match d.overdue core a e, d.overdue core b e with
  | true, true => a < b
  | true, false => true
  | false, true => false
  | false, false => if have_ a != have_ b then have_ b < have_ a else spent a && !spent b

/-- Whether a stream must leave the cycle to another of its engine that is ready: one that yields to one that does not (R272), else
one to which the weighted round robin prefers the other (R238). -/
def yields (s : State) (core slot : Nat) (e : Engine) : Bool :=
  let d := s.dev
  let late (sl : Nat) : Bool := d.time < ((d.group (Map.get 0 (d.core core).slots sl)).stream e).yieldUntil
  let others := (Map.keys (d.core core).slots).filter (fun sl => sl != slot && contends s core sl e)
  if (d.core core).service && e == .S then false
  else if late slot && others.any (!late ·) then true
  else
    let equals := others.filter (fun sl => late sl == late slot)
    !equals.isEmpty && contends s core slot e
      && (let fresh := (slot :: equals).all (fun sl => d.creditsLeft core sl e == 0)
          equals.any (fun sl => d.goesFirst core e fresh sl slot))

/-- A debug stop of the group of a slot that may now be complete (R393). -/
def Dev.afterIssue (d : Dev) (core slot : Nat) : Dev :=
  match Map.find (d.core core).slots slot with
  | some key => if (d.group key).stopAt.isSome then d.stopCheck key else d
  | none => d

/-- ISSUE: one attempt of a stream, with what comes of it. -/
def issueStream (s : State) (core slot : Nat) (e : Engine) : Host.Outcome State Fault Refusal :=
  let close (t : State) : Host.Outcome State Fault Refusal := .next { t with dev := t.dev.afterIssue core slot }
  if yields s core slot e then .next s
  else
    match attempt s core slot e with
    | .idle => .next s
    | .waits t => close t
    | .faults t => close t
    | .issues t => close t
    | .other o => o

end Sys2Proof.Machine
end

