-- ==== Sys2Proof/Machine/Schedule.lean ====
section
/-!
DEFINITION. What happens in a cycle and in which order: events, commands and steps of the sampler units beside the issue of streams, and
the order that the rules give to several of them in one cycle (spec/00_scope.md R5; log 1).
-/

namespace Sys2Proof.Machine
open Word

/-! ### Moves -/

/-- Whether an instruction is a word of a step program (R350). -/
def isStepWord : Instr → Bool
  | .sldc .. | .spen .. | .stemp | .stopk | .stopp | .sminp | .ssmax | .srng .. | .sdraw .. | .smemb .. | .scnt ..
  | .scommit .. | .sabort | .semit .. | .smov .. | .smovImm .. | .smovLoad .. | .sadd .. | .saddImm .. | .scmp .. | .sbr ..
  | .sjmp .. | .send => true
  | _ => false

/-- Whether an instruction can come from outside a stream: an event or a command. What a stream raises against itself at a fetch,
at decoding or at a breakpoint is none. -/
def isEvent (i : Instr) : Bool :=
  i.hdr?.isNone && !isStepWord i && i.wf .S 15 && (match i with
    | .decodeFault .. | .fetchFault .. | .breakpointFire .. => false
    | _ => true)

/-- Whether some stream of an engine of a core is ready now (R238): its head group would issue. -/
def engineReady (s : State) (core : Nat) (e : Engine) : Bool :=
  (0 :: Map.keys (s.dev.core core).slots).any (fun sl => (attempt s core sl e).ready)

/-- An event or command happens; one that names what does not exist has no effect, and an engine stalls only where it has a stream that is
ready (R365). -/
def runEvent (s : State) (i : Instr) : Host.Outcome State Fault Refusal :=
  let holds := match i with
    | .issueStallLimit core e => engineReady s core e
    | _ => true
  if isEvent i && holds then exec i s else .next s

/-- One instruction of the step that a sampler unit runs (R350); a word or a place that is ILLEGAL ends the step, and so does the
end of its budget. -/
def runSampler (s : State) (j : Nat) : Host.Outcome State Fault Refusal :=
  let d := { s.dev with cur := { s.dev.cur with unit := j } }
  match (d.sampler j).run with
  | none => .next s
  | some r =>
    if !Life.works s.mod.life || r.ended.isSome then .next s
    else
      match (d.stepWord j).bind decodeStep with
      | some i => exec i { s with dev := d }
      | none =>
        let st := if 65536 ≤ r.count then stRunaway else stIllegal
        .next { s with dev := { (if r.killed then d.closeStep j r none else d.endStep j r st) with verdict := .done } }

/-- One move of the schedule (log 1). -/
def runMove (s : State) (m : Doing) : Host.Outcome State Fault Refusal :=
  match m with
  | .event i => runEvent s i
  | .issue core slot e => issueStream s core slot e
  | .service core => if Life.works s.mod.life then exec (.serviceEntry core) s else .next s
  | .sampler j => runSampler s j

/-! ### What a move would do -/

/-- The state after a move made now; the order of the moves of a cycle looks at it. -/
def trial (s : State) (m : Doing) : State :=
  match runMove { s with agenda := [] } m with
  | .next t => t
  | _ => s

/-- The stream that a move acts for: its group and engine. -/
def streamOf (d : Dev) : Doing → Option (Nat × Engine)
  | .issue core slot e => (Map.find (d.core core).slots slot).map (fun k => (k, e))
  | .event (.slabComplete g) => some (g, .M)
  | .event (.queryStepComplete g) => some (g, .V)
  | .event (.transferStepComplete g) => some (g, .X)
  | .event (.xdecPush g) => some (g, .X)
  | _ => none

/-- The words of the group that an issue would look at. -/
def headOf (s : State) : Doing → List Instr
  | .issue core slot e =>
    let at_ (d : Dev) : List Instr := (d.readGroup e d.declared d.stm.pc).words.map (·.ins)
    if (s.dev.core core).service && e == .S then at_ (s.dev.forService core)
    else
      match Map.find (s.dev.core core).slots slot with
      | some k => at_ (s.dev.forGroup core k e)
      | none => []
  | _ => []

/-- A context that a move kills (R195). -/
def kills (a b : Dev) : Bool := b.ctxs.any (fun e => e.2.state == .killed && (a.ctx e.1).state != .killed)

/-- A port that a move fences (R383). -/
def fences (a b : Dev) : Bool := b.links.any (fun e => e.2.state == .fenced && (a.link e.1).state != .fenced)

/-- A site or control core that a move freezes (R365, R372). -/
def freezes (a b : Dev) : Bool :=
  b.sites.any (fun e => e.2.state == .frozen && (a.site e.1).state != .frozen)
    || b.cores.any (fun e => e.2.frozen && !(a.core e.1).frozen)

/-- A fault record that a move makes (R196). -/
def faults (a b : Dev) : Bool := b.ctxs.any (fun e => e.2.seq != (a.ctx e.1).seq)

/-- A fault queue whose HEAD a move writes (R195). -/
def moves (a b : Dev) : Bool := b.ctxs.any (fun e => e.2.head != (a.ctx e.1).head)

/-- A power command that a move gives to a cluster (R373). -/
def powers (a b : Dev) : Bool :=
  b.clusters.any (fun e =>
    let x := a.cluster e.1
    e.2.power != x.power || e.2.pwrNext != x.pwrNext || e.2.pwrCmdst != x.pwrCmdst)

/-- Rows that a move drops (R62). -/
def dropsRows (a b : Dev) : Bool := b.groups.any (fun e => e.2.rows.any (fun r => Dev.isDropped r.2 && !Dev.isDropped (Map.get {} (a.group e.1).rows r.1)))

/-- A group that a move suspends (R240). -/
def suspends (a b : Dev) : Bool := b.groups.any (fun e => e.2.state == .suspended && (a.group e.1).state != .suspended)

/-- A stash entry of another group that a move of a group changes (R179). -/
def stashes (a b : Dev) (key : Nat) : Bool := b.groups.any (fun e => e.1 != key && e.2.stash != (a.group e.1).stash)

/-! ### The order of a cycle -/

/-- The phase of what a stream, or an operation of it, does in a cycle: a group with TLBI first (R326), then the others; then those that
change the stash of another group (R179), then those that drop rows (R64), and last the groups with a WFE, which sees every SEV of
the cycle (R270), or with a QSTAT, which sees its pushes and pops (R228). -/
def streamPhase (s t : State) (m : Doing) : Nat :=
  let ws := headOf s m
  let late (i : Instr) : Bool := match i with
    | .wfe .. => true
    | .qstat .. => true
    | _ => false
  let tlb (i : Instr) : Bool := match i with
    | .tlbi .. => true
    | _ => false
  if ws.any tlb then 19
  else if stashes s.dev t.dev (((streamOf s.dev m).map (·.1)).getD (2 ^ 32)) then 23
  else if dropsRows s.dev t.dev then 24
  else if ws.any late && !faults s.dev t.dev then 26
  else 20

/-- The phase of an event or a command: the module's life (R11), a step of an operation, which with a fault takes its place among the
streams (R175, R198, R286), a request that a sampler unit pops (R360), accesses from outside (R179), drops for a replay (R64), a
placement, which can pre-empt (R371), power commands (R371) and a change in a fault queue (R195). -/
def eventPhase (s t : State) (i : Instr) : Nat :=
  let step := if faults s.dev t.dev then 20 else 7
  match i with
  | .powerRemoved => 0
  | .railFault => 1
  | .thermalTrip => 2
  | .controlCoreSelfTest .. => 3
  | .sealOff .. => 4
  | .slabComplete .. => step
  | .queryStepComplete .. => step
  | .transferStepComplete .. => step
  | .xdecPush .. => step
  | .stepRequest .. => 9
  | .hostLakeAccess .. => 30
  | .peerLakeAccess .. => 30
  | .stashRemoteAccess .. => 30
  | .recipeReplay .. => if suspends s.dev t.dev then 31 else if dropsRows s.dev t.dev then 24 else 12
  | .groupPlacement .. => 31
  | .pwrQuiesce .. => 32
  | .pwrSave .. => 32
  | .pwrClkoff .. => 32
  | .pwrRailoff .. => 32
  | .pwrAbort .. => 32
  | .pwrBadCommand .. => 32
  | .pwrWake .. => 32
  | .faultQueueHeadWrite .. => 33
  | .registerWrite .. => if moves s.dev t.dev then 33 else if powers s.dev t.dev then 32 else 12
  | _ => 12

/-- The phase of a move among the moves of its cycle (R5): after the module's life come kills (R195, R360, R371), fences (R383) and
freezes (R371), whatever makes them; then the rest. -/
def phase (s t : State) (m : Doing) : Nat :=
  let own := match m with
    | .event i => eventPhase s t i
    | .issue .. => streamPhase s t m
    | _ => 20
  if own < 5 then own
  else if kills s.dev t.dev then 5
  else if fences s.dev t.dev then 6
  else if freezes s.dev t.dev then 8
  else own

/-- What the order of a cycle needs to know of a move: its phase, the stream it acts for, and the shared units that would serve it, each
with the stream served. -/
structure Seen where
  phase : Nat
  stream : Option (Nat × Engine)
  served : List (Nat × Nat)

/-- A move looked at by a trial of it. -/
def look (s : State) (m : Doing) : Seen :=
  let t := trial s m
  { phase := phase s t m, stream := streamOf s.dev m, served := t.dev.useNow.served.drop s.dev.useNow.served.length }

/-- How far a stream stands behind the last winner of a unit in its round (R220, R266, R299, R340). -/
def turn (d : Dev) (unit who : Nat) : Nat := (who + 2 ^ 41 - 1 - Map.get (2 ^ 41 - 1) d.winners unit) % 2 ^ 41

/-- Whether a move applies before another of its cycle: by the phase; of two that one unit would serve, the next in its round; of two
streams of a group, in the order S, V, M, X (R198). -/
def Seen.before (d : Dev) (a b : Seen) : Bool :=
  if a.phase != b.phase then a.phase < b.phase
  else
    match a.served.find? (fun u => b.served.any (·.1 == u.1)) with
    | some (u, who) => turn d u who < turn d u (((b.served.find? (·.1 == u)).map (·.2)).getD who)
    | none =>
      match a.stream, b.stream with
      | some (k, e), some (l, f) => k == l && e.num < f.num
      | _, _ => false

/-- The moves after the head that fall in its cycle: those before which no cycle passes. -/
def sameCycle : List Move → Nat
  | [] => 0
  | m :: ms => if m.dt = 0 then 1 + sameCycle ms else 0

/-- The place of the move that comes first in the cycle: the first of the schedule that no other must precede. -/
def firstOf (d : Dev) (ms : List Seen) : Nat := (ms.findIdx? (fun a => !ms.any (fun b => b.before d a))).getD 0

/-- The next move of a schedule whose head is due, and what is left of it: the moves of one cycle apply in the order that the rules
give (R5), and in the order of the schedule where they give none. -/
def nextMove (s : State) : Option (Doing × List Move) :=
  match s.agenda with
  | [] => none
  | m :: ms =>
    match sameCycle ms with
    | 0 => some (m.what, ms)
    | n =>
      match firstOf s.dev ((m :: ms.take n).map (fun x => look s x.what)) with
      | 0 => some (m.what, ms)
      | k + 1 =>
        match ms[k]? with
        | some x => some (x.what, m :: ms.eraseIdx k)
        | none => some (m.what, ms)

end Sys2Proof.Machine
end

