-- ==== Sys2Proof/Machine/Clock.lean ====
section
/-!
DEFINITION. The passing of time (spec/21_observation.md R388 to R390): what each cycle counts, and what ends with a cycle.
-/

namespace Sys2Proof.Machine
open Word

namespace Dev

/-- The counter that takes a cycle of a resident stream that issues nothing in it (R388, R389): EMPTY where its head group is not whole in
the decoded queue, WAIT-TOKEN on the lowest FIFO that holds it, else WAIT-ENGINE. What a fetch can read now without a wait
counts as decoded (log 17). -/
def headClass (d : Dev) (key : Nat) (e : Engine) : Nat :=
  let d := d.forGroup (d.group key).core key e
  let x := d.stm
  let g := d.grp
  if (x.load.map (fun o => isNestForm o.ins)).getD false then 9 + e.num
  else
    let r := d.readGroup e d.declared x.pc
    let whole := match r.stop with
      | none => true
      | some (.wait _) => false
      | some (.trap t) => t.word != some 0
    if !whole then 5 + e.num
    else
      let hs := (r.words.filterMap (fun w => w.ins.hdr?)).filter (fun h => !d.suppressed h)
      let empty := (((List.range 3).filter (fun j => hs.any (fun h => flag h.cm j))).map (fifoFrom e)).filter (fun f => readyTokens g d.time f == 0)
      let full := ((hs.filter (fun h => h.pt != 0)).map (fun h => fifoTo e (h.pt - 1))).filter (fun f =>
        32 ≤ Map.get 0 g.tokens f + Map.get 0 g.tokenRes f)
      match empty ++ full with
      | [] => 9 + e.num
      | f :: fs => 16 + fs.foldl min f

/-- `n` cycles, all like the present one, counted for a resident stream that does not issue in them (R389). -/
def countStream (now d : Dev) (key : Nat) (e : Engine) (n : Nat) : Dev :=
  let g := now.group key
  let x := g.stream e
  if !x.declared || x.retired || x.issuedAt = now.time + 1 then d else d.countOn g.core (now.headClass key e) n

/-- `n` cycles counted for every resident stream of a group that runs. -/
def countStreams (d : Dev) (n : Nat) : Dev :=
  (d.groups.filter (fun e => e.2.state == .running && e.2.core != 0xFF)).foldl (fun x e =>
    engines.foldl (fun x en => countStream d x e.1 en n) x) d

/-- The cores with an access that waits as `p` says, each once. -/
def coresWaiting (d : Dev) (p : AccWait → Bool) : List Nat := ((d.waits.filter p).filterMap (fun w => d.coreOfWait w.by_)).eraseDups

/-- An access held by a peer's migration (R368), and one that needs a port in TRAINING or RECOVERING (R384). -/
def heldByPeer (w : AccWait) : Bool := w.port.isNone
def heldByLink (d : Dev) (w : AccWait) : Bool :=
  (w.port.map (fun p => (d.link p).state == .training || (d.link p).state == .recovering)).getD false

/-- `n` cycles of the waits of accesses, counted once for each core (R388). -/
def countWaits (d : Dev) (n : Nat) : Dev :=
  let d1 := (d.coresWaiting heldByPeer).foldl (fun x c => x.countOn c 47 n) d
  (d.coresWaiting d.heldByLink).foldl (fun x c => x.countOn c 48 n) d1

/-- `n` cycles, all like the present one, counted (R388). -/
def countCycles (d : Dev) (n : Nat) : Dev := if n = 0 then d else ((d.countJoiners n).countWaits n).countStreams n

/-- The command of MOD_TLBC ends once its drain is over (R325). -/
def endDrain (d : Dev) : Dev := if d.tlbBusy && !d.drains then { d.dropGone with tlbBusy := false } else d

/-- A cycle in which a stream was ready but for its engine, which issued another group, spends a unit of its slack, or is a slack stall
(R259). -/
def spendSlack (d : Dev) (key : Nat) (e : Engine) : Dev :=
  let g := d.group key
  let x := g.stream e
  if x.slack = 0 then d.countOn g.core 29 1 else d.setGroup key (g.setStream e { x with slack := x.slack - 1 })

end Dev

/-- Whether a stream of a slot would issue now but for its engine, which has issued another group in this cycle (R259). -/
def engineHolds (s : State) (core slot : Nat) (e : Engine) : Bool :=
  let c := s.dev.core core
  !s.dev.engineFree core e && (match Map.find c.slots slot with
    | none => false
    | some key =>
      ((s.dev.group key).stream e).issuedAt != s.dev.time + 1
        && (attempt { s with dev := s.dev.setCore core { c with engAt := Map.del c.engAt e.num } } core slot e).ready)

/-- The slack of every stream at the end of the present cycle (R259). -/
def slackStep (s : State) : State :=
  let held (c : Nat × Core) : List (Nat × Engine) :=
    c.2.slots.flatMap (fun sl => (engines.filter (fun e => engineHolds s c.1 sl.1 e)).map (fun e => (sl.2, e)))
  { s with dev := (s.dev.cores.flatMap held).foldl (fun d x => d.spendSlack x.1 x.2) s.dev }

/-- The streams that were ready in the present cycle and did not issue, where streams of a core compete: since when (R238). -/
def readyMarks (s : State) : State :=
  let d := s.dev
  let ready (n slot : Nat) (e : Engine) : Bool :=
    ((d.group (Map.get 0 (d.core n).slots slot)).stream e).issuedAt != d.time + 1
      && contends { s with dev := d.setCore n { d.core n with engAt := Map.del (d.core n).engAt e.num } } n slot e
  let marks (n : Nat) (c : Core) : Map Nat :=
    if c.slots.length < 2 then []
    else (Map.keys c.slots).flatMap (fun sl => (engines.filter (ready n sl)).map (fun e =>
      (Dev.streamNum sl e, Map.get (d.time + 1) c.readySince (Dev.streamNum sl e))))
  { s with dev := { d with cores := d.cores.map (fun e => (e.1, { e.2 with readySince := marks e.1 e.2 })) } }

/-- The present cycle ends, and `n` more like the state it leaves pass: sessions that are full transfer, what a drain or a debug stop waited for ends, the cycles are counted, kernels
retire, the waits of stage groups are recorded, time advances, and sites that froze begin to migrate. -/
def endCycles (s : State) (n : Nat) : State :=
  let d := ((readyMarks (slackStep { s with dev := s.dev.runSessions.endDrain.stopChecks })).dev).countCycles 1
  let d := ({ d with time := s.dev.time + n }).countCycles n
  let d := { d with time := s.dev.time }
  { s with dev := ({ d.retireAll.trackIdle (n + 1) with time := s.dev.time + n + 1 }).beginMigrations }

/-- `dt` cycles pass; none is counted without power (R388, R390). -/
def State.tick (s : State) (dt : Nat) : State :=
  match dt with
  | 0 => s
  | n + 1 => if s.mod.life = .off then s else endCycles s n

end Sys2Proof.Machine
end

