-- ==== Sys2Proof/Machine/Step.lean ====
section
/-!
DEFINITION. One step of the machine: the next move of its schedule (log 1), and the placing of one instruction where the next
step runs it.
-/

namespace Sys2Proof.Machine
open Word

/-- The cycles before the schedule's head pass, then the first of the moves of its cycle is made. Without a schedule, one cycle passes. -/
def step (s : State) : Host.Outcome State Fault Refusal :=
  match s.agenda with
  | [] => .next (s.tick 1)
  | m :: ms =>
    let t : State := { s.tick m.dt with agenda := ⟨0, m.what⟩ :: ms }
    match nextMove t with
    | none => .next t
    | some (w, rest) => runMove { t with agenda := rest } w

/-- A step of sampler unit 0 that stands at a word of its program (R350). -/
def State.withStepWord (s : State) (w : Nat) : State :=
  let u := s.dev.sampler 0
  let r := u.run.getD {}
  let pc := if r.pc < 0 || 4095 < r.pc then 0 else r.pc
  let u : Sampler := { u with prog := Map.set u.prog pc.toNat w, run := some { r with pc := pc, ended := none } }
  { mod := { s.mod with life := .ready }
    dev := { s.dev with samplers := Map.set s.dev.samplers 0 u }
    agenda := [⟨0, .sampler 0⟩] }

/-- A group of context 0 on slot 0 of core 0 whose streams stand at virtual address 0x1000, which a translation held in the
core's TLB maps to the page of Lake with the instruction. -/
def State.withStreamWord (s : State) (e : Engine) (w : Nat) : State :=
  let x : Stream := { declared := true, pc := 0x1000 }
  let g : Group := { state := .running, core := 0, rowsN := 2048, recipesN := 256, placed := some 0,
                     streamS := x, streamV := x, streamM := x, streamX := x }
  let l : Leaf := ⟨1, 12, 0x1000, 0x1000, true, true, true, false, false, false⟩
  let n : Ctx := { s.dev.ctx 0 with state := .running, asid := 1 }
  let c : Core := { s.dev.core 0 with slots := [(0, keyOf 0 0)], service := false, tlb := [l] }
  { mod := { s.mod with life := .ready }
    dev := { s.dev with
      mem := s.dev.mem.writeBytes 0x1000 (toBytes 32 w)
      ctxs := Map.set s.dev.ctxs 0 n
      groups := Map.set s.dev.groups (keyOf 0 0) g
      cores := Map.set s.dev.cores 0 c }
    agenda := [⟨0, .issue 0 0 e⟩] }

/-- The state with an instruction, numbered as the opcode table numbers its bits, where the next step runs it. -/
def State.withFetchWord (s : State) (nbits w : Nat) : State :=
  if nbits == 32 then s.withStepWord w
  else
    let v := w % 2 ^ nbits
    let e := if isNest (v % 2 ^ 64) then Engine.V else ((decodeAny (v % 2 ^ 64) [.S, .V, .M, .X]).map (·.1)).getD .S
    s.withStreamWord e v

end Sys2Proof.Machine
end

