-- ==== Sys2Proof/Safety.lean ====
section
/-!
DEFINITION. What claims speak of: when an instruction of a stream runs, the state it leaves, and what stays as it was.
-/

namespace Sys2Proof.Machine
open Word

/-- Nothing in the header holds an instruction: FL lets it run on this iteration (R27), the tokens that CM names are there and the
FIFO that PT names has a place (R26, R261). -/
abbrev Dev.lets (d : Dev) (h : Hdr) : Prop := d.suppressed h = false ∧ d.tokensReady h = .ok ()

/-- The state after an instruction with its whole effect `d`: its tokens taken, the produced one pushed, or its place reserved
when the instruction began an operation that runs on (R22, R261). -/
def State.after (s : State) (h : Hdr) (d : Dev) : State :=
  { s with dev := { d.settle h (Dev.began s.dev d) with verdict := .done } }

/-- The state after an event or a command with its whole effect `d`. -/
def State.with (s : State) (d : Dev) : State := { s with dev := d }

/-- A fault of the stream that `cur` names is taken: cause and address field of its record (R196, R197). -/
def State.faulted (s : State) (t : Trap) : State := { s with dev := { s.dev.takeFault t with verdict := .trapped t } }

/-- The stream that `cur` names waits at its group, with nothing done (R26, R239). -/
def State.held (s : State) (w : Wait) : State := { s with dev := { s.dev.applyWait w with verdict := .waiting w } }

/-- An instruction completes with `d` as its whole effect. -/
abbrev Does (i : Instr) (s : State) (h : Hdr) (d : Dev) : Prop := exec i s = .next (s.after h d)

/-- An instruction completes, and its whole effect is `r` in register `fd`. -/
abbrev Gives (i : Instr) (s : State) (h : Hdr) (fd : Nat) (r : Reg) : Prop := Does i s h (s.dev.setReg fd r)

/-- An event or a command completes with `d` as its whole effect. -/
abbrev Leads (i : Instr) (s : State) (d : Dev) : Prop := exec i s = .next (s.with d)

/-- An instruction takes a fault with a cause and an address field: the record, the hold or the kill of R196 to R200. -/
abbrev Faults (i : Instr) (s : State) (cause addr : Nat) : Prop :=
  exec i s = .next (s.faulted { cause := cause, addr := BitVec.ofNat 64 addr })

/-- An instruction commits poison that a register carried (R174): cause 0x10 with PKIND 1, which kills the context. -/
abbrev Commits (i : Instr) (s : State) (addr : Nat) : Prop :=
  exec i s = .next (s.faulted { cause := 0x10, addr := BitVec.ofNat 64 addr, poison := true, pkind := 1 })

/-- An instruction waits at its group, with nothing done. -/
abbrev Waits (i : Instr) (s : State) (w : Wait) : Prop := exec i s = .next (s.held w)

/-- Everything of the device that an instruction of the S stream on registers leaves: memory, poison, queues, barriers, contexts,
clusters, the residency unit, the samplers and the links. -/
abbrev Dev.sameOutside (d d' : Dev) : Prop :=
  d'.mem = d.mem ∧ d'.poisoned = d.poisoned ∧ d'.queues = d.queues ∧ d'.q250 = d.q250 ∧ d'.q251 = d.q251
    ∧ d'.barriers = d.barriers ∧ d'.ctxs = d.ctxs ∧ d'.clusters = d.clusters ∧ d'.sites = d.sites ∧ d'.res = d.res
    ∧ d'.samplers = d.samplers ∧ d'.links = d.links ∧ d'.counters = d.counters ∧ d'.time = d.time

/-- The registers of the stream that `cur` names which an instruction leaves: every s or a register but `fd`, every condition,
branch and lane-mask register. -/
abbrev Dev.sameRegsBut (d d' : Dev) (fd : Nat) : Prop :=
  (∀ n, n ≠ fd → d'.reg n = d.reg n) ∧ (∀ n, d'.creg n = d.creg n) ∧ (∀ n, d'.breg n = d.breg n) ∧ (∀ n, d'.kreg n = d.kreg n)

/-! ### Rows -/

/-- Lane `i` of a row under a type (R44). -/
abbrev laneAt (t : Nat) (v : RowBits) (i : Nat) : Nat := fld v.toNat (laneBits t * i) (laneBits t)

/-- Whether lane `i` of a type is active under a mask field (R48, R115). -/
abbrev Dev.laneOn (d : Dev) (v : VField) (t i : Nat) : Bool := !v.me || maskBit (d.kreg v.k).v (laneCount t) i

/-- No row of the group carries a recipe tag, so that no read or write of a row meets a recipe (R61, R63). -/
abbrev Dev.untagged (d : Dev) : Prop := ∀ e ∈ d.grp.rows, e.2.tag = .live

/-- A row of the window (R28). -/
abbrev Dev.hasRow (d : Dev) (r : Nat) : Prop := r < d.grp.rowsN ∧ r < 0x800

/-- What an instruction that writes rows leaves: every other row but those of `rs`, every register, and everything outside the
group. -/
abbrev Dev.sameButRows (d d' : Dev) (rs : List Nat) : Prop :=
  (∀ k, k ∉ rs → d'.row k = d.row k) ∧ (∀ n, d'.reg n = d.reg n) ∧ (∀ n, d'.creg n = d.creg n)
    ∧ (∀ n, d'.breg n = d.breg n) ∧ (∀ n, d'.kreg n = d.kreg n) ∧ d.sameOutside d'

/-- A row after a write of the whole of it: it holds the data, has no recipe tag, and is to be saved again (R51, R61, R211). -/
abbrev Dev.written (d : Dev) (r : Nat) (v : RowBits) (p : Bool) : Row :=
  { d.row r with v := v, p := p, sat := false, tag := .live, dirty := true }

/-- An instruction of rows completes, and its whole effect is the row `r` with its poison and the sticky flags `fl` (R80). -/
def WritesRow (i : Instr) (s : State) (r : Nat) (v : RowBits) (p : Bool) (fl : Nat) : Prop :=
  ∃ u, exec i s = .next u ∧ u.dev.verdict = .done ∧ u.dev.row r = s.dev.written r v p
    ∧ u.dev.grp.fflags = s.dev.grp.fflags ||| fflagBits 0 fl ∧ s.dev.sameButRows u.dev [r]

/-- An instruction of rows completes with lane `j` of row `r` holding `f j`, for every lane of the type. -/
def LanesBecome (i : Instr) (s : State) (r t : Nat) (f : Nat → Nat) : Prop :=
  ∃ u, exec i s = .next u ∧ u.dev.verdict = .done ∧ ∀ j, j < laneCount t → laneAt t (u.dev.row r).v j = f j

/-- The shape of an instruction whose result is one row function of the rows it names (R118, R129): its mask field, the types it
accepts, whether it writes every lane whatever the mask, its destination, its sources, and the function. -/
structure RowForm where
  v : VField
  types : List Nat
  whole : Bool
  fD : Nat
  srcs : List Nat
  f : RowFn

/-- The instructions of that shape. -/
def rowForm : Instr → Option RowForm
  | .vadd _ v fD fA fB => some ⟨v, WellFormed.tFloat, false, fD, [fA, fB], rowAdd⟩
  | .vsub _ v fD fA fB => some ⟨v, WellFormed.tFloat, false, fD, [fA, fB], rowSub⟩
  | .vmul _ v fD fA fB => some ⟨v, WellFormed.tFloat, false, fD, [fA, fB], rowMul⟩
  | .vmin _ v fD fA fB => some ⟨v, WellFormed.tFloatInt, false, fD, [fA, fB], rowMin⟩
  | .vmax _ v fD fA fB => some ⟨v, WellFormed.tFloatInt, false, fD, [fA, fB], rowMax⟩
  | .vabs _ v fD fA => some ⟨v, WellFormed.tSigned, false, fD, [fA], rowAbs⟩
  | .vneg _ v fD fA => some ⟨v, WellFormed.tSigned, false, fD, [fA], rowNeg⟩
  | .vexp2 _ v fD fA => some ⟨v, WellFormed.tFloat, false, fD, [fA], rowExp2⟩
  | .vlog2 _ v fD fA => some ⟨v, WellFormed.tFloat, false, fD, [fA], rowLog2⟩
  | .vrcp _ v fD fA => some ⟨v, WellFormed.tFloat, false, fD, [fA], rowRcp⟩
  | .vrsq _ v fD fA => some ⟨v, WellFormed.tFloat, false, fD, [fA], rowRsq⟩
  | .vtbi _ v fD fA fB => some ⟨v, WellFormed.tFloat, false, fD, [fA, fB], rowTbi⟩
  | .viadd _ v fD fA fB => some ⟨v, WellFormed.tInt, false, fD, [fA, fB], rowIadd⟩
  | .visub _ v fD fA fB => some ⟨v, WellFormed.tInt, false, fD, [fA, fB], rowIsub⟩
  | .vimul _ v fD fA fB => some ⟨v, WellFormed.tInt, false, fD, [fA, fB], rowImul⟩
  | .vand _ v fD fA fB => some ⟨v, WellFormed.tAll, false, fD, [fA, fB], rowAnd⟩
  | .vor _ v fD fA fB => some ⟨v, WellFormed.tAll, false, fD, [fA, fB], rowOr⟩
  | .vxor _ v fD fA fB => some ⟨v, WellFormed.tAll, false, fD, [fA, fB], rowXor⟩
  | .vshl _ v fD fA fB => some ⟨v, WellFormed.tInt, false, fD, [fA, fB], rowShl⟩
  | .vshr _ v fD fA fB => some ⟨v, WellFormed.tInt, false, fD, [fA, fB], rowShr⟩
  | .vred _ v op fD fA => some ⟨v, WellFormed.tFloatInt, true, fD, [fA], rowRed op⟩
  | .vscan _ v op x fD fA => some ⟨v, WellFormed.tFloatInt, true, fD, [fA], rowScan op x⟩
  | .vmov _ v fD fA => some ⟨v, WellFormed.tAll, false, fD, [fA], rowMov⟩
  | .viota _ v fD start => some ⟨v, WellFormed.tInt, false, fD, [], rowIota start⟩
  | .vperm _ v fD fA fB => some ⟨v, WellFormed.tAll, false, fD, [fA, fB], rowPerm⟩
  | .vxpnd _ v fD fA => some ⟨v, WellFormed.tAll, false, fD, [fA], rowXpnd⟩
  | .vradix _ v fD fA inv desc => some ⟨v, WellFormed.tAll, false, fD, [fA], rowRadix inv desc⟩
  | _ => none

/-- The bits of the `k`-th source row, zero where there is none. -/
abbrev Dev.argRow (d : Dev) (srcs : List Nat) (k : Nat) : RowBits := ((srcs[k]?).map (fun r => (d.row r).v)).getD 0

/-- The sources of an instruction read in the order of their fields (R28). -/
def Dev.readSrcs (d : Dev) : List Nat → Res (List RowData × Dev)
  | [] => .ok ([], d)
  | a :: as => do
    let (x, d) ← d.src a
    let (xs, d) ← readSrcs d as
    pure (x :: xs, d)

/-! ### Determinants -/

/-- The determinant of the first `n` rows and columns, expanded along its first row (R332). -/
def detRows : Nat → (Nat → Nat → Int) → Int
  | 0, _ => 1
  | n + 1, m => ((List.range (n + 1)).map (fun k =>
      (-1) ^ k * m 0 k * detRows n (fun i j => m (i + 1) (if j < k then j else j + 1)))).sum

/-! ### Step programs -/

/-- The unit of `cur` stands at an instruction of the step `r`: the step goes on, its owner lives, and the limit of R347 is not
reached. -/
abbrev Dev.stepAt (d : Dev) (r : StepRun) : Prop :=
  (d.sampler d.cur.unit).run = some r ∧ r.ended = none ∧ r.killed = false ∧ r.count < 65536

/-- A step past the instruction that it stands at. -/
abbrev StepRun.passed (r : StepRun) : StepRun := { r with pc := r.pc + 1, count := r.count + 1 }

/-- A step over with a status, FALLBACK emitted with ALL-MASKED (R349). -/
abbrev StepRun.endedWith (r : StepRun) (st : Nat) : StepRun :=
  { r with ended := some st, emits := if st = 1 then r.emits ++ [r.params.fallback] else r.emits }

/-- An instruction of a step completes: the step of the unit is then `r`, and the rest of the device is `d`. -/
abbrev StepLeaves (i : Instr) (s : State) (d : Dev) (r : StepRun) : Prop :=
  exec i s = .next (s.with
    { (d.endWaits (.unit s.dev.cur.unit)).setSampler s.dev.cur.unit { d.sampler s.dev.cur.unit with run := some r } with cur := s.dev.cur })

/-- An instruction of a step that reads no memory completes. -/
abbrev StepTo (i : Instr) (s : State) (r : StepRun) : Prop := StepLeaves i s { s.dev with verdict := .done } r

/-- An instruction ends its step with a status (R349). -/
abbrev StepEnds (i : Instr) (s : State) (r : StepRun) (st : Nat) : Prop := StepLeaves i s { s.dev with verdict := .done } (r.endedWith st)

/-- An instruction of a step waits for lines of a link, which the unit has asked for, and the step stands where it stood (R384). -/
abbrev StepWaits (i : Instr) (s : State) (r : StepRun) (w : Wait) : Prop :=
  exec i s = .next (s.with { ({ s.dev with verdict := .done }.asUnit s.dev.cur.unit r.params.own).keepAccess w with
    cur := s.dev.cur, verdict := .waiting (Dev.bareWait w) })

/-- An instruction of a step completes, and its whole effect is the value of register `fd` (R358). -/
def StepSets (i : Instr) (s : State) (r : StepRun) (fd : Nat) (v : Word) (p : Bool) : Prop :=
  ∃ r', StepTo i s r' ∧ r'.reg fd = (if fd = 0 then {} else ⟨v, p⟩) ∧ (∀ k, k ≠ fd → r'.reg k = r.reg k)
    ∧ { r' with g := r.g, kinds := r.kinds } = r.passed

/-- An instruction commits poison in its step: the step ends with POISON, and a working owner is killed (R359). -/
def StepPoisons (i : Instr) (s : State) (r : StepRun) : Prop :=
  ∃ u, exec i s = .next u ∧ ((u.dev.sampler s.dev.cur.unit).run).bind (·.ended) = some 5
    ∧ ((s.dev.ctx r.params.own).state ≠ .free → (u.dev.ctx r.params.own).state = .killed)

/-- The sum of the probabilities of the first `n` candidates, in FP64 and in their order (R353). -/
abbrev StepRun.sumTo (r : StepRun) (n : Nat) : FVal :=
  valF f64 ((r.list.take n).foldl (fun s c => (faddF f64 s (rne f64 (valF f32 c.2)).1).1) 0)

/-! ### The module -/

/-- The life of a module in force (R10, R12): it is sealed exactly when a cause says why. -/
abbrev Mod.sealedRight (m : Mod) : Prop := m.life = .sealedOff ↔ m.sealCause ≠ 0

end Sys2Proof.Machine
end

