-- ==== Sys2Proof/Certificates/Slice0/Obligations.lean ====
section
/-!
DEFINITION. The statements for the provers.
-/

open Sys2Proof Sys2Proof.Machine Sys2Proof.Word

/-! ### Scalar integers (spec/05_scalar.md R91 to R93) -/

/-- R92, R87: what each class-0x0 instruction with a register result leaves in its destination, with the OR of the poison of what it
reads; nothing else changes but tokens. The registers are those of the stream that runs (R29, R93). Division truncates toward zero,
division by zero gives all ones, and -2^63 by -1 gives -2^63; the remainder is the dividend less quotient times divisor, and takes the
sign of the dividend. The quotient of MULH and MUL together is the exact product. In the S stream register 0 reads as zero without
poison, and a result written to it changes nothing but tokens (R29). In the other streams a0 takes the result (R93). -/
def Obligations.IntegerResults : Prop :=
  (∀ (s : State) (h : Hdr) (z : Bool) (fd fa fb cn : Nat) (imm : Int), s.dev.lets h →
    let a := (s.dev.reg fa).v
    let b := (s.dev.reg fb).v
    let p := (s.dev.reg fa).p || (s.dev.reg fb).p
    Gives (.add h fd fa fb) s h fd ⟨a + b, p⟩ ∧ Gives (.sub h fd fa fb) s h fd ⟨a - b, p⟩
    ∧ Gives (.addi h fd fa imm) s h fd ⟨a + BitVec.ofInt 64 imm, (s.dev.reg fa).p⟩
    ∧ Gives (.mul h fd fa fb) s h fd ⟨a * b, p⟩ ∧ Gives (.mulh h z fd fa fb) s h fd ⟨mulHigh z a b, p⟩
    ∧ Gives (.div h z fd fa fb) s h fd ⟨qdiv z a b, p⟩ ∧ Gives (.rem h z fd fa fb) s h fd ⟨a - qdiv z a b * b, p⟩
    ∧ Gives (.andR h fd fa fb) s h fd ⟨a &&& b, p⟩ ∧ Gives (.orR h fd fa fb) s h fd ⟨a ||| b, p⟩
    ∧ Gives (.xorR h fd fa fb) s h fd ⟨a ^^^ b, p⟩ ∧ Gives (.andnR h fd fa fb) s h fd ⟨a &&& ~~~b, p⟩
    ∧ Gives (.minR h true fd fa fb) s h fd ⟨if b.ult a then b else a, p⟩
    ∧ Gives (.minR h false fd fa fb) s h fd ⟨if b.slt a then b else a, p⟩
    ∧ Gives (.maxR h true fd fa fb) s h fd ⟨if a.ult b then b else a, p⟩
    ∧ Gives (.maxR h false fd fa fb) s h fd ⟨if a.slt b then b else a, p⟩
    ∧ Gives (.sel h fd fa fb cn) s h fd ⟨if (s.dev.creg cn).v then a else b, (s.dev.creg cn).p || p⟩
    ∧ Gives (.li h fd imm) s h fd ⟨BitVec.ofInt 64 imm, false⟩ ∧ Gives (.mov h fd fa) s h fd ⟨a, (s.dev.reg fa).p⟩)
  ∧ (∀ (s : State) (h : Hdr) (fd fa fb : Nat), s.dev.lets h →
      let a := (s.dev.reg fa).v
      let b := (s.dev.reg fb).v
      let p := (s.dev.reg fa).p || (s.dev.reg fb).p
      ∃ qs qu rs ru hs hu : Word,
        Gives (.div h false fd fa fb) s h fd ⟨qs, p⟩ ∧ Gives (.div h true fd fa fb) s h fd ⟨qu, p⟩
        ∧ Gives (.rem h false fd fa fb) s h fd ⟨rs, p⟩ ∧ Gives (.rem h true fd fa fb) s h fd ⟨ru, p⟩
        ∧ Gives (.mulh h false fd fa fb) s h fd ⟨hs, p⟩ ∧ Gives (.mulh h true fd fa fb) s h fd ⟨hu, p⟩
        ∧ (b = 0 → qs = BitVec.allOnes 64 ∧ qu = BitVec.allOnes 64 ∧ rs = a ∧ ru = a)
        ∧ (b ≠ 0 → qu.toNat = a.toNat / b.toNat ∧ ru.toNat = a.toNat % b.toNat)
        ∧ (a.toInt = -2 ^ 63 ∧ b.toInt = -1 → qs.toInt = -2 ^ 63 ∧ rs = 0)
        ∧ (b ≠ 0 ∧ ¬(a.toInt = -2 ^ 63 ∧ b.toInt = -1) →
            qs.toInt = a.toInt.tdiv b.toInt ∧ rs.toInt = a.toInt.tmod b.toInt)
        ∧ hu.toNat * 2 ^ 64 + (a * b).toNat = a.toNat * b.toNat
        ∧ hs.toInt * 2 ^ 64 + (a * b).toNat = a.toInt * b.toInt)
  ∧ (∀ (s : State) (h : Hdr) (fa fb : Nat) (imm : Int), s.dev.lets h →
      (s.dev.cur.eng = .S → s.dev.reg 0 = {} ∧ Does (.add h 0 fa fb) s h s.dev ∧ Does (.li h 0 imm) s h s.dev
        ∧ Does (.mov h 0 fa) s h s.dev)
      ∧ (s.dev.cur.eng ≠ .S → ∃ t, exec (.add h 0 fa fb) s = .next t
          ∧ t.dev.reg 0 = ⟨(s.dev.reg fa).v + (s.dev.reg fb).v, (s.dev.reg fa).p || (s.dev.reg fb).p⟩))

/-- R92: the shifts by a register use its low six bits, the others their immediate; a rotation by `n` joins the two shifted parts. LIH,
EXT and INS replace or extract bit fields; CLZ and POPC count bits. CMP writes its condition register alone. -/
def Obligations.ShiftAndFieldResults : Prop :=
  ∀ (s : State) (h : Hdr) (z : Bool) (fd fa fb n cond cd pos lm imm : Nat), s.dev.lets h → n < 64 → cond < 6 → pos + lm < 64 →
    imm < 2 ^ 25 →
    let a := (s.dev.reg fa).v
    let b := (s.dev.reg fb).v
    let o := (s.dev.reg fd).v
    let k := b.toNat % 64
    let pa := (s.dev.reg fa).p
    let p := pa || (s.dev.reg fb).p
    Gives (.shl h fd fa fb) s h fd ⟨a <<< k, p⟩ ∧ Gives (.shlImm h fd fa n) s h fd ⟨a <<< n, pa⟩
    ∧ Gives (.shr h fd fa fb) s h fd ⟨a >>> k, p⟩ ∧ Gives (.shrImm h fd fa n) s h fd ⟨a >>> n, pa⟩
    ∧ Gives (.sar h fd fa fb) s h fd ⟨a.sshiftRight k, p⟩ ∧ Gives (.sarImm h fd fa n) s h fd ⟨a.sshiftRight n, pa⟩
    ∧ Gives (.rot h fd fa fb) s h fd ⟨if k = 0 then a else a >>> k ||| a <<< (64 - k), p⟩
    ∧ Gives (.rotImm h fd fa n) s h fd ⟨if n = 0 then a else a >>> n ||| a <<< (64 - n), pa⟩
    ∧ Gives (.clz h fd fa) s h fd ⟨BitVec.ofNat 64 (clzNat a.toNat 64), pa⟩
    ∧ Gives (.popc h fd fa) s h fd ⟨BitVec.ofNat 64 (popcNat a.toNat 64), pa⟩
    ∧ Gives (.lih h fd imm) s h fd ⟨BitVec.ofNat 25 imm ++ o.extractLsb' 0 39, (s.dev.reg fd).p⟩
    ∧ Gives (.ext h true fd fa pos lm) s h fd ⟨(a.extractLsb' pos (lm + 1)).setWidth 64, pa⟩
    ∧ Gives (.ext h false fd fa pos lm) s h fd ⟨(a.extractLsb' pos (lm + 1)).signExtend 64, pa⟩
    ∧ (∃ r : Word, Gives (.ins h fd fa pos lm) s h fd ⟨r, (s.dev.reg fd).p || pa⟩
        ∧ ∀ i, i < 64 → r.getLsbD i = if pos ≤ i ∧ i ≤ pos + lm then a.getLsbD (i - pos) else o.getLsbD i)
    ∧ (∃ c : Bool, Does (.cmp h z cond cd fa fb) s h (s.dev.setCreg cd ⟨c, p⟩)
        ∧ (c = true ↔ (cond = 0 ∧ a = b) ∨ (cond = 1 ∧ a ≠ b)
          ∨ (cond = 2 ∧ (if z then a.toNat < b.toNat else a.toInt < b.toInt))
          ∨ (cond = 3 ∧ (if z then b.toNat ≤ a.toNat else b.toInt ≤ a.toInt))
          ∨ (cond = 4 ∧ (if z then a.toNat ≤ b.toNat else a.toInt ≤ b.toInt))
          ∨ (cond = 5 ∧ (if z then b.toNat < a.toNat else b.toInt < a.toInt))))

/-! ### Scalar floating point (spec/05_scalar.md R94 to R99) -/

/-- R96, R98: each class-0x1 arithmetic result is the exact one rounded once to the type, with its flags in COR_SFLAGS (COR_SVFLAGS in
service mode, R89); FMIN and FMAX choose an operand; FCVT rounds the source value. -/
def Obligations.FloatResults : Prop :=
  ∀ (s : State) (h : Hdr) (t td ts fd fa fb fc : Nat), s.dev.lets h →
    let f := fmtOf t
    let x := valF f (s.dev.fp t fa)
    let y := valF f (s.dev.fp t fb)
    let p := (s.dev.reg fa).p || (s.dev.reg fb).p
    Does (.fadd h t fd fa fb) s h (s.dev.putF fd p (rneOp f (x.add y)))
    ∧ Does (.fsub h t fd fa fb) s h (s.dev.putF fd p (rneOp f (x.add y.negate)))
    ∧ Does (.fmul h t fd fa fb) s h (s.dev.putF fd p (rneOp f (x.mul y)))
    ∧ Does (.fdiv h t fd fa fb) s h (s.dev.putF fd p (rneOp f (x.div y)))
    ∧ Does (.ffma h t fd fa fb fc) s h
        (s.dev.putF fd (p || (s.dev.reg fc).p) (ffmaF f (s.dev.fp t fa) (s.dev.fp t fb) (s.dev.fp t fc)))
    ∧ Does (.fsqrt h t fd fa) s h (s.dev.putF fd (s.dev.reg fa).p (fsqrtF f (s.dev.fp t fa)))
    ∧ Does (.fmin h t fd fa fb) s h (s.dev.putF fd p (fminF f (s.dev.fp t fa) (s.dev.fp t fb)))
    ∧ Does (.fmax h t fd fa fb) s h (s.dev.putF fd p (fmaxF f (s.dev.fp t fa) (s.dev.fp t fb)))
    ∧ Does (.fcvt h td ts fd fa) s h (s.dev.putF fd (s.dev.reg fa).p (fcvt td ts (s.dev.reg fa).v))

/-- R96, R68: an operation with a NaN operand gives the canonical NaN of its type and sets no flag (FFMA too beside 0 times infinity,
which is the model's choice of log 43); FMIN and FMAX with one NaN operand
give the other one, and with two the canonical NaN. R95: a result of FP32, FP16 or BF16 leaves zero in the register above the value.
-/
def Obligations.FloatNaNAndRange : Prop :=
  (∀ (s : State) (h : Hdr) (t fd fa fb fc : Nat), s.dev.lets h →
      let f := fmtOf t
      let na := (valF f (s.dev.fp t fa)).isNan
      let nb := (valF f (s.dev.fp t fb)).isNan
      let p := (s.dev.reg fa).p || (s.dev.reg fb).p
      (na || nb →
        Does (.fadd h t fd fa fb) s h (s.dev.putF fd p (f.nan, 0)) ∧ Does (.fsub h t fd fa fb) s h (s.dev.putF fd p (f.nan, 0))
        ∧ Does (.fmul h t fd fa fb) s h (s.dev.putF fd p (f.nan, 0)) ∧ Does (.fdiv h t fd fa fb) s h (s.dev.putF fd p (f.nan, 0)))
      ∧ (na || nb || (valF f (s.dev.fp t fc)).isNan →
        Does (.ffma h t fd fa fb fc) s h (s.dev.putF fd (p || (s.dev.reg fc).p) (f.nan, 0)))
      ∧ (na → Does (.fsqrt h t fd fa) s h (s.dev.putF fd (s.dev.reg fa).p (f.nan, 0)))
      ∧ (na && nb → Does (.fmin h t fd fa fb) s h (s.dev.putF fd p (f.nan, 0))
          ∧ Does (.fmax h t fd fa fb) s h (s.dev.putF fd p (f.nan, 0)))
      ∧ (na && !nb → Does (.fmin h t fd fa fb) s h (s.dev.putF fd p (s.dev.fp t fb, 0))
          ∧ Does (.fmax h t fd fa fb) s h (s.dev.putF fd p (s.dev.fp t fb, 0)))
      ∧ (!na && nb → Does (.fmin h t fd fa fb) s h (s.dev.putF fd p (s.dev.fp t fa, 0))
          ∧ Does (.fmax h t fd fa fb) s h (s.dev.putF fd p (s.dev.fp t fa, 0))))
  ∧ (∀ (s : State) (h : Hdr) (t fd fa fb fc : Nat) (i : Instr), s.dev.lets h → t ∈ [1, 2, 3, 4] →
      i ∈ [.fadd h t fd fa fb, .fsub h t fd fa fb, .fmul h t fd fa fb, .fdiv h t fd fa fb, .ffma h t fd fa fb fc,
           .fsqrt h t fd fa, .fmin h t fd fa fb, .fmax h t fd fa fb] →
      ∃ u, exec i s = .next u ∧ u.dev.verdict = .done ∧ (u.dev.reg fd).v.toNat < 2 ^ (8 * typeBytes t))

/-- R97: FCMP writes the outcome of its condition to its condition register; −0 compares equal to +0; with a NaN operand the order
relations are false and set NV, NE and UNO are true, EQ and ORD false. R99: FCLASS writes a value with exactly one bit set, by the
sign, exponent and fraction fields of the operand; it sets no flag. -/
def Obligations.FloatCompareAndClass : Prop :=
  (∀ (s : State) (h : Hdr) (t cond cd fa fb : Nat), s.dev.lets h → cond < 8 →
      let x := valF (fmtOf t) (s.dev.fp t fa)
      let y := valF (fmtOf t) (s.dev.fp t fb)
      let p := (s.dev.reg fa).p || (s.dev.reg fb).p
      let nan := x.isNan || y.isNan
      ∃ (c : Bool) (fl : Nat), Does (.fcmp h t cond cd fa fb) s h ((s.dev.setCreg cd ⟨c, p⟩).raiseS fl)
        ∧ (nan = true → (c = true ↔ cond = 1 ∨ cond = 6) ∧ fl = if 2 ≤ cond ∧ cond ≤ 5 then fNV else 0)
        ∧ (nan = false → fl = 0 ∧ (c = true ↔ (cond = 0 ∧ x.lt y = false ∧ y.lt x = false)
            ∨ (cond = 1 ∧ (x.lt y = true ∨ y.lt x = true)) ∨ (cond = 2 ∧ x.lt y = true) ∨ (cond = 3 ∧ x.lt y = false)
            ∨ (cond = 4 ∧ y.lt x = false) ∨ (cond = 5 ∧ y.lt x = true) ∨ cond = 7))
        ∧ ((∃ u v d e, x = .fin u 0 d ∧ y = .fin v 0 e) → (c = true ↔ cond = 0 ∨ cond = 3 ∨ cond = 4 ∨ cond = 7)))
  ∧ (∀ (s : State) (h : Hdr) (t fd fa : Nat), s.dev.lets h →
      let f := fmtOf t
      let v := s.dev.fp t fa
      let neg := flag v f.signBit
      let e := fld v f.m f.e
      let m := fld v 0 f.m
      let top := 2 ^ f.e - 1
      ∃ n, Gives (.fclass h t fd fa) s h fd ⟨BitVec.ofNat 64 (2 ^ n), (s.dev.reg fa).p⟩ ∧ n ≤ 8
        ∧ (n = 8 ↔ e = top ∧ m ≠ 0) ∧ (n = 0 ↔ e = top ∧ m = 0 ∧ neg = true) ∧ (n = 7 ↔ e = top ∧ m = 0 ∧ neg = false)
        ∧ (n = 3 ↔ e = 0 ∧ m = 0 ∧ neg = true) ∧ (n = 4 ↔ e = 0 ∧ m = 0 ∧ neg = false)
        ∧ (n = 2 ↔ e = 0 ∧ m ≠ 0 ∧ neg = true) ∧ (n = 5 ↔ e = 0 ∧ m ≠ 0 ∧ neg = false)
        ∧ (n = 1 ↔ e ≠ 0 ∧ e ≠ top ∧ neg = true) ∧ (n = 6 ↔ e ≠ 0 ∧ e ≠ top ∧ neg = false))

/-! ### Scalar memory (spec/05_scalar.md R100 to R113) -/

/-- R102, R105: LD, LDA and a CHKL without its entry read the access width at the effective address that R101 lets through, extend it
(R95, R100) and OR in the poison of the line; the bytes behind a copy in the residency window read zero (R296), and a register of
the MMIO window answers with what its read gives (R7). Outside that window no byte of memory changes. LDA advances the logical clock
besides (R182). R87: a poisoned base commits, with ea as the address of the record (the model's choice, log 41). R101: where the access is refused the instruction takes that fault, and where it waits the
instruction waits. R104, R105: LDS reads as LD does and leaves a hoist-guard entry; with a poisoned base or a failed check it writes
zero, leaves no entry and does not fault; cause 0x30 it takes (the model's choice, log 44). A CHKL that finds its entry leaves every register as it is and uses the
entry up. -/
def Obligations.LoadResults : Prop :=
  ∀ (s : State) (h : Hdr) (t sc fd fa : Nat) (off : Int), s.dev.lets h →
    let ea := s.dev.eaOf fa off
    let n := memBytes t
    let found := s.dev.stm.hoist.any (fun e => e.reg == fd && e.ea == ea && e.t == t && e.sc == sc)
    ((s.dev.reg fa).p = true →
      Commits (.ld h t sc fd fa off) s ea ∧ Commits (.lda h t sc fd fa off) s ea ∧ Commits (.chkl h t sc fd fa off) s ea
      ∧ Gives (.lds h t sc fd fa off) s h fd {})
    ∧ ((s.dev.reg fa).p = false →
      (∀ pa d, s.dev.accessS ea n n .load ea = .ok (pa, d) →
        let r : Dev :=
          if targetOf pa = .mmio then (d.mmioLoad s.mod pa n).2.setReg fd ⟨extendLoad t (d.mmioLoad s.mod pa n).1, false⟩
          else if targetOf pa = .zeros then d.setReg fd ⟨extendLoad t 0, false⟩
          else d.setReg fd ⟨extendLoad t (d.ld pa n), d.linePoisoned (lineOf pa)⟩
        Does (.ld h t sc fd fa off) s h r ∧ Does (.lda h t sc fd fa off) s h r.advance
        ∧ (found = false → Does (.chkl h t sc fd fa off) s h r) ∧ (targetOf pa ≠ .mmio → r.mem = s.dev.mem))
      ∧ (∀ e, s.dev.accessS ea n n .load ea = .error (.trap e) →
        exec (.ld h t sc fd fa off) s = .next (s.faulted e) ∧ exec (.lda h t sc fd fa off) s = .next (s.faulted e)
        ∧ (found = false → exec (.chkl h t sc fd fa off) s = .next (s.faulted e)))
      ∧ (∀ w, s.dev.accessS ea n n .load ea = .error (.wait w) →
        Waits (.ld h t sc fd fa off) s w ∧ Waits (.lda h t sc fd fa off) s w ∧ (found = false → Waits (.chkl h t sc fd fa off) s w))
      ∧ (found = true → Does (.chkl h t sc fd fa off) s h
          (s.dev.setStm { s.dev.stm with hoist := s.dev.stm.hoist.filter (·.reg != fd) }))
      ∧ (∀ e, s.dev.accessS ea n n .advanced ea = .error (.trap e) →
        (e.cause ≠ 0x30 → Does (.lds h t sc fd fa off) s h ((s.dev.countSeen e.seen).setReg fd {}))
        ∧ (e.cause = 0x30 → exec (.lds h t sc fd fa off) s = .next (s.faulted e)))
      ∧ (∀ w, s.dev.accessS ea n n .advanced ea = .error (.wait w) → Waits (.lds h t sc fd fa off) s w)
      ∧ (∀ pa d, s.dev.accessS ea n n .advanced ea = .ok (pa, d) →
        let d1 := d.setReg fd ⟨extendLoad t (if targetOf pa = .zeros then 0 else d.ld pa n), d.linePoisoned (lineOf pa)⟩
        Does (.lds h t sc fd fa off) s h (d1.setStm { d1.stm with
          hoist := (d1.stm.hoist ++ [({ reg := fd, ea := ea, t := t, sc := sc, line := lineOf pa } : Hoist)]).drop (d1.stm.hoist.length + 1 - 24) })))

/-- R102, R103, R177: ST and STL write the low bytes of sd at the effective address that R101 lets through, and poison the line when sd
is poisoned at a scope below .sy; a poisoned sd commits at .sy, where an access of the MMIO window is performed (R191), with ea as the
address of the record (the model's choice, log 41); a store into the MMIO window acts on the register (R7). R102, R6: a store changes the bytes of its
width at its physical address, where the value then stands little-endian, and no other byte of memory; every register of the stream
is as it was. Where a channel is mapped out the bytes of its lines are not there (R20). -/
def Obligations.StoreResults : Prop :=
  (∀ (s : State) (h : Hdr) (t sc fd fa pa : Nat) (off : Int) (d : Dev), s.dev.lets h →
      let ea := s.dev.eaOf fa off
      let n := memBytes t
      let x := s.dev.reg fd
      (s.dev.reg fa).p = false → s.dev.accessS ea n n .store ea = .ok (pa, d) →
      let v := x.v.toNat % 2 ^ (8 * n)
      let r : Dev :=
        if targetOf pa = .mmio then d.mmioStore s.mod (some (Dev.clusterOf d.cur.core)) (Dev.mmioOffset pa) n v else d.store pa n v x.p
      let commits := x.p = true ∧ (sc = 3 ∨ targetOf pa = .mmio)
      (¬commits → Does (.st h t sc fd fa off) s h r ∧ Does (.stl h t sc fd fa off) s h r)
      ∧ (commits → Commits (.st h t sc fd fa off) s ea ∧ Commits (.stl h t sc fd fa off) s ea))
  ∧ (∀ (s u : State) (h : Hdr) (t sc fd fa pa : Nat) (off : Int) (d : Dev) (i : Instr),
      i ∈ [.st h t sc fd fa off, .stl h t sc fd fa off] → s.dev.lets h → (s.dev.reg fa).p = false → s.dev.lakeMask = 0 →
      let ea := s.dev.eaOf fa off
      let n := memBytes t
      s.dev.accessS ea n n .store ea = .ok (pa, d) → targetOf pa ≠ .mmio → exec i s = .next u → u.dev.verdict = .done →
      (∀ a, a < pa ∨ pa + n ≤ a → Memory.byte u.dev.mem a = Memory.byte s.dev.mem a)
      ∧ u.dev.mem.read pa n = (s.dev.reg fd).v.toNat % 2 ^ (8 * n)
      ∧ (∀ k, u.dev.reg k = s.dev.reg k) ∧ (∀ k, u.dev.creg k = s.dev.creg k) ∧ (∀ k, u.dev.breg k = s.dev.breg k)
      ∧ (∀ k, (u.dev.grp).sflags = (s.dev.grp).sflags ∧ u.dev.queue k = s.dev.queue k))

/-- R107, R108: AMO writes the operation's result and leaves the old value, extended, in sd, whose own poison before does not reach it
(the model's choice, log 42); CAS writes sb where the value read equals
sd at the access width, says so in its condition register, and leaves the old value in sd. -/
def Obligations.AtomicResults : Prop :=
  ∀ (s : State) (h : Hdr) (t sc op cn fd fa fb pa : Nat) (d : Dev), s.dev.lets h →
    let ea := (s.dev.reg fa).v.toNat
    let n := memBytes t
    let b := s.dev.reg fb
    let e := s.dev.reg fd
    (s.dev.reg fa).p = false → s.dev.accessS ea n n .atomic ea = .ok (pa, d) →
    let lp := d.linePoisoned (lineOf pa)
    let old := d.ld pa n
    let r := Dev.amoOp op (8 * n) old (b.v.toNat % 2 ^ (8 * n))
    let p := e.p || b.p || lp
    (¬(sc = 3 ∧ (b.p || e.p || lp) = true) →
      Does (.amo h t sc op fd fa fb) s h
        (((d.store pa n r.1 (b.p || e.p || lp)).setReg fd ⟨extendLoad t old, b.p || lp⟩).raiseS r.2))
    ∧ (old = e.v.toNat % 2 ^ (8 * n) → ¬(sc = 3 ∧ b.p = true) →
      Does (.cas h t sc cn fd fa fb) s h
        (((d.store pa n (b.v.toNat % 2 ^ (8 * n)) b.p).setReg fd ⟨extendLoad t old, p⟩).setCreg cn ⟨true, p⟩))
    ∧ (old ≠ e.v.toNat % 2 ^ (8 * n) →
      Does (.cas h t sc cn fd fa fb) s h ((d.setReg fd ⟨extendLoad t old, p⟩).setCreg cn ⟨false, p⟩))

/-- R106, R110 to R113: a prefetch writes no register and no memory; a fence finds the one order of accesses kept (log 2); SMAP of an
aligned range maps it into window `w` with status 0 where it fits and overlaps no other window, gives status 1 where the core has no
room and status 2 where it overlaps, and a length of 0 unmaps; a misaligned or too long range and one that is not canonical fault;
SFLUSH writes back, at .sy to the host too; CINV does nothing on an empty range, with op 2 has the kernels of the range retire when the
cycle ends (R235), and cleans the lines of its range with ops 0 and 1. What the model chose: SFLUSH and SMAP in service mode (log 37), the
whole lines and the groups that CINV reaches (log 47), the order of the checks of SMAP and of its statuses (log 85). -/
def Obligations.CacheControl : Prop :=
  ∀ (s : State) (h : Hdr) (sc tgt mask fd fa fb w op : Nat) (inv : Bool) (off : Int), s.dev.lets h →
    (∃ d, Does (.pref h tgt fa off) s h d ∧ d.mem = s.dev.mem ∧ (∀ k, d.reg k = s.dev.reg k) ∧ (∀ k, d.creg k = s.dev.creg k))
    ∧ Does (.fence h sc mask) s h s.dev
    ∧ (s.dev.cur.svc = true → Does (.sflush h sc w inv) s h s.dev)
    ∧ (let dirty := ((Dev.windowEntries s.dev.grp w).map (·.2)).filter (·.dirty)
       s.dev.cur.svc = false → (dirty = [] ∨ s.dev.peerHeld s.dev.cur.core = false) →
        (sc ≠ 3 → Does (.sflush h sc w inv) s h (s.dev.setGrp (Dev.flushWindow s.dev.grp w inv)))
        ∧ (sc = 3 → ∀ d, s.dev.hostBack (fun x => dirty.any (fun e => Dev.realLine e.phys == x)) = .ok d →
            Does (.sflush h sc w inv) s h (d.setGrp (Dev.flushWindow d.grp w inv))))
    ∧ ((s.dev.reg fa).p = false → (s.dev.reg fb).p = false → canonical (s.dev.reg fa).v.toNat = true →
        let lo := (s.dev.reg fa).v.toNat % 2 ^ 54 / 64 * 64
        let hi := ((s.dev.reg fa).v.toNat % 2 ^ 54 + (s.dev.reg fb).v.toNat + 63) / 64 * 64
        ((s.dev.reg fb).v = 0 → Does (.cinv h sc fa fb op) s h s.dev)
        ∧ ((s.dev.reg fb).v ≠ 0 → s.dev.cur.svc = false → Does (.cinv h sc fa fb 2) s h
            { s.dev with retiring := s.dev.retiring ++ [(s.dev.myCtx, lo, hi)] })
        ∧ ((s.dev.reg fb).v ≠ 0 → op < 2 → ∀ d, (s.dev.cacheRuns lo hi).2.cleanRuns sc op (s.dev.cacheRuns lo hi).1 = .ok d →
            Does (.cinv h sc fa fb op) s h d))
    ∧ ((s.dev.reg fa).p = false → (s.dev.reg fb).p = false →
        let ea := (s.dev.reg fa).v.toNat
        let len := (s.dev.reg fb).v.toNat
        let even := ea % 4096 = 0 ∧ len % 4096 = 0
        (¬ even → Faults (.smap h fd fa fb w) s 5 ea)
        ∧ (even → 2 ^ 20 < len → Faults (.smap h fd fa fb w) s 4 s.dev.cur.pc.toNat)
        ∧ (even → len ≤ 2 ^ 20 → canonical ea = false → Faults (.smap h fd fa fb w) s 0x0B ea)
        ∧ (even → len ≤ 2 ^ 20 → canonical ea = true → s.dev.cur.svc = false →
            ((Dev.windowEntries s.dev.grp w).all (fun e => !e.2.dirty) = true ∨ s.dev.peerHeld s.dev.cur.core = false) →
            let d := s.dev.setGrp (Dev.dropWindow s.dev.grp w)
            let base := ea % 2 ^ 54
            let fits := d.mappedBytes d.cur.core + len ≤ 2 ^ 20
            let meets := d.grp.windows.any (fun x => x.2.1 < base + len && base < x.2.1 + x.2.2) = true
            (len = 0 → Does (.smap h fd fa fb w) s h (d.setReg fd {}))
            ∧ (len ≠ 0 → ¬ fits → Does (.smap h fd fa fb w) s h (d.setReg fd ⟨1, false⟩))
            ∧ (len ≠ 0 → fits → meets → Does (.smap h fd fa fb w) s h (d.setReg fd ⟨2, false⟩))
            ∧ (len ≠ 0 → fits → ¬ meets → Does (.smap h fd fa fb w) s h
                  ((d.setGrp { d.grp with windows := Map.set d.grp.windows w (base, len) }).setReg fd {}))))

/-! ### Control (spec/12_group.md R241 to R259, spec/13_barrier.md R264 to R272) -/

/-- R243, R244: PBR prepares a canonical, 8-byte aligned target, relative to its own address or from a register; a taken BR or BRL
leaves the transfer to it pending for two issue groups, of which the second goes to the target, leaves the loops that the branch
exits and, where BRL could not tell the address after it before, sets its register to that address (the model's choice, log 16; R244 has
the register written at issue); one not taken does nothing. A target that is not canonical or not aligned, a poisoned target, a poisoned
condition and too many exits are faults; the address of the record of a poisoned target is the target (the model's choice, log 41). R245: no control
instruction that R245 bars may stand in a delay group of a taken branch: a branch, a loop instruction, RDV, RETIRE and SPAWN fault
there with cause 0x02. -/
def Obligations.BranchResults : Prop :=
  (∀ (s : State) (h : Hdr) (bn bl cn fa n mode : Nat) (imm : Int), s.dev.lets h →
      let t : Word := s.dev.cur.pc + BitVec.ofInt 64 (imm * 8)
      let a := s.dev.reg fa
      let c := s.dev.creg cn
      let d := s.dev
      let prepared (v : Word) : Dev :=
        let b := d.setBreg bn v
        b.setStm { b.stm with pend := b.stm.pend.map (fun p => if p.link = some bn then { p with link := none } else p) }
      (canonical t.toNat = true → t.toNat % 8 = 0 → Does (.pbr h bn imm) s h (prepared t))
      ∧ (a.p = false → canonical a.v.toNat = true → a.v.toNat % 8 = 0 → Does (.pbrReg h bn fa) s h (prepared a.v))
      ∧ (canonical t.toNat = false → Faults (.pbr h bn imm) s 0x0B t.toNat)
      ∧ (a.p = false → canonical a.v.toNat = false → Faults (.pbrReg h bn fa) s 0x0B a.v.toNat)
      ∧ (a.p = false → canonical a.v.toNat = true → a.v.toNat % 8 ≠ 0 → Faults (.pbrReg h bn fa) s 5 a.v.toNat)
      ∧ (a.p = true → Commits (.pbrReg h bn fa) s a.v.toNat)
      ∧ (d.stm.pend = none →
        (mode ≠ 0 → c.p = true → Commits (.br h bn cn mode n) s 0 ∧ Commits (.brl h bn bl cn mode n) s 0)
        ∧ ((mode = 0 ∨ (c.p = false ∧ ((mode = 1 ∧ c.v = true) ∨ (mode = 2 ∧ c.v = false)))) →
          (d.stm.loops.length < n → Faults (.br h bn cn mode n) s 2 d.cur.pc.toNat ∧ Faults (.brl h bn bl cn mode n) s 2 d.cur.pc.toNat)
          ∧ (n ≤ d.stm.loops.length →
            Does (.br h bn cn mode n) s h (d.setStm { d.stm with pend := some ⟨d.breg bn, 2, n, none⟩ })
            ∧ (let d1 := d.setBreg bl d.cur.link
               Does (.brl h bn bl cn mode n) s h
                 (d1.setStm { d1.stm with pend := some ⟨d.breg bn, 2, n, if d.cur.linkRead then none else some bl⟩ }))))
        ∧ (c.p = false → ((mode = 1 ∧ c.v = false) ∨ (mode = 2 ∧ c.v = true)) →
            Does (.br h bn cn mode n) s h d ∧ Does (.brl h bn bl cn mode n) s h d)))
  ∧ (∀ (x : Stream) (t : Word) (n : Nat) (r : Option Nat), x.pend = none →
      let y := Dev.afterDelay x (some ⟨t, 2, n, r⟩)
      let z := Dev.afterDelay x (some ⟨t, 1, n, r⟩)
      y.pend = some ⟨t, 1, n, r⟩ ∧ y.pc = x.pc ∧ y.loops = x.loops ∧ y.b = x.b
      ∧ z.pend = none ∧ z.pc = t ∧ z.loops = x.loops.drop n
      ∧ (∀ k, Map.get 0 z.b k = if r = some k then Dev.asTarget x.pc else Map.get 0 x.b k))
  ∧ (∀ (s : State) (h : Hdr) (i : Instr), s.dev.lets h → s.dev.stm.pend.isSome = true → s.dev.cur.svc = false →
      ((∃ bn cn mode n, i = .br h bn cn mode n) ∨ (∃ bn bl cn mode n, i = .brl h bn bl cn mode n) ∨ (∃ j fa n, i = .loop h j fa n)
        ∨ i = .lend h ∨ i = .retire h ∨ (∃ mask, i = .rdv h mask) ∨ (∃ fd fa fb place, i = .spawn h fd fa fb place)
        ∨ (∃ fd fa fb, i = .spawnPstart h fd fa fb) ∨ (∃ fd fa fb, i = .spawnPdrain h fd fa fb)) →
      Faults i s 2 s.dev.cur.pc.toNat)

/-- R247, R248: LOOP with a trip count opens a loop at the address after its group, with count 0 it skips to the LEND that matches; LEND
goes back to the start while iterations remain and ends the loop after the last one. A seventh loop, a LEND outside a loop and a
poisoned trip count are faults. -/
def Obligations.LoopResults : Prop :=
  ∀ (s : State) (h : Hdr) (i : Bool) (fa n : Nat), s.dev.lets h → s.dev.stm.pend = none →
    let d := s.dev
    let x := d.stm
    let count : Word := (if i then (d.reg fa).v else 0) + BitVec.ofNat 64 n
    (i = true ∧ (d.reg fa).p = true → Commits (.loop h i fa n) s 0)
    ∧ (¬(i = true ∧ (d.reg fa).p = true) →
      (x.loops.length = 6 → Faults (.loop h i fa n) s 2 d.cur.pc.toNat)
      ∧ (x.loops.length ≠ 6 → count = 0 → Does (.loop h i fa n) s h (d.setStm { x with skip := some (0, d.cur.next) }))
      ∧ (x.loops.length ≠ 6 → count ≠ 0 →
          Does (.loop h i fa n) s h (d.setStm { x with loops := ⟨d.cur.next, count, 1⟩ :: x.loops })))
    ∧ (x.loops = [] → Faults (.lend h) s 2 d.cur.pc.toNat)
    ∧ (∀ l ls, x.loops = l :: ls →
      (1 < l.remaining.toNat → Does (.lend h) s h
        (d.setStm { x with loops := { l with remaining := l.remaining - 1, iter := l.iter + 1 } :: ls, pc := l.start }))
      ∧ (l.remaining.toNat ≤ 1 → Does (.lend h) s h (d.setStm { x with loops := ls })))

/-- R249: the last stream of a mask to come to its RDV lets the others of the mask go, and the others wait until then; a stream of
the mask that has retired is cause 0x19, and so is another stream's RDV with a different mask, which then faults too. R270, R271: WFE
takes the event latch or waits, and SEV sets the latches of its mask in its own group, in a group of its context, or in its context's
control group. R272, R259: PAUSE with a count yields for that many cycles after this one, and SLK sets the slack; NOP does nothing.
R250: RETIRE waits for earlier operations, then ends the stream, and the group with its last stream. What the model chose: RDV in service
mode does nothing (log 33), the record of a mismatching pair and RETIRE in service mode (log 49), and PAUSE beside an earlier yield (log
90). -/
def Obligations.SynchronizationResults : Prop :=
  ∀ (s : State) (h : Hdr) (mask fa n : Nat), s.dev.lets h →
    let d := s.dev
    let x := d.stm
    let ps := d.partners mask
    let a := (d.reg fa).v.toNat
    Does (.nop h) s h d ∧ Does (.pause h 0) s h d
    ∧ (0 < n → Does (.pause h n) s h (d.setStm { x with yieldUntil := max x.yieldUntil (d.time + n + 1) }))
    ∧ Does (.slk h n) s h (d.setStm { x with slack := n })
    ∧ (x.event = true → Does (.wfe h) s h (d.setStm { x with event := false })) ∧ (x.event = false → Waits (.wfe h) s .event)
    ∧ (d.cur.svc = false →
      (a = 0 → Does (.sev h fa mask) s h (d.setEvents d.cur.key mask))
      ∧ (∀ i, i < 2 ^ 16 → a = 2 ^ 18 + i → Does (.sev h fa mask) s h (d.setEvents (keyOf d.myCtx i) mask))
      ∧ (∀ j k, j < 2 → a = 2 ^ 19 + j → d.controlGroup (0xF0 + j) = some k → ctxOf k = d.myCtx → mask < 2 →
          Does (.sev h fa mask) s h ((d.setEvents k mask).count 49 0)))
    ∧ (∀ k g e, Map.find d.groups k = some g → g.state ≠ .pending → (g.stream e).declared = true → flag mask e.num = true →
        (((d.setEvents k mask).group k).stream e).event = true)
    ∧ (x.pend = none →
      (x.rdvGo = true → Does (.rdv h mask) s h (d.setStm { x with rdvGo := false, rdv := none }))
      ∧ (x.rdvGo = false →
        ((∀ e m, e ≠ d.cur.eng → Dev.rdvMask (d.grp.stream e) = some m → m = mask ∨ (flag mask e.num = false ∧ flag m d.cur.eng.num = false)) →
          (d.cur.svc = true → Does (.rdv h mask) s h d)
          ∧ (d.cur.svc = false → (∃ e ∈ ps, (d.grp.stream e).retired = true) → Faults (.rdv h mask) s 0x19 mask)
          ∧ (d.cur.svc = false → (∀ e ∈ ps, (d.grp.stream e).retired = false) →
            let all := x.busy = false ∧ ∀ e ∈ ps, Dev.rdvMask (d.grp.stream e) = some mask ∧ (d.grp.stream e).busy = false
            (all → Does (.rdv h mask) s h
              (d.setGrp (ps.foldl (fun g e => g.setStream e { g.stream e with rdvGo := true }) d.grp)))
            ∧ (¬ all → Waits (.rdv h mask) s (.rendezvous mask))))
        ∧ (∀ e m, e ≠ d.cur.eng → Dev.rdvMask (d.grp.stream e) = some m → m ≠ mask → flag mask e.num = true →
            (∀ e', e' ≠ e → Dev.rdvMask (d.grp.stream e') = none) →
            exec (.rdv h mask) s = .next (s.faulted { cause := 0x19, addr := BitVec.ofNat 64 mask, other := some e })))
      ∧ (x.busy = true → Waits (.retire h) s .busy)
      ∧ (x.busy = false →
          let r := (d.setStm { x with retired := true }).settle h false
          ((d.cur.svc = true ∨ Dev.allRetired r.grp = false) → exec (.retire h) s = .next { s with dev := { r with verdict := .done } })
          ∧ (d.cur.svc = false → Dev.allRetired r.grp = true →
              exec (.retire h) s = .next { s with dev := { r.retireGroup d.cur.key with verdict := .done } })))

/-- R264 to R269: BARI arms a barrier for its arrivals or, with 0, releases it, and does nothing with 0 to one that is IDLE; BARA
takes the stream's arrival record and counts it, the last arrival completing the phase, and waits for earlier operations first; BARW
waits while the phase of its record lasts. Misuse (R269) is cause 0x19 with G × 256 + b. R368: while a site of the cluster migrates, an
operation on a barrier of the cluster waits. R266: each operation has the barrier unit serve its stream. What the model chose: a poisoned
count of BARI does not commit (log 85), BARW advances the logical clock (log 89), and what a migration holds (log 88). -/
def Obligations.BarrierResults : Prop :=
  ∀ (s : State) (h : Hdr) (g : Bool) (b fa : Nat), s.dev.lets h →
    let d := s.dev
    let x := d.barrier g b
    let n := (d.reg fa).v.toNat
    let unit := Dev.barUnit g (Dev.clusterOf s.dev.cur.core) b
    let miss := (if g then 1 else 0) * 256 + b
    (d.noBarrier g = true →
      Faults (.bari h g b fa) s 0x19 miss ∧ Faults (.bara h g b) s 0x19 miss ∧ Faults (.barw h g b) s 0x19 miss)
    ∧ (d.noBarrier g = false → d.barrierHeld g = true →
      Waits (.bari h g b fa) s .peer ∧ Waits (.bara h g b) s .peer ∧ Waits (.barw h g b) s .peer)
    ∧ (d.noBarrier g = false → d.barrierHeld g = false →
      ((x.state = .idle ∨ x.own = d.myCtx) → x.state ≠ .counting →
        (0 < n → n < 65536 → Does (.bari h g b fa) s h
            ((d.setBarrier g b { x with state := .armed, own := d.myCtx, tgt := n, rem := n }).serve unit))
        ∧ (n = 0 → x.state ≠ .idle → Does (.bari h g b fa) s h ((d.setBarrier g b { x with state := .idle, own := 0 }).serve unit))
        ∧ (n = 0 → x.state = .idle → Does (.bari h g b fa) s h (d.serve unit)))
      ∧ ((x.state = .counting ∨ (x.state ≠ .idle ∧ x.own ≠ d.myCtx) ∨ 65536 ≤ n) → Faults (.bari h g b fa) s 0x19 miss)
      ∧ (d.stm.busy = true → Waits (.bara h g b) s .busy)
      ∧ (d.stm.busy = false → x.state ≠ .idle → x.own = d.myCtx →
        let d1 := d.setStm { d.stm with arrival := some ⟨g, b, Dev.clusterOf d.cur.core, x.phase⟩ }
        (x.rem ≤ 1 → Does (.bara h g b) s h
          ((d1.setBarrier g b { x with state := .released, phase := (x.phase + 1) % 65536, rem := x.tgt }).serve unit))
        ∧ (1 < x.rem → Does (.bara h g b) s h
            ((d1.setBarrier g b { x with state := .counting, rem := x.rem - 1 }).serve unit)))
      ∧ (d.stm.busy = false → (x.state = .idle ∨ x.own ≠ d.myCtx) → Faults (.bara h g b) s 0x19 miss)
      ∧ (∀ r, d.stm.arrival = some r → r.g = g → r.b = b → r.cluster = Dev.clusterOf d.cur.core →
        (x.phase = r.phase → Waits (.barw h g b) s .barrier)
        ∧ (x.phase ≠ r.phase → Does (.barw h g b) s h
            ((d.setStm { d.stm with arrival := none }).advance.serve unit)))
      ∧ (∀ r, d.stm.arrival = some r → ¬(r.g = g ∧ r.b = b ∧ r.cluster = Dev.clusterOf d.cur.core) → Faults (.barw h g b) s 0x19 miss)
      ∧ (d.stm.arrival = none → Faults (.barw h g b) s 0x19 miss))

/-- R251, R254: SPAWN of a verified kernel queues a request for a group and gives its index, or gives its failure code (too many
groups, an ABSENT core, a cluster outside the mask); PSTART of a descriptor whose stages verify makes the lowest free pipeline
RUNNING, or fails with all 16 in use and gives back the references it had taken; PDRAIN marks the groups of a RUNNING pipeline and
withdraws those never placed, and fails for a pipeline that is not RUNNING. -/
def Obligations.SpawnResults : Prop :=
  ∀ (s : State) (h : Hdr) (fd fa fb place : Nat), s.dev.lets h → s.dev.cur.svc = false → s.dev.stm.pend = none →
    (s.dev.reg fa).p = false →
    let a := (s.dev.reg fa).v.toNat
    let b := s.dev.reg fb
    let n := s.dev.myCtx
    let rd := Dev.rdWord s.mod
    (∀ kid d, s.dev.verify rd n a = .ok (kid, d) → (d.kernel n kid).regs ≤ 2048 →
      ((place < 128 ∧ d.isAbsent place = true) → Does (.spawn h fd fa fb place) s h (d.setReg fd ⟨Dev.spawnFail 2, b.p⟩))
      ∧ (place < 128 → d.isAbsent place = false → flag (d.ctx n).clumask (place / 8) = false →
          Does (.spawn h fd fa fb place) s h (d.setReg fd ⟨Dev.spawnFail 3, b.p⟩))
      ∧ (¬(place < 128 ∧ (d.isAbsent place = true ∨ flag (d.ctx n).clumask (place / 8) = false)) →
        ((d.ctx n).maxgrp ≤ d.groupCount n → Does (.spawn h fd fa fb place) s h (d.setReg fd ⟨Dev.spawnFail 1, b.p⟩))
        ∧ (d.groupCount n < (d.ctx n).maxgrp →
          let r := d.request n kid b place none
          Does (.spawn h fd fa fb place) s h (r.2.setReg fd ⟨BitVec.ofNat 64 r.1, b.p⟩))))
    ∧ (∀ w0 w1 p0 p1 d ss d1 ks d2, readWords rd s.dev a 2 = .ok ([(w0, p0), (w1, p1)], d) →
        fld w0 0 32 = 0x45504950 → 1 ≤ fld w0 32 8 → fld w0 32 8 ≤ 64 → fld w0 40 24 = 0 → w1 = 0 →
        Dev.readStages rd d a 0 (fld w0 32 8) = .ok (ss, d1) → Dev.verifyStages rd d1 n ss = (d2, ks, none) →
        (∀ p, Map.fresh (d2.ctx n).pipes 16 = some p →
          ∃ x : Pipeline, x.draining = false ∧ x.arg = b ∧ x.stages.map (·.kernel) = ks.map (·.1) ∧
            Does (.spawnPstart h fd fa fb) s h
              ((d2.setCtx n { d2.ctx n with pipes := Map.set (d2.ctx n).pipes p x }).setReg fd ⟨BitVec.ofNat 64 p, b.p⟩))
        ∧ (Map.fresh (d2.ctx n).pipes 16 = none →
            Does (.spawnPstart h fd fa fb) s h ((ks.foldl (fun d k => d.dropKernel n k.1) d2).setReg fd ⟨Dev.spawnFail 4, b.p⟩)))
    ∧ ((Map.find (s.dev.ctx n).pipes (a % 16) = none ∨ ∃ x, Map.find (s.dev.ctx n).pipes (a % 16) = some x ∧ x.draining = true) →
        Does (.spawnPdrain h fd fa fb) s h (s.dev.setReg fd ⟨Dev.spawnFail 5, b.p⟩))
    ∧ (∀ x, Map.find (s.dev.ctx n).pipes (a % 16) = some x → x.draining = false →
        let d := s.dev.setCtx n { s.dev.ctx n with
          pipes := Map.set (s.dev.ctx n).pipes (a % 16) { x with draining := true, drainedBy := some (idxOf s.dev.cur.key) } }
        let d := (d.pipeGroups n (a % 16)).foldl (fun d k =>
          if (d.group k).state = .pending then d.withdraw k else if (d.group k).marked then d else d.mark k) d
        Does (.spawnPdrain h fd fa fb) s h ((d.pipeEnd n (a % 16)).setReg fd ⟨0, b.p⟩))

/-! ### System instructions, faults and service (spec/09_context.md R196 to R209, spec/16_page.md R322 to R324) -/

/-- R206 to R209, R323, R324: TRAP takes cause 0x20 with its code; in service mode ERET releases the held group and leaves service mode,
TLBI invalidates what its range and its ASID name, TLBS waits while an access holds a translation so removed, and CTXS and CTXL give the status of their command; a
CSR instruction reads the CSR's value, writes it, or does both with the old value as its result. -/
def Obligations.SystemResults : Prop :=
  ∀ (s : State) (h : Hdr) (code fd fa fb csr kind : Nat), s.dev.lets h →
    let a := s.dev.reg fa
    Faults (.trap h code) s 0x20 code
    ∧ (∀ v, s.dev.csrRead csr = .ok v →
        Gives (.csrr h fd csr) s h fd ⟨BitVec.ofNat 64 v, false⟩
        ∧ (∀ d, s.dev.csrWrite csr a.v = .ok d →
            Does (.csrw h fa csr) s h d ∧ Does (.csrx h fd fa csr) s h (d.setReg fd ⟨BitVec.ofNat 64 v, a.p⟩)))
    ∧ (s.dev.cur.svc = true →
        Does (.eret h) s h (s.dev.returnService s.dev.cur.core)
        ∧ (s.dev.drains = true → Waits (.tlbs h) s .busy) ∧ (s.dev.drains = false → Does (.tlbs h) s h s.dev.dropGone)
        ∧ (a.p = false → (s.dev.reg fb).p = false → (s.dev.reg fd).p = false →
            Dev.tlbiCheck kind a.v (s.dev.reg fb).v (s.dev.reg fd).v = none →
            Does (.tlbi h kind fd fa fb) s h (s.dev.invalidate kind a.v (s.dev.reg fb).v (s.dev.reg fd).v))
        ∧ (let r := s.dev.ctxFromDevice 3 a.v; Does (.ctxsStop h fd fa) s h (r.2.setReg fd ⟨BitVec.ofNat 64 r.1, a.p⟩))
        ∧ (let r := s.dev.ctxFromDevice 4 a.v; Does (.ctxsCheckpoint h fd fa) s h (r.2.setReg fd ⟨BitVec.ofNat 64 r.1, a.p⟩))
        ∧ (let r := s.dev.ctxFromDevice 5 a.v; Does (.ctxl h fd fa) s h (r.2.setReg fd ⟨BitVec.ofNat 64 r.1, a.p⟩)))

/-- R205: outside service mode every privileged instruction and every access to a privileged CSR faults with cause 0x09, with its own
address as a fault of R37 has it (the model's reading, log 65), and a number that no CSR occupies with cause 0x04 and the number. R89, R203, R208: writing 1 to a flag of COR_SFLAGS (COR_SVFLAGS in service
mode) clears it and keeps the others, but for a flag raised in the same cycle, which stays; COR_XVAL keeps to −13 to +13 (R71);
COR_SEPC written makes COR_SSTEP 0 and abandons what the held stream was doing (R207); COR_SVEC keeps bits [2:0] zero. -/
def Obligations.PrivilegeAndCsrWrites : Prop :=
  (∀ (s : State) (h : Hdr) (fd fa fb csr kind : Nat), s.dev.lets h → s.dev.cur.svc = false →
      let pc := s.dev.cur.pc.toNat
      Faults (.eret h) s 9 pc ∧ Faults (.tlbi h kind fd fa fb) s 9 pc ∧ Faults (.tlbs h) s 9 pc ∧ Faults (.ctxsStop h fd fa) s 9 pc
      ∧ Faults (.ctxsCheckpoint h fd fa) s 9 pc ∧ Faults (.ctxl h fd fa) s 9 pc
      ∧ (0x800 ≤ csr → Faults (.csrr h fd csr) s 9 pc ∧ Faults (.csrw h fa csr) s 9 pc ∧ Faults (.csrx h fd fa csr) s 9 pc)
      ∧ (csr < 0x800 → csr ≠ 0x060 →
          csr ∉ [0x020, 0x021, 0x022, 0x023, 0x024, 0x025, 0x026, 0x027, 0x028, 0x030, 0x040, 0x050, 0x051] →
          Faults (.csrr h fd csr) s 4 csr ∧ Faults (.csrw h fa csr) s 4 csr ∧ Faults (.csrx h fd fa csr) s 4 csr))
  ∧ (∀ (s : State) (h : Hdr) (fa : Nat), s.dev.lets h →
      let v := (s.dev.reg fa).v
      let g := s.dev.grp
      let c := s.dev.core s.dev.cur.core
      (s.dev.cur.svc = false → s.dev.cur.eng = .S →
        Does (.csrw h fa 0x028) s h (s.dev.setGrp { g with
          sflags := g.sflags - (g.sflags &&& (if g.raisedAt = s.dev.time + 1 then v.toNat - (v.toNat &&& g.raisedS) else v.toNat)) })
        ∧ (∃ x o, Does (.csrw h fa 0x024) s h (s.dev.setGrp { g with xval := x, old := o }) ∧ x < 32 ∧ -13 ≤ sext x 5 ∧ sext x 5 ≤ 13
            ∧ (-13 ≤ sext v.toNat 5 → sext v.toNat 5 ≤ 13 → x = v.toNat % 32)))
      ∧ (s.dev.cur.svc = true →
        Does (.csrw h fa 0x807) s h (s.dev.setCore s.dev.cur.core { c with svflags := c.svflags - (c.svflags &&& v.toNat) })
        ∧ Does (.csrw h fa 0x800) s h
            ((s.dev.setCore s.dev.cur.core { c with sepc := v, sstep := 0, sepcWritten := true }).abandonHeld s.dev.cur.core v)
        ∧ (∃ x : Word, Does (.csrw h fa 0x803) s h (s.dev.setCore s.dev.cur.core { c with svec := x, svecAt := s.dev.time + 1 })
            ∧ x.toNat = v.toNat / 8 * 8)))

/-- R196 to R200: a fault of a stream outside service mode, of a cause other than 0x10 and 0x30, holds the group with that cause; its
record stands at TAIL in the context's fault queue with the stream, the group, the core, the PC, the address and the step; TAIL and
SEQ move on; and no other byte of memory changes. R197, R212: a poison commit or a fatal answer kills the context that runs: KILLED, with
the cause in KILLCAUSE, no record waiting and no pipeline left, and no other context changes. -/
def Obligations.FaultsOutsideService : Prop :=
  (∀ (s : State) (t : Trap) (g : Group), s.dev.cur.svc = false → t.other = none → t.cause ≠ 0x10 → t.cause ≠ 0x30 →
    Map.find s.dev.groups s.dev.cur.key = some g → s.dev.lakeMask = 0 →
    let n := s.dev.myCtx
    let c := s.dev.ctx n
    c.state = .running → c.waiting = [] → Dev.fqFull c = false →
    let r := { s.dev.recordOf t s.dev.cur.eng with seq := c.seq, asid := c.asid, time := s.dev.time }
    let a := c.fqBase * 4096 + 64 * c.tail
    let u := (s.faulted t).dev
    (u.group s.dev.cur.key).state = .held ∧ (u.group s.dev.cur.key).heldBy = some t.cause
    ∧ (u.ctx n).tail = (c.tail + 1) % Dev.fqCap c ∧ (u.ctx n).seq = (c.seq + 1) % 2 ^ 64 ∧ (u.ctx n).state = .running
    ∧ u.mem.bytes a 64 = Dev.recordBytes r
    ∧ (∀ x, x < a ∨ a + 64 ≤ x → Memory.byte u.mem x = Memory.byte s.dev.mem x)
    ∧ ((s.dev.core g.core).svec ≠ 0 → g.core ≠ 0xFF → ∃ e ∈ (u.core g.core).pending,
        e.key = s.dev.cur.key ∧ e.cause = t.cause ∧ e.stream = s.dev.cur.eng ∧ e.record = a))
  ∧ ∀ (s : State) (t : Trap), s.dev.cur.svc = false → t.other = none → (t.cause = 0x10 ∨ t.cause = 0x30) →
      let n := s.dev.myCtx
      (s.dev.ctx n).state ≠ .free → (s.dev.ctx n).state ≠ .killed → Dev.fqFull (s.dev.ctx n) = false →
      let u := (s.faulted t).dev
      (u.ctx n).state = .killed ∧ (u.ctx n).killcause = t.cause ∧ (u.ctx n).waiting = [] ∧ (u.ctx n).pipes = []
      ∧ (∀ m, m ≠ n → u.ctx m = s.dev.ctx m)

/-- R202: a fault in service mode writes no record and saves neither COR_SEPC nor
COR_SSTEP nor COR_SREC: the first puts its cause into COR_SSTAT.NEST and starts service again at COR_SVEC; one while NEST is nonzero
halts the S engine and makes the site SUSPECT. -/
def Obligations.ServiceModeFaults : Prop :=
  ∀ (s : State) (t : Trap), s.dev.cur.svc = true →
      let c := s.dev.core s.dev.cur.core
      let u := (s.faulted t).dev
      u.mem = s.dev.mem ∧ u.ctxs = s.dev.ctxs ∧ u.groups = s.dev.groups
      ∧ (u.core s.dev.cur.core).sepc = c.sepc ∧ (u.core s.dev.cur.core).sstep = c.sstep ∧ (u.core s.dev.cur.core).srec = c.srec
      ∧ (c.nest = 0 → (u.core s.dev.cur.core).nest = t.cause ∧ (u.core s.dev.cur.core).svc.pc = c.svec)
      ∧ (c.nest ≠ 0 → (u.core s.dev.cur.core).svc.retired = true
          ∧ (s.dev.siteOf s.dev.cur.core ≠ 255 → (u.site (s.dev.siteOf s.dev.cur.core)).state = .suspect))

/-- R200, R204: a core with a waiting entry and a vector enters service mode: the service registers take the entry's PC, step, record
address, cause and stream, and the S engine starts at the vector; without a vector the entry is discarded. Of the waiting entries it
takes the one whose record was written first. -/
def Obligations.ServiceEntry : Prop :=
  ∀ (s : State) (n : Nat) (e : Pending) (es : List Pending), (s.dev.core n).pending = e :: es → (s.dev.core n).service = false →
    s.dev.insideAccess n = false → (n < 128 ∨ n = 0xF0 ∨ n = 0xF1) → s.dev.siteRuns n = true →
    let c := s.dev.core n
    ∃ x ∈ c.pending, ∃ u : State, exec (.serviceEntry n) s = .next u
      ∧ (u.dev.core n).pending = c.pending.erase x
      ∧ (c.svec ≠ 0 → (u.dev.core n).service = true ∧ (u.dev.core n).sepc = x.pc ∧ (u.dev.core n).sstep = x.step
          ∧ (u.dev.core n).srec = BitVec.ofNat 64 x.record ∧ (u.dev.core n).cause = x.cause ∧ (u.dev.core n).strm = x.stream.num
          ∧ (u.dev.core n).held = true ∧ (u.dev.core n).nest = 0 ∧ (u.dev.core n).svc.pc = c.svec
          ∧ (u.dev.core n).serving = some x.key)
      ∧ (c.svec = 0 → (u.dev.core n).service = false)
      ∧ (∀ y ∈ c.pending, x.order ≤ y.order)
      ∧ u.dev.mem = s.dev.mem ∧ u.mod = s.mod

/-! ### Vector instructions (spec/06_row.md R114 to R149, spec/03_register.md R44 to R51) -/

/-- R115, R118, R129, R51: an instruction of one row function, on rows of the window without recipe tags, writes its destination row
with that function of its sources, the OR of their poison (and of the old row's, where lanes stay unwritten), and its flags; no
other row, no register and no memory changes. So complete VADD, VSUB, VMUL, VMIN, VMAX, VABS, VNEG, VEXP2, VLOG2, VRCP, VRSQ, VTBI,
VIADD, VISUB, VIMUL, VAND, VOR, VXOR, VSHL, VSHR, VRED, VSCAN, VMOV, VIOTA, VPERM, VXPND and VRADIX: the ones of `rowForm`. -/
def Obligations.VectorRowResults : Prop :=
  ∀ (s : State) (i : Instr) (h : Hdr) (f : RowForm) (t : Nat), i.hdr? = some h → rowForm i = some f → s.dev.lets h →
    s.dev.untagged → s.dev.hasRow f.fD → (∀ r ∈ f.srcs, s.dev.hasRow r) → s.dev.vtype f.types f.v.t = .ok t →
    let act := s.dev.active f.v (laneCount t)
    let o := s.dev.row f.fD
    let r := f.f t act (s.dev.argRow f.srcs 0) (s.dev.argRow f.srcs 1) o.v
    let p := s.dev.maskP f.v || f.srcs.any (fun r => (s.dev.row r).p)
    WritesRow i s f.fD r.v (if f.whole || act.all id then p else p || o.p) r.fl

/-- R115, R119, R123, R133, R134, R135, R137: lane by lane, what the integer, logical and moving instructions leave in their
destination; an inactive lane keeps its value. VSEL has no inactive lane, VXPND hands out the lanes of vA in order, and VRADIX orders
the keys of every type. -/
def Obligations.VectorLanes : Prop :=
  ∀ (s : State) (h : Hdr) (v : VField) (t fD fA fB : Nat) (start : Int), s.dev.lets h → s.dev.untagged → s.dev.hasRow fD →
    s.dev.hasRow fA → s.dev.hasRow fB → s.dev.vtype (List.range' 5 6) v.t = .ok t →
    let w := laneBits t
    let a (j : Nat) := laneAt t (s.dev.row fA).v j
    let b (j : Nat) := laneAt t (s.dev.row fB).v j
    let o (j : Nat) := laneAt t (s.dev.row fD).v j
    let on (j : Nat) := s.dev.laneOn v t j
    LanesBecome (.viadd h v fD fA fB) s fD t (fun j => if on j then (a j + b j) % 2 ^ w else o j)
    ∧ LanesBecome (.visub h v fD fA fB) s fD t (fun j => if on j then (a j + 2 ^ w - b j) % 2 ^ w else o j)
    ∧ LanesBecome (.vimul h v fD fA fB) s fD t (fun j => if on j then a j * b j % 2 ^ w else o j)
    ∧ LanesBecome (.vand h v fD fA fB) s fD t (fun j => if on j then a j &&& b j else o j)
    ∧ LanesBecome (.vor h v fD fA fB) s fD t (fun j => if on j then a j ||| b j else o j)
    ∧ LanesBecome (.vxor h v fD fA fB) s fD t (fun j => if on j then a j ^^^ b j else o j)
    ∧ LanesBecome (.vshl h v fD fA fB) s fD t (fun j => if on j then (if w ≤ b j then 0 else a j * 2 ^ b j % 2 ^ w) else o j)
    ∧ LanesBecome (.vshr h v fD fA fB) s fD t (fun j => if on j then
        (if w ≤ b j then (if laneInt t (a j) < 0 then 2 ^ w - 1 else 0) else (laneInt t (a j) / 2 ^ b j % 2 ^ w).toNat) else o j)
    ∧ (isSigned t = true → LanesBecome (.vabs h v fD fA) s fD t (fun j => if on j then (laneInt t (a j)).natAbs % 2 ^ w else o j)
      ∧ LanesBecome (.vneg h v fD fA) s fD t (fun j => if on j then (-(laneInt t (a j)) % 2 ^ w).toNat else o j))
    ∧ LanesBecome (.vxpnd h v fD fA) s fD t (fun j => if on j then a ((List.range j).countP on) else o j)
    ∧ (∀ (ty : Nat) (inv desc : Bool), s.dev.vtype WellFormed.tAll v.t = .ok ty →
      let m := laneBits ty
      let top := 2 ^ (m - 1)
      let not_ (c : Bool) (x : Nat) : Nat := if c then 2 ^ m - 1 - x else x
      let key (x : Nat) : Nat :=
        if ty ≤ 4 then (if (top ≤ x) = (inv = true) then x ^^^ top else 2 ^ m - 1 - x) else if isSigned ty then x ^^^ top else x
      LanesBecome (.vradix h v fD fA inv desc) s fD ty (fun j => if s.dev.laneOn v ty j
        then not_ (!inv && desc) (key (not_ (inv && desc) (laneAt ty (s.dev.row fA).v j))) else laneAt ty (s.dev.row fD).v j))
    ∧ LanesBecome (.vmin h v fD fA fB) s fD t (fun j => if on j then (if laneInt t (b j) < laneInt t (a j) then b j else a j) else o j)
    ∧ LanesBecome (.vmax h v fD fA fB) s fD t (fun j => if on j then (if laneInt t (a j) < laneInt t (b j) then b j else a j) else o j)
    ∧ LanesBecome (.vmov h v fD fA) s fD t (fun j => if on j then a j else o j)
    ∧ LanesBecome (.vsel h v fD fA fB) s fD t (fun j => if on j then a j else b j)
    ∧ LanesBecome (.vperm h v fD fA fB) s fD t (fun j => if on j then (if a j < laneCount t then b (a j) else 0) else o j)
    ∧ LanesBecome (.viota h v fD start) s fD t (fun j => if on j then ((start + j) % 2 ^ w).toNat else o j)

/-- R122, R124, R125, R116: VCMP writes one bit for each active lane and zero above the lanes; VKOP combines two masks over the lanes of
the type; VANY, VALL and VPOPC test the active lanes of a mask. -/
def Obligations.VectorMasks : Prop :=
  ∀ (s : State) (h : Hdr) (v : VField) (t cond kd fA fB cd ad ka kb op : Nat), s.dev.lets h → s.dev.untagged → s.dev.hasRow fA →
    s.dev.hasRow fB → cond < 8 → op < 8 → s.dev.vtype WellFormed.tAll v.t = .ok t →
    let d := s.dev
    let n := laneCount t
    let on (j : Nat) := d.laneOn v t j
    let a := d.kreg ka
    let b := d.kreg kb
    let set (j : Nat) := maskBit a.v n j
    let c (j : Nat) := laneCmp cond t (laneAt t (d.row fA).v j) (laneAt t (d.row fB).v j)
    let p := (v.me && (d.kreg v.k).p) || a.p
    (s.dev.vtype (if cond < 6 then WellFormed.tFloatInt else WellFormed.tFloat) v.t = .ok t → ∃ (m : MaskBits) (fl : Nat),
      Does (.vcmp h v cond kd fA fB) s h ((d.raiseF 0 fl).setKreg kd ⟨m, (v.me && (d.kreg v.k).p) || (d.row fA).p || (d.row fB).p⟩)
      ∧ (∀ j, j < 1024 → m.getLsbD j =
          if n = 2048 then (on (2 * j) && (c (2 * j)).1) && (on (2 * j + 1) && (c (2 * j + 1)).1)
          else decide (j < n) && on j && (c j).1)
      ∧ (∀ k, k < 6 → fl.testBit k = (List.range n).any (fun j => on j && (c j).2.testBit k)))
    ∧ Does (.vany h v cd ka) s h (d.setCreg cd ⟨(List.range n).any (fun j => on j && set j), p⟩)
    ∧ Does (.vall h v cd ka) s h (d.setCreg cd ⟨(List.range n).all (fun j => !on j || set j), p⟩)
    ∧ Does (.vpopc h v ad ka) s h
        (d.setReg ad ⟨BitVec.ofNat 64 ((List.range n).filter (fun j => on j && set j)).length, p⟩)
    ∧ (∃ m : MaskBits, Does (.vkop h v.t op kd ka kb) s h
          (d.setKreg kd ⟨m, (decide (op < 6) && a.p) || (decide (op < 4) && b.p)⟩)
        ∧ ∀ j, j < 1024 → m.getLsbD j = (decide (j < n) &&
            (if op = 0 then a.v.getLsbD j && b.v.getLsbD j else if op = 1 then a.v.getLsbD j || b.v.getLsbD j
             else if op = 2 then a.v.getLsbD j != b.v.getLsbD j else if op = 3 then a.v.getLsbD j && !b.v.getLsbD j
             else if op = 4 then !a.v.getLsbD j else if op = 5 then a.v.getLsbD j else decide (op = 6))))

/-- R119, R123, R133, R135, R136, R140 to R143: VFMA, VSEL, VBCAST, VCMPR, VHIST, VPACK, VUNPK, VSCALE and VCVT on rows of the window
without recipe tags: the row each leaves with its poison and flags, the count of VCMPR, the scale row of VPACK, and the faults of a
reserved scale code and of a lane or digit that the type does not have. Where vD and vS of VPACK are one row, the scales lie over the
codes (the model's choice, log 63). -/
def Obligations.VectorDataResults : Prop :=
  ∀ (s : State) (h : Hdr) (v : VField) (t fD fA fB fS aN aC lane pos fmt thr p ts td : Nat) (sr ce : Bool), s.dev.lets h →
    s.dev.untagged → s.dev.hasRow fD → s.dev.hasRow fA → s.dev.hasRow fB → s.dev.hasRow fS →
    let d := s.dev
    let pc := d.cur.pc.toNat
    let act := d.active v (laneCount t)
    let full := act.all id
    let A := d.row fA
    let B := d.row fB
    let O := d.row fD
    let S := d.row fS
    let mp := d.maskP v
    (d.vtype WellFormed.tFloat v.t = .ok t →
      let r := rowFma t act A.v B.v O.v
      WritesRow (.vfma h v fD fA fB) s fD r.v (mp || A.p || B.p || O.p) r.fl)
    ∧ (d.vtype WellFormed.tAll v.t = .ok t →
      (∃ r : RowBits, WritesRow (.vsel h v fD fA fB) s fD r (mp || A.p || B.p) 0
        ∧ ∀ j, j < laneCount t → laneAt t r j = if d.laneOn v t j then laneAt t A.v j else laneAt t B.v j)
      ∧ (lane < laneCount t → WritesRow (.vbcast h v fD fA lane) s fD (rowBcast (laneAt t A.v lane) t act A.v 0 O.v).v
          (mp || A.p || (!full && O.p)) 0)
      ∧ (laneCount t ≤ lane → Faults (.vbcast h v fD fA lane) s 4 pc)
      ∧ WritesRow (.vbcastAreg h v fD aN) s fD (rowBcast (fld (d.reg aN).v.toNat 0 (laneBits t)) t act 0 0 O.v).v
          (mp || (d.reg aN).p || (!full && O.p)) 0
      ∧ (∃ u, exec (.vcmpr h v fD fA ce aC) s = .next u ∧ u.dev.verdict = .done
          ∧ u.dev.row fD = d.written fD (rowCmpr t act A.v 0 0).v (mp || A.p) ∧ (∀ k, k ≠ fD → u.dev.row k = d.row k)
          ∧ (d.cur.eng = .V →
              u.dev.reg aC = if ce = true then ⟨BitVec.ofNat 64 (act.filter id).length, mp || A.p⟩ else d.reg aC)))
    ∧ (d.vtype [9, 10] v.t = .ok t →
      (pos < laneBits t → WritesRow (.vhist h v fD fA pos) s fD (rowHist pos t act A.v 0 O.v).v (mp || A.p || O.p) 0)
      ∧ (laneBits t ≤ pos → Faults (.vhist h v fD fA pos) s 2 pc))
    ∧ (d.vtype WellFormed.tFloat v.t = .ok t →
      (∀ r q, rowPack fmt d.xvOf (fun i => d.drawV sr i) t A.v S.v = some (r, q) →
        ∃ u, exec (.vpack h v.t sr fmt fD fA fS) s = .next u ∧ u.dev.verdict = .done
          ∧ (fD ≠ fS → u.dev.row fD = d.written fD r.v (A.p || S.p)) ∧ (u.dev.row fS).p = (A.p || S.p)
          ∧ (∀ j, j < laneCount t / 32 → laneAt 1 (u.dev.row fS).v j = laneAt 1 q j)
          ∧ (∀ j, laneCount t / 32 ≤ j → j < 512 → laneAt 1 (u.dev.row fS).v j = laneAt 1 (if fD = fS then r.v else S.v) j)
          ∧ u.dev.grp.fflags = d.grp.fflags ||| fflagBits 0 r.fl
          ∧ u.dev.grp.srctrV = d.grp.srctrV + (if sr = true ∧ ¬(d.grp.old.at_ = d.time + 1 ∧ d.grp.old.wroteV = true) then 1 else 0))
      ∧ (rowPack fmt d.xvOf (fun i => d.drawV sr i) t A.v S.v = none → Faults (.vpack h v.t sr fmt fD fA fS) s 4 fS))
    ∧ (d.vtype WellFormed.tFloat v.t = .ok t →
      (∀ r, rowUnpk fmt d.xvOf t A.v S.v = some r →
        ∃ u, exec (.vunpk h v.t fmt fD fA fS) s = .next u ∧ u.dev.verdict = .done ∧ u.dev.row fD = d.written fD r.v (A.p || S.p)
          ∧ u.dev.grp.fflags = d.grp.fflags ||| fflagBits 0 r.fl ∧ ∀ k, k ≠ fD → u.dev.row k = d.row k)
      ∧ (rowUnpk fmt d.xvOf t A.v S.v = none → Faults (.vunpk h v.t fmt fD fA fS) s 4 fS))
    ∧ WritesRow (.vscale h fmt thr fD fS) s fD (rowScale fmt thr S.v).v S.p (rowScale fmt thr S.v).fl
    ∧ (∀ tw tn, d.cvtTypes td ts p = .ok (tw, tn) →
      let n := 2048 / max (cvtBytes tw) (cvtBytes tn)
      let on := d.active ⟨0, v.me, v.k⟩ n
      let r := rowCvt tw tn p (fun i => d.drawV sr i) on A.v O.v
      ∃ u, exec (.vcvt h sr p ts td v.me v.k fD fA) s = .next u ∧ u.dev.verdict = .done
        ∧ (u.dev.row fD).v = r.v ∧ (u.dev.row fD).p = (mp || A.p || (!(on.all id && 2048 / cvtBytes tw == n) && O.p))
        ∧ u.dev.grp.fflags = d.grp.fflags ||| fflagBits 0 r.fl ∧ ∀ k, k ≠ fD → u.dev.row k = d.row k)
    ∧ (td = ts → Faults (.vcvt h sr p ts td v.me v.k fD fA) s 2 pc)

/-- R28, R213: what the 12-bit specifiers of a row instruction select: rows of the window, ports that pop and push, the two constant
rows; every other specifier, a constant as a destination and a row outside the window are cause 0x04. The instruction works on what
its sources give and hands its row to its destination. A bad second source faults after the first is read. -/
def Obligations.OperandForms : Prop :=
  ∀ (s : State) (i : Instr) (h : Hdr) (f : RowForm) (t : Nat), i.hdr? = some h → rowForm i = some f → s.dev.lets h →
    s.dev.vtype f.types f.v.t = .ok t →
    let d := s.dev
    let pc := d.cur.pc.toNat
    let act := d.active f.v (laneCount t)
    let full := f.whole || act.all id
    (∀ o xs d1 d2, d.old f.fD full = .ok o → d.readSrcs f.srcs = .ok (xs, d1) →
      let r := f.f t act (xs.headD {}).v (xs.tail.headD {}).v o
      (d1.raiseF 0 r.fl).dst f.fD r.v (d.maskP f.v || xs.any (·.p)) full = .ok d2 → Does i s h d2)
    ∧ d.src 0xA00 = .ok (⟨0, false⟩, d) ∧ d.src 0xA01 = .ok (⟨BitVec.allOnes 16384, false⟩, d)
    ∧ (∀ n q e d1, n < 0x100 → d.resolve n false true .operand = .ok q → d.pop1 n q = .ok (e, d1) →
        d.src (0x800 + n) = .ok (⟨e.v, e.p⟩, d1))
    ∧ (∀ n q x p w, n < 0x100 → d.resolve n true true .operand = .ok q → d.dst (0x800 + n) x p w = d.pushN n q [⟨x, p⟩])
    ∧ (∀ a l o, f.srcs = a :: l → d.old f.fD full = .ok o →
        ((0x900 ≤ a ∧ a ≠ 0xA00 ∧ a ≠ 0xA01) ∨ (d.grp.rowsN ≤ a ∧ a < 0x800)) → Faults i s 4 pc)
    ∧ (∀ a b l o x d1, f.srcs = a :: b :: l → d.old f.fD full = .ok o → d.src a = .ok (x, d1) →
        ((0x900 ≤ b ∧ b ≠ 0xA00 ∧ b ≠ 0xA01) ∨ (d.grp.rowsN ≤ b ∧ b < 0x800)) → Faults i s 4 pc)
    ∧ (d.grp.rowsN ≤ f.fD → f.fD < 0x800 → Faults i s 4 pc)
    ∧ (∀ xs d1, 0x900 ≤ f.fD → d.readSrcs f.srcs = .ok (xs, d1) → Faults i s 4 pc)

/-- R130 to R132: a row load reads one element for each active lane at its base and step, or at its index, all checked before any is
used; a row store writes one element for each active lane in lane order. R131, R103: a store commits poison of its value at scope .sy
and poisons its lines at another; a poisoned base commits at every scope (R87; for VST the model's choice between R87 and R131, log
90). The address of a commit is that of log 41, and a poisoned mask or index row counts as poison of the value (log 90). -/
def Obligations.VectorMemory : Prop :=
  ∀ (s : State) (h : Hdr) (v : VField) (t sc fD fA aN fI : Nat) (off : Int), s.dev.lets h → s.dev.untagged → s.dev.hasRow fD →
    s.dev.hasRow fA → s.dev.hasRow fI → s.dev.vtype WellFormed.tAll v.t = .ok t →
    let d := s.dev
    let z := typeBytes t
    let n := laneCount t
    let act := d.active v n
    let base := d.reg aN
    let line := Dev.laneEas act (base.v.toNat + off) z
    let ixed := Dev.indexEas act base.v z (d.row fI).v
    let load (es ps : List (Nat × Nat)) (d1 : Dev) (p : Bool) : Res Dev :=
      d1.dst fD (Dev.putLanes (laneBits t) n (d.row fD).v (ps.map (fun e => (e.1, d1.ld e.2 z))))
        (p || ps.any (fun e => d1.linePoisoned (lineOf e.2))) (act.all id && es.length == n)
    let store (ps : List (Nat × Nat)) (d1 : Dev) (p : Bool) : Dev :=
      d1.storeLanes z p (ps.map (fun e => (e.2, laneAt t (d.row fA).v e.1)))
    (base.p = true →
      Commits (.vld h v sc fD aN off) s (base.v + BitVec.ofInt 64 off).toNat
      ∧ Commits (.vst h v sc fA aN off) s (base.v + BitVec.ofInt 64 off).toNat
      ∧ Commits (.vldx h v sc fD aN fI) s base.v.toNat ∧ Commits (.vstx h v sc fA aN fI) s base.v.toNat)
    ∧ (base.p = false →
      (∀ ps d1 d2, d.lanesAccess .advanced z line = .ok (ps, d1) → load line ps d1 (d.maskP v) = .ok d2 →
        Does (.vld h v sc fD aN off) s h d2)
      ∧ (∀ ps d1 d2, d.lanesAccess .advanced z ixed = .ok (ps, d1) → load ixed ps d1 (d.maskP v || (d.row fI).p) = .ok d2 →
        Does (.vldx h v sc fD aN fI) s h d2)
      ∧ (∀ ps d1, d.lanesAccess .laneStore z ixed = .ok (ps, d1) →
        let p := (d.row fA).p || (d.row fI).p || d.maskP v
        (¬(p = true ∧ sc = 3) → Does (.vstx h v sc fA aN fI) s h (store ps d1 p))
        ∧ (p = true → sc = 3 → Commits (.vstx h v sc fA aN fI) s ((ixed.map (·.2)).headD 0)))
      ∧ (∀ ps d1, d.lanesAccess .laneStore z line = .ok (ps, d1) →
        let p := (d.row fA).p || d.maskP v
        (¬(p = true ∧ sc = 3) → Does (.vst h v sc fA aN off) s h (store ps d1 p))
        ∧ (p = true → sc = 3 → Commits (.vst h v sc fA aN off) s ((line.map (·.2)).headD 0))))

/-- R144: VAMO does the operation of R107 on one element for each active lane in lane order, each on what the one before left, and
writes the old values to vD; a poisoned line at scope .sy commits at its lane and leaves the lanes before it done. The last two clauses
say what one lane does, whatever the lanes before it have left. The address of a commit of a register is that of log 41. -/
def Obligations.VectorAtomics : Prop :=
  ∀ (s : State) (h : Hdr) (v : VField) (t sc op fD aN fI : Nat), s.dev.lets h → s.dev.untagged → s.dev.hasRow fD →
    s.dev.hasRow fI → s.dev.vtype (if op = 9 then [1] else [7, 10]) v.t = .ok t →
    let d := s.dev
    let act := d.active v (laneCount t)
    let base := d.reg aN
    let es := Dev.indexEas act base.v 4 (d.row fI).v
    let wp := (d.row fD).p || d.maskP v
    (base.p = true → Commits (.vamo h v sc op fD aN fI) s base.v.toNat)
    ∧ (base.p = false → ∀ ps d1, d.lanesAccess .atomic 4 es = .ok (ps, d1) →
      (sc = 3 → wp = true → Commits (.vamo h v sc op fD aN fI) s ((es.map (·.2)).headD 0))
      ∧ (¬(sc = 3 ∧ wp = true) →
        let ls := (es.zip ps).map (fun e => (e.1.1, e.1.2, e.2.2))
        (∀ d2 vs rp d3, d1.amoLanes sc op wp (d.row fD).v [] false ls = (d2, vs, rp, none) →
          d2.dst fD (Dev.putLanes 32 512 (d.row fD).v vs) (wp || (d.row fI).p || rp) (act.all id) = .ok d3 →
          Does (.vamo h v sc op fD aN fI) s h d3)
        ∧ (∀ d2 vs rp e, d1.amoLanes sc op wp (d.row fD).v [] false ls = (d2, vs, rp, some e) →
            exec (.vamo h v sc op fD aN fI) s = .next { s with dev := { d2.takeFault e with verdict := .trapped e } })))
    ∧ (∀ (x : Dev) (vs : List (Nat × Nat)) (rp : Bool) (i ea pa : Nat) (l : List (Nat × Nat × Nat)),
      let lp := x.linePoisoned (lineOf pa)
      (sc = 3 → lp = true → x.amoLanes sc op wp (d.row fD).v vs rp ((i, ea, pa) :: l) =
        (x, vs, rp, some { cause := 0x10, addr := BitVec.ofNat 64 ea, poison := true, pkind := 2, pline := lineOf pa }))
      ∧ (¬(sc = 3 ∧ lp = true) →
        let old := x.ld pa 4
        let r := Dev.amoOp op 32 old (laneAt 1 (d.row fD).v i)
        x.amoLanes sc op wp (d.row fD).v vs rp ((i, ea, pa) :: l) =
          ((x.store pa 4 r.1 (wp || lp)).raiseF 0 r.2).amoLanes sc op wp (d.row fD).v ((i, old) :: vs) (rp || lp) l))

/-- R146 to R149: a NEST form stages its extents, bases and strides when it issues and then does its elements, or its runs of level 0,
in order, level 0 fastest; with all of them done it has retired and its token is out; a wait or a fault stops it at its element, with
the ones before done, and the element is the step of the record. An element's address is its base and the sum of index times stride. -/
def Obligations.NestForms : Prop :=
  ∀ (s : State) (h : Hdr) (wclass : Bool) (opc bd ba bb e m : Nat) (ext sD sA sB : Five) (f : NestForm), s.dev.lets h →
    s.dev.stm.load = none → 1 ≤ e → e ≤ 5 → s.dev.nestStage wclass opc bd ba bb e m ext sD sA sB = .ok f →
    let i : Instr := .nest h wclass opc bd ba bb e m ext sD sA sB
    let o := Dev.NestForm.pack f i s.dev.cur.word s.dev.cur.pc
    let d1 := (((s.dev.setStm { s.dev.stm with load := some o }).settle h true).stepV f.sr)
    let stopped (d : Dev) (f' : NestForm) (l : Nat) : Dev := d.setStm { d.stm with load := some { o with step := l, clean := f'.clean } }
    (∀ d f', d1.nestGo f 0 f.steps = (d, f', none) →
      exec i s = .next { s with dev := { (d.setStm { d.stm with load := none, resumeStep := 0 }).fillToken h.pt with verdict := .done } })
    ∧ (∀ d f' l t, d1.nestGo f 0 f.steps = (d, f', some (l, .trap t)) →
      let t' : Trap := { t with step := l }
      exec i s = .next { s with dev := { (stopped d f' l).takeFault t' with verdict := .trapped t' } })
    ∧ (∀ d f' l w, d1.nestGo f 0 f.steps = (d, f', some (l, .wait w)) →
      exec i s = .next { s with dev := { (stopped d f' l).applyWait w with verdict := .waiting w } })
    ∧ (f.ext.any (· == 0) → ∃ u, exec i s = .next u ∧ u.dev.verdict = .done ∧ u.dev.mem = s.dev.mem)
    ∧ (∀ l, l < f.steps → ∀ k, k < f.ext.length → ¬(wclass = false ∧ opc = 0x17) →
        (nestIndex f.ext l).getD k 0 = l / (f.ext.take k).foldl (· * ·) 1 % f.ext.getD k 0)
    ∧ (∀ ix ss : List Nat, ix.length = ss.length → ∀ b : Word,
        nestAddr b ix (ss.map (BitVec.ofNat 64)) = b + BitVec.ofNat 64 ((ix.zip ss).foldl (fun a x => a + x.1 * x.2) 0))

/-! ### Exact queries (spec/17_query.md R328 to R341) -/

/-- R330, R340, R341: a query waits while its unit is busy; then one whose operand rows stand in the window, whose active lanes repeat
no index (SOS) and hold no non-finite coordinate (TNF) stages its rows and its mask and runs on; a repeated index is cause 0x04 and a
non-finite coordinate cause 0x14, with the lane and the position. R331, R341: a query in progress does one step for each
QUERY_STEP_COMPLETE; after its last step byte `j` of vD holds the result of lane `j` and two bits of the next row the stage that found
it, an inactive lane keeps its own, what is above the lanes is zero, and the query has retired. R332, R336: the result that stage C
gives a lane without .sos is the sign of the determinant of R332 over the exact coordinates (stages A and B resolve a lane by the
bounds of R334 and R335). -/
def Obligations.QueryResults : Prop :=
  (∀ (s : State) (i : Instr) (q : QKind) (h : Hdr) (v : VField) (t fD fA : Nat) (sos tnf : Bool),
      (i, q) ∈ [(Instr.orient2 h v sos tnf fD fA, qOrient2), (.orient3 h v sos tnf fD fA, qOrient3), (.incirc h v sos tnf fD fA, qIncirc),
        (.insph h v sos tnf fD fA, qInsph), (.segx h v sos tnf fD fA, qSegx)] → s.dev.lets h → s.dev.untagged →
      s.dev.vtype [1, 4] v.t = .ok t → fD < 0x800 → fA < 0x800 →
      let d := s.dev
      let k := q.coords + (if sos then q.pts else 0)
      let rows : List RowData := (List.range k).map (fun j => ⟨(d.row (fA + j)).v, (d.row (fA + j)).p⟩)
      let at_ (l : List (List Nat)) (j : Nat) : List Nat := l.getD j []
      let ix := laneIndices q t rows
      let cs := laneCoords q t rows
      let on (j : Nat) : Prop := j < laneCount t ∧ d.laneOn v t j = true
      let plain (j : Nat) : Prop := ∀ c, c < q.coords → nonFinite ((at_ cs j).getD c 0) = false
      let free : Prop := d.stm.op = none ∧ d.unitBusy .V (fun x => (queryKind x).isSome) = false
      (¬free → Waits i s .busy)
      ∧ (free → (d.grp.rowsN ≤ fD + 1 ∨ d.grp.rowsN < fA + k) → Faults i s 4 d.cur.pc.toNat)
      ∧ (free → fD + 1 < d.grp.rowsN → fA + k ≤ d.grp.rowsN →
        (∀ j, on j → plain j → sos = true → duplicate (at_ ix j) = none) → (∀ j, on j → tnf = true → plain j) →
        ∃ o : LongOp, Does i s h ((d.begin o).serve (Dev.queryUnit d.cur.core)) ∧ o.ins = i ∧ o.step = 0 ∧ o.rows = rows ∧ o.n = Dev.qStaged t sos fD v.me
          ∧ o.p = (d.maskP v || rows.any (·.p)) ∧ ∀ j, j < 1024 → (o.mask.v.getLsbD j = true ↔ on j))
      ∧ (free → fD + 1 < d.grp.rowsN → fA + k ≤ d.grp.rowsN →
        (∀ j x, on j → sos = true → plain j → duplicate (at_ ix j) = some x →
          (∀ i, i < j → on i → plain i → duplicate (at_ ix i) = none) → Faults i s 4 (j + x * 2 ^ 16))
        ∧ (∀ j x, (∀ j, on j → plain j → sos = true → duplicate (at_ ix j) = none) → tnf = true → on j → x < q.coords →
          nonFinite ((at_ cs j).getD x 0) = true → (∀ y, y < x → nonFinite ((at_ cs j).getD y 0) = false) →
          (∀ i, i < j → on i → plain i) → Faults i s 0x14 (j + x * 2 ^ 16))))
  ∧ (∀ (s : State) (g : Nat) (o : LongOp) (q : QKind), s.dev.opOf g .V = some o → queryKind o.ins = some q →
      let ls := queryLanes q (o.n.getD 1 0 == 1) (o.n.getD 0 0) o.mask.v o.rows
      let fD := o.n.getD 2 0
      let G := s.dev.group g
      (o.step + 1 < querySteps ls → Leads (.queryStepComplete g) s (s.dev.setOp g .V (Dev.queryKept q ls o (o.step + 1))))
      ∧ (querySteps ls ≤ o.step + 1 → (∀ e ∈ G.rows, e.2.tag = .live) → G.lent = [] → ∃ d, Leads (.queryStepComplete g) s d
        ∧ (d.group g).streamV.op = none ∧ d.mem = s.dev.mem
        ∧ (∀ j, ls.length ≤ j → j < 2048 → fld (Dev.rowIn (d.group g) fD).v.toNat (8 * j) 8 = 0)
        ∧ (∀ j, ls.length ≤ j → j < 8192 → fld (Dev.rowIn (d.group g) (fD + 1)).v.toNat (2 * j) 2 = 0)
        ∧ ∀ j, j < ls.length →
            fld (Dev.rowIn (d.group g) fD).v.toNat (8 * j) 8 = (match ls.getD j none with
              | some (some r) => ofInt r.sign 8
              | some none => 0x80
              | none => fld (Dev.rowIn G fD).v.toNat (8 * j) 8)
            ∧ fld (Dev.rowIn (d.group g) (fD + 1)).v.toNat (2 * j) 2 = (match ls.getD j none with
              | some (some r) => r.stage % 4
              | some none => 3
              | none => fld (Dev.rowIn G (fD + 1)).v.toNat (2 * j) 2)))
  ∧ (∀ (q : QKind) (t : Nat) (act : MaskBits) (rows : List RowData) (j : Nat), q ∈ [qOrient2, qOrient3, qIncirc, qInsph] →
      q.coords ≤ rows.length → j < laneCount t → act.getLsbD j = true →
      let cs := (laneCoords q t rows).getD j []
      let last := q.pts - 1
      let δ (p c : Nat) : Int := qInt (cs.getD (q.dim * p + c) 0) - qInt (cs.getD (q.dim * last + c) 0)
      let m (p c : Nat) : Int := if c < q.dim then δ p c else ((List.range q.dim).map (fun k => δ p k * δ p k)).sum
      (∀ c ∈ cs, nonFinite c = false) →
      ∃ r : QRes, (queryLanes q false t act rows).getD j none = some (some r) ∧ (r.stage = 2 → r.sign = (detRows last m).sign))

/-! ### The matrix engine (spec/07_tile.md R152 to R173) -/

/-- R169, R166, R170: MZERO clears every row of its tile whole; MSTAT reads the SAT bits of a tile or the report of the last MMV; MDEQ
dequantizes every lane of every row of its tile into consecutive rows, whose poison leaves out a scale row that is not used (the
model's reading, log 59). A tile beyond the window is cause 0x04 (R46), and while the array unit is busy they wait before anything
else (R157). -/
def Obligations.TileResults : Prop :=
  ∀ (s : State) (h : Hdr) (t aD td ty fD fC : Nat) (cs rs acc : Bool), s.dev.lets h →
    let d := s.dev
    let n := d.grp.view.trows
    let r0 := d.tileRow t
    let pc := d.cur.pc.toNat
    (d.arrayFree ≠ .ok () → Waits (.mzero h t) s .busy ∧ Waits (.mstat h aD 0 t) s .busy ∧ Waits (.mstat h aD 1 t) s .busy
      ∧ Waits (.mdeq h td cs rs acc fD t fC) s .busy)
    ∧ (d.arrayFree = .ok () →
    (d.tileOk t = false → Faults (.mzero h t) s 4 pc ∧ Faults (.mstat h aD 1 t) s 4 pc
      ∧ (d.vtype [1, 2, 3, 5, 6, 7] td = .ok ty → Faults (.mdeq h td cs rs acc fD t fC) s 4 pc))
    ∧ Gives (.mstat h aD 0 t) s h aD ⟨BitVec.ofNat 64 d.grp.mmv, false⟩
    ∧ (d.tileOk t = true → ∃ w : Word, Gives (.mstat h aD 1 t) s h aD ⟨w, false⟩
        ∧ ∀ j, j < 64 → w.getLsbD j = (decide (j < n) && (d.row (r0 + j)).sat))
    ∧ (d.tileOk t = true → (∀ e ∈ d.grp.rows, Dev.isDropped e.2 = false) →
        ∃ u, exec (.mzero h t) s = .next u ∧ u.dev.verdict = .done ∧ (∀ j, j < n → u.dev.row (r0 + j) = d.written (r0 + j) 0 false)
          ∧ ∀ k, (k < r0 ∨ r0 + n ≤ k) →
              (u.dev.row k).v = (d.row k).v ∧ (u.dev.row k).p = (d.row k).p ∧ (u.dev.row k).sat = (d.row k).sat)
    ∧ (d.tileOk t = true → d.untagged → d.vtype [1, 2, 3, 5, 6, 7] td = .ok ty → fD + n ≤ d.grp.rowsN →
        fD < 0x800 → d.hasRow fC → fC + 1 < d.grp.rowsN →
        ∃ u, exec (.mdeq h td cs rs acc fD t fC) s = .next u ∧ u.dev.verdict = .done
          ∧ (∀ j, j < n → (u.dev.row (fD + j)).p =
                ((d.row (r0 + j)).p || (cs && (d.row fC).p) || (rs && (d.row (fC + 1)).p))
            ∧ ∀ c, c < 512 → laneAt ty (u.dev.row (fD + j)).v c =
                (mdeqLane ty acc (laneAt 1 (d.row (r0 + j)).v c) (if cs then some (laneAt 1 (d.row fC).v c) else none)
                  (if rs then some (laneAt 1 (d.row (fC + 1)).v j) else none)).1 % 2 ^ laneBits ty)
          ∧ ∀ k, (k < fD ∨ fD + n ≤ k) → u.dev.row k = d.row k))

/-- R158, R172: MMT and MMV whose index row, tile, lanes, format word and weights are in order take the format word, stage the rows that
the index lanes name and the accumulator rows, and run on from slab 0; an MMV is dispatched to its path (R164). No format word is
cause 0x11, a format word out of range cause 0x04 with the word, a tile or a number of lanes out of range cause 0x04, and a bad lane
cause 0x04 with the lane; an MMV that faults so leaves a report with BIG alone (log 87). R152, R157: while the array unit is busy, the
half is being loaded or belongs to another group, or q249 is empty where its entries are needed, they wait; a handle-form MMV waits
for its copy, which it demands (R162). The entries of q248 and q249 are those pushed before the present cycle. A misaligned address or
handle is cause 0x05 before the handle is looked up, and the wait for q249 comes before the checks (log 58); a poisoned aW commits at
its address (log 41). -/
def Obligations.MatrixIssue : Prop :=
  ∀ (s : State) (h : Hdr) (t fI ws mm aW : Nat) (w : Entry) (qs : List Entry), s.dev.lets h → s.dev.untagged → s.dev.hasRow fI →
    let d := s.dev
    let own : Prop := (d.core d.cur.core).weights = none ∨ (d.core d.cur.core).weights = some d.cur.key
    let held := d.setCore d.cur.core { d.core d.cur.core with weights := some d.cur.key }
    let D := if (d.core d.cur.core).weights = none then held else d
    let m := mm + 1
    let a := (d.reg aW).v.toNat
    let pc := d.cur.pc.toNat
    let ix := (d.row fI).v
    let lanes := (List.range m).map (indexLane ix)
    let data (r : Nat) : RowData := ⟨(d.row r).v, (d.row r).p⟩
    let fw := (w.v.setWidth 64 : Word).toNat
    let mmt : Instr := .mmt h t fI ws mm
    let mmv : Instr := .mmv h t fI aW mm
    let mmvH : Instr := .mmvHandle h t fI aW mm
    let rep : State := s.with (d.setGrp { d.grp with mmv := 8 * bit (3 < mm) })
    let mmvFaults (i : Instr) (x : Trap) : Prop := exec i s = .next (rep.faulted x)
    let tile : Prop := d.tileOk t = true ∧ m ≤ d.grp.view.trows
    let ready : Prop := d.readyEntries .q248 = w :: qs ∧ fwOk fw = true ∧ tile ∧ d.laneFault fw ix m = none
    let took (d : Dev) : Dev := d.setGrp { d.grp with q248 := d.grp.q248.drop 1 }
    let staged (x : MatOp) : Prop := x.row = d.tileRow t ∧ x.m = m ∧ x.fw = fw ∧ x.index = ix ∧ x.acts = lanes.map (fun l => data (aRow l))
      ∧ x.scales = (if fwAsc fw then lanes.map (fun l => data (sRow l)) else []) ∧ x.p = ((d.row fI).p || w.p)
      ∧ x.acc = (List.range m).map (fun j => data (d.tileRow t + j)) ∧ x.staged = true ∧ x.chosen = false ∧ x.ran = 0
      ∧ x.pass = (Dev.asStaged d.grp d.time).thresh
    (d.arrayFree ≠ .ok () → Waits mmt s .busy ∧ Waits mmv s .busy ∧ Waits mmvH s .busy)
    ∧ (d.arrayFree = .ok () →
      (ws < 2 → Dev.loadsHalf d.stm ws = true → Waits mmt s .busy)
      ∧ (ws < 2 → Dev.loadsHalf d.stm ws = false → ¬ own → Waits mmt s .swap)
      ∧ (d.readyEntries .q249 = [] → Waits (.mmt h t fI 2 mm) s (.queue 249))
      ∧ (∀ e, Dev.handleReady aW d = .error (.wait (.copy e)) →
          exec mmvH s = .next { s with dev := { (d.demand e 0).applyWait (.copy e) with verdict := .waiting (.copy e) } })
      ∧ (ws < 2 → own → Dev.loadsHalf d.stm ws = false →
        (d.readyEntries .q248 = [] → Faults mmt s 0x11 0)
        ∧ (d.readyEntries .q248 = w :: qs → fwOk fw = false → Faults mmt s 4 fw)
        ∧ (d.readyEntries .q248 = w :: qs → fwOk fw = true → ¬ tile → Faults mmt s 4 pc)
        ∧ (ready → imageSize fw ≤ 131072 → ∃ x, staged x ∧ x.ws = ws ∧ Does mmt s h ((took D).begin (MatOp.pack x mmt 0)))
        ∧ (ready → 131072 < imageSize fw → Faults mmt s 4 pc))
      ∧ (d.readyEntries .q248 = [] → mmvFaults mmv { cause := 0x11, addr := 0 })
      ∧ (d.readyEntries .q248 = w :: qs → fwOk fw = false → mmvFaults mmv { cause := 4, addr := BitVec.ofNat 64 fw })
      ∧ (d.readyEntries .q248 = w :: qs → fwOk fw = true → ¬ tile → mmvFaults mmv { cause := 4, addr := BitVec.ofNat 64 pc })
      ∧ (∀ l j, d.readyEntries .q248 = w :: qs → fwOk fw = true → tile → d.laneFault fw ix m = some (l, j) →
          mmvFaults mmv { cause := 4, addr := BitVec.ofNat 64 l, step := j })
      ∧ (ready → ∀ e es, d.readyEntries .q249 = e :: es → ∃ x, staged x ∧ x.ws = 2 ∧ x.carry = toBytes 2048 e.v.toNat ∧ x.carryP = e.p ∧
          Does (.mmt h t fI 2 mm) s h
            (((took d).setGrp { (took d).grp with q249 := (took d).grp.q249.drop 1 }).begin (MatOp.pack x (.mmt h t fI 2 mm) 0)))
      ∧ (ready → (d.reg aW).p = true → mmvFaults mmv { cause := 0x10, addr := BitVec.ofNat 64 a, poison := true, pkind := 1 })
      ∧ (ready → (d.reg aW).p = false →
        (a % 64 = 0 → ∃ x, staged x ∧ x.ws = 3 ∧ x.base = a ∧
          Does mmv s h (((took d).dispatch x).2.begin (MatOp.pack ((took d).dispatch x).1 mmv 0)))
        ∧ (a % 64 ≠ 0 → mmvFaults mmv { cause := 5, addr := BitVec.ofNat 64 a } ∧ mmvFaults mmvH { cause := 5, addr := BitVec.ofNat 64 a }))
      ∧ (ready → Dev.handleReady aW d = .ok () → ∀ base e d1, Dev.handleMore aW d fw = .ok (base, e, d1) →
        ∃ x, staged x ∧ x.ws = 4 ∧ x.base = base ∧ x.entry = e ∧
          Does mmvH s h (((took d1).dispatch x).2.begin (MatOp.pack ((took d1).dispatch x).1 mmvH 0))))

/-- R156, R157, R167: MLDW loads a half from memory; the lengths and the alignment that R167 asks for are checked first, and it waits
while the loader is busy, while an MMT reads the half, and for the swap of another group's halves. R168: MBCW opens the session of its
channel, joins one that fits, waits for one of another context, for one that is full and for one that its core is in already, and
faults where its address, length or count differ; the transfer of a full session loads the half of every participant, ends every MBCW
in it and ends the session. It is made once every participant can take the beats, with the checks of the first (log 86); a poisoned
address or length commits at ea (log 41). -/
def Obligations.WeightLoads : Prop :=
  (∀ (s : State) (h : Hdr) (half sc c p aN aL : Nat) (off : Int), s.dev.lets h →
    let d := s.dev
    let pc := d.cur.pc.toNat
    let ea := ((d.reg aN).v + BitVec.ofInt 64 off).toNat
    let n := (d.reg aL).v.toNat
    let cl := Dev.clusterOf d.grp.core
    let own : Prop := (d.core d.cur.core).weights = none ∨ (d.core d.cur.core).weights = some d.cur.key
    let held := d.setCore d.cur.core { d.core d.cur.core with weights := some d.cur.key }
    let D := if (d.core d.cur.core).weights = none then held else d
    let mldw : Instr := .mldw h half sc aN aL off
    let mbcw : Instr := .mbcw h half c p aN aL off
    let joins (x : Session) : Prop :=
      let d1 := d.setSession cl c x
      Does mbcw s h (d1.setStm { d1.stm with load := some { Dev.mbcwLoad mbcw half c (p + 1) ea n d.time with word := d.cur.word, pc := d.cur.pc } })
    let opens : Session := { ctx := ctxOf d.cur.key, ea := ea, len := n, count := p + 1, joined := [⟨d.cur.key, half⟩] }
    (d.loaderFree ≠ .ok () → Waits mldw s .busy ∧ Waits mbcw s .busy)
    ∧ (d.loaderFree = .ok () →
      (Dev.readsHalf d.stm half = true → Waits mldw s .busy)
      ∧ (Dev.readsHalf d.stm half = false → ¬ own → Waits mldw s .swap)
      ∧ (((d.reg aN).p = true ∨ (d.reg aL).p = true) → Commits mbcw s ea ∧ (Dev.readsHalf d.stm half = false → own → Commits mldw s ea))
      ∧ ((d.reg aN).p = false → (d.reg aL).p = false →
        (ea % 64 ≠ 0 → Faults mbcw s 5 ea ∧ (Dev.readsHalf d.stm half = false → own → Faults mldw s 5 ea))
        ∧ (ea % 64 = 0 → (n % 64 ≠ 0 ∨ n = 0 ∨ 131072 < n) →
            Faults mbcw s 4 pc ∧ (Dev.readsHalf d.stm half = false → own → Faults mldw s 4 pc))
        ∧ (ea % 64 = 0 → n % 64 = 0 → 0 < n → n ≤ 131072 →
          (Dev.readsHalf d.stm half = false → own → ∀ ps d1, D.accessLinesS .load (Dev.linesOf ea n) = .ok (ps, d1) →
            Does mldw s h (d1.loadHalf d1.cur.key half (d1.readPieces ps) (d1.piecePoison ps)))
          ∧ (Map.find (d.cluster cl).sessions c = none → joins opens)
          ∧ (∀ x, Map.find (d.cluster cl).sessions c = some x →
            (x.count = 0 → (∃ j ∈ x.joined, j.key = d.cur.key) → joins opens)
            ∧ (x.count = 0 → (∀ j ∈ x.joined, j.key ≠ d.cur.key) → Waits mbcw s (.session c))
            ∧ (x.count ≠ 0 → x.ctx ≠ ctxOf d.cur.key → Waits mbcw s (.session c))
            ∧ (x.count ≠ 0 → x.ctx = ctxOf d.cur.key → ¬(x.ea = ea ∧ x.len = n ∧ x.count = p + 1) → Faults mbcw s 4 pc)
            ∧ (x.count = p + 1 → x.ctx = ctxOf d.cur.key → x.ea = ea → x.len = n → x.joined.length ≠ p + 1 →
              (∀ j ∈ x.joined, (d.group j.key).core ≠ d.grp.core) → joins { x with joined := x.joined ++ [⟨d.cur.key, half⟩] })
            ∧ (x.count = p + 1 → x.ctx = ctxOf d.cur.key → x.ea = ea → x.len = n →
              (x.joined.length = p + 1 ∨ ∃ j ∈ x.joined, (d.group j.key).core = d.grp.core) → Waits mbcw s (.session c)))))))
  ∧ (∀ (d : Dev) (cl c : Nat) (x : Session) (j : Joiner) (js : List Joiner), x.joined = j :: js →
      (∀ k ∈ x.joined, d.siteRuns (d.group k.key).core = true ∧ d.takesBeats k = true) →
      ∀ ps d1, (d.curOfLoad j.key).accessLines .load (Dev.linesOf x.ea x.len) = .ok (ps, d1) →
        let u := d.transferSession cl c x
        Map.find (u.cluster cl).sessions c = none
        ∧ ∀ k ∈ x.joined, (u.group k.key).streamM.load = none
          ∧ ∀ i b, (d1.readPieces ps)[i]? = some b → Memory.byte (Dev.halfOf (u.group k.key) k.half).bytes i = b)

/-- R160, R161, R171, R176: SLAB_COMPLETE does the next slab over the staged accumulator and the last one retires the operation; a slab
whose weights are not all there keeps what it has taken. R156, R366: WEIGHT_SWAP saves the halves that are present and brings in those
of the group that needs them. R168: a session that is not full gives way to a context that has waited 65,536 cycles. -/
def Obligations.MatrixEvents : Prop :=
  ∀ (s : State) (g core cl c : Nat),
    let d := s.dev
    (d.opOf g .M = none → Leads (.slabComplete g) s d)
    ∧ (∀ o, d.opOf g .M = some o → isMat o.ins = true →
      let e := d.curStep g .M
      let x := MatOp.unpack o
      let upto (x : Dev) : Prop := Leads (.slabComplete g) s (x.stepOver g .M)
      (slabsOf x.fw ≤ o.step → upto (e.matRetire g o x))
      ∧ (o.step < slabsOf x.fw → ∀ why, e.restage x = .error why → Leads (.slabComplete g) s (e.slabStop g o x why))
      ∧ (o.step < slabsOf x.fw → ∀ x0 d0, e.restage x = .ok (x0, d0) →
        (∀ x1 d1, d0.slabImage x0 o.step = .ok (none, x1, d1) → upto (d1.setOp g .M (x1.at_ o o.step)))
        ∧ (∀ why, d0.slabImage x0 o.step = .error why → Leads (.slabComplete g) s (d0.slabStop g o x0 why))
        ∧ (∀ b p x1 d1, d0.slabImage x0 o.step = .ok (some (b, p), x1, d1) →
          (∀ why, d1.slabRows x1 o.step b p = .error why → Leads (.slabComplete g) s (d1.slabStop g o x1 why))
          ∧ (∀ d2 x2 ic, d1.slabRows x1 o.step b p = .ok (d2, x2, ic) →
            let y := Dev.slabDone x2
            (d1.untagged → ∀ j n, j < x1.m → n < fwN x1.fw → laneAt 1 (d2.row (x1.row + j)).v n = laneAt 1 (x2.acc.getD j {}).v n)
            ∧ (o.step + 1 < slabsOf y.fw → upto (d2.setOp g .M (y.at_ o (o.step + 1))))
            ∧ (slabsOf y.fw ≤ o.step + 1 → upto (d2.matRetire g o y))))))
    ∧ (∀ k, (d.core core).weights = some k → k ≠ g → (d.group g).core = core → (d.group g).state = .running → d.siteRuns core = true →
        (d.group g).streamM.wait = .swap → let e := (d.writeHalves k false).readHalves g
        Leads (.weightSwap core g) s ((e.setCore core { e.core core with weights := some g }).countOn core 31 1))
    ∧ (∀ x k G, Map.find (d.cluster cl).sessions c = some x → x.joined.length < x.count →
        (k, G) ∈ d.groups → Dev.clusterOf G.core = cl → ctxOf k ≠ x.ctx → d.waitsChannel G c = true →
        let again (d : Dev) (j : Joiner) : Dev :=
          d.setLoad j.key ((d.group j.key).streamM.load.map (fun o => { o with n := o.n.set 6 s.dev.time }))
        ∃ k2 G2, (k2, G2) ∈ d.groups ∧ Dev.clusterOf G2.core = cl ∧ ctxOf k2 ≠ x.ctx ∧ d.waitsChannel G2 c = true
          ∧ Leads (.mbcwSessionDissolve cl c) s ((x.joined.foldl again d).setSession cl c
          { ctx := ctxOf k2, ea := 0, len := 0, count := 0, joined := [⟨k2, 0⟩] }))

/-! ### The X engine (spec/14_block.md R273 to R291) -/

/-- R273, R276, R287, R289 to R291: a transfer whose operands are in order stages them and runs on from step 0; a fill or a check of no
bytes retires at once; while an operation of the stream runs, each waits. A poisoned address, length or block count commits, a
misaligned base is cause 0x05, a length out of range cause 0x04, a descriptor that breaks R277 cause 0x04 with the byte of its field as
the step, and rows beyond the window cause 0x04. R81: a stochastic XCOPY takes the counter and moves it on, unless the S stream wrote
it in that cycle. The address of a commit is that of log 41; that the rows or the port are checked before the alignment of the base,
and that a fill or check of no bytes retires at its issue, is the reading of log 74. -/
def Obligations.TransferIssue : Prop :=
  ∀ (s : State) (h : Hdr) (sc en cm1 fd fa fb aN fI : Nat) (sr cont : Bool), s.dev.lets h →
    let d := s.dev
    let pc := d.cur.pc.toNat
    let base := (d.reg fa).v.toNat
    let len := (d.reg fb).v.toNat
    let x := d.reg fd
    let start := if cont then fld x.v.toNat 0 32 else 0
    let ab := (d.reg aN).v.toNat
    let fill : Instr := .xfill h sc fd fa fb
    let chk : Instr := .xchk h sc cont fd fa fb
    let dec : Instr := .xdec h sc fd fa fb
    let copy : Instr := .xcopy h sc sr en fd fa
    let gath : Instr := .xgath h sc cm1 fd aN fI
    let scat : Instr := .xscat h sc cm1 fa aN fI
    let ix : RowData := ⟨(d.row fI).v, (d.row fI).p⟩
    (d.stm.op.isSome = true → ∀ i ∈ [fill, chk, dec, copy, gath, scat], Waits i s .busy)
    ∧ (d.stm.op = none →
      ((d.reg fa).p = true → Commits copy s base)
      ∧ (((d.reg fa).p = true ∨ (d.reg fb).p = true) → Commits fill s base ∧ Commits chk s base)
      ∧ (((d.reg fa).p = true ∨ (d.reg fb).p = true ∨ x.p = true) → Commits dec s base)
      ∧ ((d.reg aN).p = true → Commits gath s ab ∧ Commits scat s ab)
      ∧ ((d.reg fa).p = false → (d.reg fb).p = false →
        (base % 8 ≠ 0 → Faults fill s 5 base)
        ∧ (base % 8 = 0 → (len % 8 ≠ 0 ∨ 2 ^ 40 < len) → Faults fill s 4 pc)
        ∧ (base % 8 = 0 → len = 0 → Does fill s h d)
        ∧ (base % 8 = 0 → len % 8 = 0 → len ≤ 2 ^ 40 → len ≠ 0 → Does fill s h (d.beginX fill [base, len, x.v.toNat, sc] [] x.p))
        ∧ (2 ^ 40 < len → Faults chk s 4 pc)
        ∧ (len = 0 → Gives chk s h fd ⟨BitVec.ofNat 64 start, cont && x.p⟩)
        ∧ (len ≠ 0 → len ≤ 2 ^ 40 → Does chk s h (d.beginX chk [base, len, start] [] (cont && x.p)))
        ∧ (x.p = false → (base % 16 ≠ 0 → Faults dec s 5 base)
          ∧ (base % 16 = 0 → (x.v = 0 ∨ 2 ^ 20 < x.v.toNat) → Faults dec s 4 x.v.toNat)
          ∧ (base % 16 = 0 → x.v ≠ 0 → x.v.toNat ≤ 2 ^ 20 → ∀ sd d1, d.readSdesc s.mod len = .ok (sd, d1) →
              Does dec s h (d1.beginX dec ([base, x.v.toNat, base, 0, 0] ++ sd.pack)))))
      ∧ ((d.reg fa).p = false → (base % 64 ≠ 0 → Faults copy s 5 base)
        ∧ (base % 64 = 0 → ∀ ws t0 d1, d.xWords s.mod base 8 = .ok (ws, t0, d1) →
          let w (i : Nat) : Nat := ws.getD i 0
          let key := Map.get {} (d1.ctx d1.myCtx).xkeys (fld (w 6) 48 4)
          (∀ off, xdescFault en w key.valid = some off →
            exec copy s = .next (s.faulted { cause := 4, addr := BitVec.ofNat 64 base, step := off }))
          ∧ (xdescFault en w key.valid = none → ∀ sd d2, (if flag en 2 then d1.readSdesc s.mod (w 4) else .ok ({}, d1)) = .ok (sd, d2) →
            ∃ c : Chain, c.en = en ∧ c.sc = sc ∧ c.sr = sr ∧ c.src = w 0 ∧ c.dst = w 1 ∧ c.gidx = w 2 ∧ c.sidx = w 3 ∧ c.tweak = w 5
              ∧ c.len = fld (w 6) 0 32 ∧ c.rlen = fld (w 6) 32 16 ∧ c.fmt = fld (w 6) 56 8 ∧ c.tr = fld (w 7) 0 16
              ∧ c.tc = fld (w 7) 16 16 ∧ c.expect = fld (d2.reg fd).v.toNat 0 32 ∧ c.expectP = (d2.reg fd).p ∧ c.step = 0
              ∧ c.ctr = (Dev.asStaged d2.grp d2.time).srctrX.toNat
              ∧ Does copy s h ((if sr && !(d2.grp.old.at_ == d2.time + 1 && d2.grp.old.wroteX)
                  then d2.setGrp { d2.grp with srctrX := d2.grp.srctrX + 1 } else d2).beginX copy c.pack))))
      ∧ (d.untagged → (d.reg aN).p = false → d.hasRow fI →
        (∀ res d1, Dev.gathDst (cm1 + 1) fd d = .ok (res, d1) →
          (ab % 64 = 0 → ∃ q, q = ((res.head?).map (·.1)).getD 0
            ∧ Does gath s h (d1.beginX gath [ab, cm1 + 1, fd, q, (d1.queue q).round] [ix] ix.p (res.filter (·.2 != 0))))
          ∧ (ab % 64 ≠ 0 → Faults gath s 5 ab))
        ∧ (fd < 0x800 → fd + (cm1 + 1) ≤ d.grp.rowsN → Dev.gathDst (cm1 + 1) fd d = .ok ([], d))
        ∧ (∀ rs port d1, Dev.scatSrc (cm1 + 1) fa d = .ok (rs, port, d1) →
          (ab % 64 = 0 → Does scat s h (d1.beginX scat [ab, cm1 + 1, sc, bit port] (ix :: rs) ix.p))
          ∧ (ab % 64 ≠ 0 → Faults scat s 5 ab))
        ∧ (fa < 0x800 → fa + (cm1 + 1) ≤ d.grp.rowsN → Dev.scatSrc (cm1 + 1) fa d =
            .ok ((List.range (cm1 + 1)).map (fun j => ⟨(d.row (fa + j)).v, (d.row (fa + j)).p⟩), false, d))
        ∧ (fd < 0x800 → d.grp.rowsN < fd + (cm1 + 1) → Faults gath s 4 pc)
        ∧ (fa < 0x800 → d.grp.rowsN < fa + (cm1 + 1) → Faults scat s 4 pc)))

/-- R273, R274, R278, R286, R289 to R291: TRANSFER_STEP_COMPLETE does one step of the transfer in progress, and the last one retires it.
A fill writes its pattern, a check carries the CRC on, a gather writes its row or fills its slot, a scatter stores its row, each at
the addresses of its step; a chain runs its step and retires with its checksum, or faults on a mismatch and retires after it; a
decompression checks the block at hand. A step that faults is recorded with its number and leaves nothing of itself done but what R285
says of a failed block; one that needs a link asks for its lines, and one without a granule for a replay has its group pre-empted. A
poisoned value commits where it is written at .sy or to the MMIO window, with the address and kind of log 41. Descriptor poison goes
into what XDEC pushes (log 71), and the corners of a chain are those of log 72. R287: XDEC_PUSH moves the entries of a checked block into q249 of the
group once it has room for all of them, and the transfer goes on at the next block or retires; without room, or without a checked
block, nothing moves. -/
def Obligations.TransferSteps : Prop :=
  (∀ (s : State) (g : Nat) (o : LongOp), s.dev.opOf g .X = some o →
      let d := s.dev.curStep g .X
      let m := s.mod
      let f (i : Nat) : Nat := o.n.getD i 0
      let lo := (Dev.rangeStep (f 0) (f 1) o.step).1
      let n := (Dev.rangeStep (f 0) (f 1) o.step).2
      let last : Prop := Dev.rangeSteps (f 0) (f 1) ≤ o.step + 1
      let on : Prop := o.step < Dev.rangeSteps (f 0) (f 1)
      let goes (x : Dev) : Prop := Leads (.transferStepComplete g) s (x.stepOver g .X)
      let stops (x : Dev) (t : Trap) : Prop :=
        Leads (.transferStepComplete g) s (x.takeFault { t with step := o.step, pc := some o.pc, word := some o.word })
      (∀ d2, d.transferStep m g o = .ok d2 → goes d2)
      ∧ (∀ t, d.transferStep m g o = .error (.trap t) →
        (t.cause ≠ 0x12 → t.cause ≠ 0x13 → stops d t)
        ∧ (t.cause = 0x12 ∨ t.cause = 0x13 → stops (d.blockFault (Dev.sdescOf o) t.cause t.addr.toNat) t))
      ∧ (∀ w, d.transferStep m g o = .error (.wait w) → (∀ r, w ≠ .granule r) → Leads (.transferStepComplete g) s (d.keepAccess w))
      ∧ (∀ r, d.transferStep m g o = .error (.wait (.granule r)) → Leads (.transferStepComplete g) s (d.preemptReader g))
      ∧ (∀ h sc fd fa fb, o.ins = .xfill h sc fd fa fb → on → ∀ ps d1, d.xPieces .store (f 0 + lo) n = .ok (ps, d1) →
          let bs : List Byte := (List.range n).map (fun i => BitVec.ofNat 8 (f 2 / 256 ^ ((lo + i) % 8)))
          (¬(o.p = true ∧ Dev.atSy (f 3) ps = true) →
            (last → goes ((d1.xWrite m bs o.p ps).finishOp g .X o))
            ∧ (¬ last → goes ((d1.xWrite m bs o.p ps).setOp g .X { o with step := o.step + 1 })))
          ∧ (o.p = true → Dev.atSy (f 3) ps = true → stops d { cause := 0x10, addr := BitVec.ofNat 64 ((f 0 + lo) % 2 ^ 64), poison := true, pkind := 1 }))
      ∧ (∀ h sc cont fd fa fb, o.ins = .xchk h sc cont fd fa fb → on → ∀ bs t d1, d.xLoad m (f 0 + lo) n = .ok (bs, t, d1) →
          let crc := crc32c (bs.map (BitVec.ofNat 8)) (f 2)
          let p := o.p || t != 0
          (last → goes ((d1.setReg fd ⟨BitVec.ofNat 64 crc, p⟩).finishOp g .X o))
          ∧ (¬ last → goes (d1.setOp g .X { o with step := o.step + 1, n := [f 0, f 1, crc], p := p })))
      ∧ (∀ h sc cm1 fA aN fI, o.ins = .xscat h sc cm1 fA aN fI → o.step < f 1 →
          let x := o.rows.getD (o.step + 1) {}
          let a := Dev.rowAddr (f 0) (o.rows.headD {}).v o.step
          ∀ ps d1, d.xPieces .store a 2048 = .ok (ps, d1) →
            let d2 := d1.xWrite m (toBytes 2048 x.v.toNat) (o.p || x.p) ps
            (¬((o.p || x.p) = true ∧ Dev.atSy (f 2) ps = true) →
              goes (if f 1 ≤ o.step + 1 then d2.finishOp g .X o else d2.setOp g .X { o with step := o.step + 1 }))
            ∧ ((o.p || x.p) = true → Dev.atSy (f 2) ps = true → stops d
              { cause := 0x10, addr := BitVec.ofNat 64 a, poison := true, pkind := if f 3 = 1 ∧ x.p = true then 3 else 1 }))
      ∧ (∀ h sc cm1 fD aN fI, o.ins = .xgath h sc cm1 fD aN fI → o.step < f 1 →
          ∀ bs t d1, d.xLoad m (Dev.rowAddr (f 0) (o.rows.headD {}).v o.step) 2048 = .ok (bs, t, d1) →
          let v : RowBits := BitVec.ofNat 16384 (Aes.numOf bs)
          let p := (o.rows.headD {}).p || t != 0
          let put : Res Dev := if f 2 < 0x800 then (d1.readyRows g true [f 2 + o.step]).map (fun d => d.retireRow g (f 2 + o.step) v p true)
            else d1.fillSlot g (f 3) (f 4) ⟨v, p⟩ t
          ∀ d2, put = .ok d2 →
            let o2 := ((d2.group g).streamX.op).getD o
            goes (if f 1 ≤ o2.step + 1 then (d2.releaseRes o2).finishOp g .X o2 else d2.setOp g .X { o2 with step := o2.step + 1 }))
      ∧ (∀ h sc sr en fd fa, o.ins = .xcopy h sc sr en fd fa →
          let c := Chain.unpack o.n
          (c.bad = true → o.step = c.step → goes (d.xcopyRetire g fd o c))
          ∧ (c.bad = false → o.step = c.step → ∀ c1 fin d1, c.runStep m d true = .ok (c1, fin, d1) →
            let put (c : Chain) : Dev := d1.setOp g .X { o with step := c.step, n := c.pack }
            let wrong : Bool := c1.enabled 7 && c1.cmp && c1.crc != c1.expect
            (fin = false → goes (put c1))
            ∧ (fin = true → wrong = false → goes (d1.xcopyRetire g fd o c1))
            ∧ (fin = true → wrong = true → goes ((put { c1 with bad := true }).takeFault
                { cause := 0x13, addr := BitVec.ofNat 64 c1.crc, step := c1.step, pc := some o.pc, word := some o.word }))))
      ∧ (∀ h sc fd fa fb, o.ins = .xdec h sc fd fa fb → o.step < f 1 → o.rows = [] → o.step = f 3 →
          let sd := Dev.xdecSd o
          ∀ hd t0 d1 b body t1 d2 out, d.xLoad m (f 2) 16 = .ok (hd, t0, d1) →
            blockHead sd (Aes.numOf hd) (some (o.step + 1 == f 1)) = .ok b →
            d1.xLoad m (f 2 + 16) (b.size - 16) = .ok (body, t1, d2) → blockBytes sd b (body.take b.body) = some out →
            ∃ o2 : LongOp, goes (d2.setOp g .X o2) ∧ o2.step = o.step ∧ o2.ins = o.ins ∧ o2.rows.length = (b.count + 2047) / 2048
              ∧ (∀ j, j < o2.rows.length → o2.rows.getD j {} =
                  ⟨BitVec.ofNat 16384 (Aes.numOf ((out.drop (2048 * j)).take 2048)), firstTag [sd.tag, t0, t1] != 0⟩)
              ∧ o2.n = [f 0, f 1, f 2, o.step, b.size] ++ o.n.drop 5)
      ∧ (∀ (a b : List Byte) (i : Nat), crc32c (a ++ b) i = crc32c b (crc32c a i)))
  ∧ (∀ (s : State) (g : Nat) (o : LongOp) (h : Hdr) (sc fd fa fb : Nat), s.dev.opOf g .X = some o → o.ins = .xdec h sc fd fa fb →
      let q := (s.dev.group g).q249
      ∃ d, Leads (.xdecPush g) s d ∧ d.mem = s.dev.mem
        ∧ (o.rows ≠ [] → q.length + o.rows.length ≤ 32 → (d.group g).q249 = q ++ o.rows
            ∧ (o.n.getD 1 0 ≤ o.step + 1 → (d.group g).streamX.op = none)
            ∧ (o.step + 1 < o.n.getD 1 0 → ∃ o2, (d.group g).streamX.op = some o2 ∧ o2.step = o.step + 1 ∧ o2.rows = []))
        ∧ ((o.rows = [] ∨ 32 < q.length + o.rows.length) → (d.group g).q249 = q ∧ (d.group g).streamX.op = some o))

/-! ### Queues (spec/10_queue.md R213 to R229) -/

/-- R218, R220, R222, R224, R226, R227: a push puts a word or a row at the tail of an OPEN queue with room, waits on a full one and is
dropped and counted by a closed one; a poisoned entry for another context's consumer commits. A pop takes the head, waits on an empty
OPEN queue, faults on an empty closed one, and in its E form answers 1 at the end of work; a peek takes nothing and says whether there
was an entry. A port that the use may not name is cause 0x16, and a row outside the window cause 0x04. R228, R229: QSTAT never faults
and reads 0 for an unbound port, and its fields otherwise; QBIND answers 0 and binds, 1 for a queue that is free or no queue, 2 for a
mode that the context may not have, and unbinds with mode 0; it faults with cause 0x16 for ports from 248 on. An entry pushed in the
present cycle is not popped, and a queue that has served another push or pop in it is waited for (R220). The condition register of
QPOP.E and QPEEK is not poisoned (the model's choice, log 24), and the status of QBIND has the poison of sa (log 83). -/
def Obligations.QueueResults : Prop :=
  (∀ (s : State) (h : Hdr) (port fa fd vR cd : Nat) (e : Bool), s.dev.lets h →
      let d := s.dev
      let pc := d.cur.pc.toNat
      let bites (q : Fifo) (p : Bool) : Prop := p = true ∧ ∃ n, q = .pool n ∧ (d.queue n).cctx ≠ d.myCtx
      let pushes (i : Instr) (q : Fifo) (x : Entry) : Prop :=
        let fits : Prop := 1 ≤ d.roomBefore q ∧ d.servesOther (8 * d.fifoNum q + 1) = false
        (d.isOpen q = true → ¬ fits → Waits i s (.queue port))
        ∧ (d.isOpen q = true → fits → ¬ bites q x.p → Does i s h ((d.putTail x q).serve (8 * d.fifoNum q + 1)))
        ∧ ((d.isOpen q = true → fits) → bites q x.p → Commits i s 0)
        ∧ (∀ n, q = .pool n → d.isOpen q = false → ¬ bites q x.p → Does i s h (d.countDrop n 1))
      let took (q : Fifo) : Dev := ((d.dropHead 1 q).notePops 1 q).serve (8 * d.fifoNum q)
      let ready (q : Fifo) : Prop := d.readyEntries q ≠ [] ∧ d.servesOther (8 * d.fifoNum q) = false
      let ended (e : Bool) (x : Dev) : Dev := if e then x.setCreg cd ⟨false, false⟩ else x
      let dry (i : Instr) (q : Fifo) (e : Bool) : Prop :=
        (e = true → d.endOfWork q = true → Does i s h (d.setCreg cd ⟨true, false⟩))
        ∧ (¬(e = true ∧ d.endOfWork q = true) → d.isOpen q = true → Waits i s (.queue port))
        ∧ (¬(e = true ∧ d.endOfWork q = true) → d.isOpen q = false → Faults i s 0x16 port)
      let word (x : Entry) : Reg := ⟨x.v.setWidth 64, x.p⟩
      (∀ q, d.resolve port true false .instr = .ok q → pushes (.qpush h port fa) q ⟨(d.reg fa).v.setWidth 16384, (d.reg fa).p⟩)
      ∧ ((∀ q, d.resolve port true false .instr ≠ .ok q) → Faults (.qpush h port fa) s 0x16 port)
      ∧ ((∀ q, d.resolve port false false .instr ≠ .ok q) →
          Faults (.qpop h port e cd fd) s 0x16 port ∧ Faults (.qpeek h port cd fd) s 0x16 port)
      ∧ (∀ q, d.resolve port false false .instr = .ok q →
        (∀ x xs, d.entriesOf q = x :: xs → (ready q → Does (.qpop h port e cd fd) s h (ended e ((took q).setReg fd (word x))))
          ∧ (¬ ready q → Waits (.qpop h port e cd fd) s (.queue port))
          ∧ Does (.qpeek h port cd fd) s h ((d.setReg fd (word x)).setCreg cd ⟨true, false⟩))
        ∧ (d.entriesOf q = [] → dry (.qpop h port e cd fd) q e ∧ Does (.qpeek h port cd fd) s h (d.setCreg cd ⟨false, false⟩)))
      ∧ (d.grp.rowsN ≤ vR → Faults (.qpushRow h port vR) s 4 pc ∧ Faults (.qpopRow h port e cd vR) s 4 pc
          ∧ Faults (.qpeekRow h port cd vR) s 4 pc)
      ∧ (vR < d.grp.rowsN →
        (∀ q, d.resolve port true true .instr = .ok q → Dev.isDropped (d.row vR) = false →
            pushes (.qpushRow h port vR) q ⟨(d.row vR).v, (d.row vR).p⟩)
        ∧ ((∀ q, d.resolve port true true .instr ≠ .ok q) → Faults (.qpushRow h port vR) s 0x16 port)
        ∧ ((∀ q, d.resolve port false true .instr ≠ .ok q) →
            Faults (.qpopRow h port e cd vR) s 0x16 port ∧ Faults (.qpeekRow h port cd vR) s 0x16 port)
        ∧ (∀ q, d.resolve port false true .instr = .ok q →
          (∀ x xs, d.entriesOf q = x :: xs →
            (ready q → ∀ d2, (took q).writeRow vR x.v x.p true = .ok d2 → Does (.qpopRow h port e cd vR) s h (ended e d2))
            ∧ (¬ ready q → Waits (.qpopRow h port e cd vR) s (.queue port))
            ∧ (∀ d2, d.writeRow vR x.v x.p true = .ok d2 → Does (.qpeekRow h port cd vR) s h (d2.setCreg cd ⟨true, false⟩)))
          ∧ (d.entriesOf q = [] → dry (.qpopRow h port e cd vR) q e ∧ Does (.qpeekRow h port cd vR) s h (d.setCreg cd ⟨false, false⟩))))
      ∧ (d.untagged → vR < d.grp.rowsN → ∀ (x : Dev) (v : RowBits) (p : Bool), x.grp = d.grp →
          ∃ d2, x.writeRow vR v p true = .ok d2 ∧ d2.row vR = d.written vR v p))
  ∧ (∀ (s : State) (h : Hdr) (port mode fd fa : Nat), s.dev.lets h →
      let d := s.dev
      let a := d.reg fa
      let q := a.v.toNat
      let w := d.widestMode d.myCtx q
      let reap (x : Dev) : Dev := match Map.find d.grp.ports port with
        | some b => x.reapQueue b.queue
        | none => x
      let bind (b : Binding) : Dev := d.setGrp { d.grp with ports := Map.set d.grp.ports port b }
      (d.statPort port = none → Gives (.qstat h port fd) s h fd {})
      ∧ (∀ n, d.statPort port = some (.pool n) → d.depthOf (.pool n) < 2 ^ 13 → (d.queue n).entries.length < 2 ^ 13 → ∃ v : Word,
          Gives (.qstat h port fd) s h fd ⟨v, false⟩
          ∧ fld v.toNat 0 13 = (d.queue n).entries.length ∧ fld v.toNat 13 13 = 2 ^ (d.queue n).logd % 2 ^ 13
          ∧ fld v.toNat 26 2 = Dev.QState.num (d.queue n).state ∧ flag v.toNat 30 = d.grp.marked ∧ flag v.toNat 31 = (d.queue n).wide
          ∧ fld v.toNat 32 4 = (d.queue n).kind % 16)
      ∧ (248 ≤ port → Faults (.qbind h port mode fd fa) s 0x16 port)
      ∧ (port < 248 → mode ≠ 0 → (4096 ≤ q ∨ (d.queue q).state = .free) → Gives (.qbind h port mode fd fa) s h fd ⟨1, a.p⟩)
      ∧ (port < 248 → mode ≠ 0 → q < 4096 → (d.queue q).state ≠ .free →
        (mode &&& w ≠ mode → Gives (.qbind h port mode fd fa) s h fd ⟨2, a.p⟩)
        ∧ (mode &&& w = mode → Does (.qbind h port mode fd fa) s h (reap ((bind ⟨q, mode, (d.queue q).round⟩).setReg fd ⟨0, a.p⟩))))
      ∧ (port < 248 →
          Does (.qbind h port 0 fd fa) s h (reap ((d.setGrp { d.grp with ports := Map.del d.grp.ports port }).setReg fd ⟨0, false⟩))))

/-- R215 to R217: the commands of a queue descriptor. OPEN of a FREE queue whose fields pass its checks opens it empty, and is refused
with status 2 or 4 otherwise; CLOSE makes an OPEN queue CLOSED and keeps its entries, which stay poppable, and touches nothing else
(R302: the residency unit frees at once a token queue that is then empty and bound nowhere); FREE discards the entries, makes the
bindings stale and leaves the other queues; another code has status 4; a read of QUE_STAT clears DROP. -/
def Obligations.QueueCommands : Prop :=
  ∀ (s : State) (n code : Nat), n < 4096 →
    let d := s.dev
    let q := d.queue n
    let st (x : Nat) : Dev := d.setQueue n { q with cmdst := x }
    let token : Prop := q.kind = 3 ∧ q.entries = [] ∧ ∀ e ∈ d.groups, ∀ p ∈ e.2.ports, ¬(p.2.queue = n ∧ p.2.round = q.round)
    (q.state = .free → d.openOk q = true →
      Leads (.queOpen n) s (d.setQueue n { q with state := .opened, entries := [], reserved := 0, drop := 0, cmdst := 0 }))
    ∧ (q.state = .free → d.openOk q = false → Leads (.queOpen n) s (st 4)) ∧ (q.state ≠ .free → Leads (.queOpen n) s (st 2))
    ∧ (q.state = .opened → ¬token → Leads (.queClose n) s (d.setQueue n { q with state := .closed, cmdst := 0 }))
    ∧ (q.state = .opened → token → ∃ d2, Leads (.queClose n) s d2 ∧ (d2.queue n).state = .free ∧ (d2.queue n).cmdst = 0
        ∧ d2.mem = d.mem ∧ ∀ k, k ≠ n → d2.queue k = d.queue k)
    ∧ (q.state ≠ .opened → Leads (.queClose n) s (st 2))
    ∧ (q.state ≠ .free → ∃ d2, Leads (.queFree n) s d2 ∧ (d2.queue n).state = .free ∧ (d2.queue n).cmdst = 0
        ∧ (d2.queue n).entries = [] ∧ (d2.queue n).round = q.round + 1 ∧ d2.mem = d.mem ∧ ∀ k, k ≠ n → d2.queue k = d.queue k)
    ∧ (q.state = .free → Leads (.queFree n) s (st 2))
    ∧ (¬(1 ≤ code % 16 ∧ code % 16 ≤ 3) → Leads (.queBadCommand n code) s (st 4))
    ∧ (1 ≤ code % 16 → code % 16 ≤ 3 → Leads (.queBadCommand n code) s d)
    ∧ Leads (.queDropRead n) s (d.setQueue n { q with drop := 0 })

/-! ### Recipes (spec/03_register.md R52 to R64) -/

/-- R57 to R60: RCPDEF of a body in memory whose words R53 allows makes its entry valid; RCPSET tags a row of the window with a valid
entry where no depth exceeds 2; RCPCLR clears the tags of its rows and keeps their values; an entry that is not valid is cause 0x15.
R61: a row whose recipe reads one that its own group has written stays untagged. R62 to R64: RECIPE_REPLAY of a dropped row that a
stream waits for computes it from its recipe, in the row's own group, on a site that runs; a replay that fails faults each stream that
waits for the row; nothing happens where no stream waits or the row is not dropped. RCPDEF with a poisoned base commits at its base
(the model's choice, log 41), and the record of a failed replay is as log 85 reads R63. -/
def Obligations.RecipeResults : Prop :=
  (∀ (s : State) (h : Hdr) (id nm1 cm1 fa fD : Nat), s.dev.lets h →
      let d := s.dev
      let g := d.grp
      let pc := d.cur.pc.toNat
      let n := nm1 + 1
      let base := (d.reg fa).v.toNat
      let e := Map.get {} g.recipes id
      let tagged := { g with rows := Map.upd {} g.rows fD (fun x => { x with tag := .tagged id, bad := false }) }
      ((d.reg fa).p = true → Commits (.rcpdef h id nm1 fa) s base)
      ∧ ((d.reg fa).p = false → (base % 8 ≠ 0 → Faults (.rcpdef h id nm1 fa) s 5 base)
        ∧ (base % 8 = 0 → ∀ ws d1, readWords (Dev.rdWord s.mod) d base n = .ok (ws, d1) → id < d1.grp.recipesN →
          (∀ j, bodyFault d1.grp.rowsN (ws.map (·.1)) = some j → Faults (.rcpdef h id nm1 fa) s 0x15 (base + 8 * j))
          ∧ (bodyFault d1.grp.rowsN (ws.map (·.1)) = none → (∀ x ∈ d1.grp.rows, x.2.tag ≠ .dropped id) →
            ∃ d2, Does (.rcpdef h id nm1 fa) s h d2
              ∧ Map.get {} d2.grp.recipes id = { valid := true, words := ws.map (·.1), p := ws.any (·.2) }
              ∧ (∀ k, k ≠ id → Map.get {} d2.grp.recipes k = Map.get {} d1.grp.recipes k)
              ∧ ∀ k, (d2.row k).v = (d1.row k).v ∧ (d2.row k).p = (d1.row k).p
                ∧ (d2.row k).tag = if (d1.row k).tag = .tagged id then .live else (d1.row k).tag)))
      ∧ (fD < 0x800 → fD < g.rowsN → id < g.recipesN →
        (e.valid = false → Faults (.rcpset h id fD) s 0x15 fD)
        ∧ (e.valid = true → Dev.depthOk tagged = false → Faults (.rcpset h id fD) s 0x15 fD)
        ∧ (e.valid = true → Dev.depthOk tagged = true → Dev.isDropped (d.row fD) = false →
            Does (.rcpset h id fD) s h (d.setGrp (if (bodySources e.words).any (fun x => d.cur.wrote.contains x)
              then { g with rows := Map.upd {} g.rows fD (fun x => { x with tag := .live }) } else tagged)))
        ∧ (e.valid = true → Dev.depthOk tagged = true → Dev.isDropped (d.row fD) = true → Waits (.rcpset h id fD) s (.replay fD [])))
      ∧ ((0x800 ≤ fD ∨ g.rowsN ≤ fD) → Faults (.rcpset h id fD) s 4 pc)
      ∧ (g.recipesN ≤ id → Faults (.rcpset h id fD) s 4 pc)
      ∧ (fD < 0x800 → fD + (cm1 + 1) ≤ g.rowsN → d.stm.resumeStep = 0 → (∀ x ∈ g.rows, Dev.isDropped x.2 = false) →
          ∃ d2, Does (.rcpclr h cm1 fD) s h d2 ∧ (∀ k, fD ≤ k → k < fD + (cm1 + 1) → (d2.row k).tag = .live)
            ∧ (∀ k, (d2.row k).v = (d.row k).v ∧ (d2.row k).p = (d.row k).p)
            ∧ ∀ k, (k < fD ∨ fD + (cm1 + 1) ≤ k) → d2.row k = d.row k)
      ∧ (∀ k, fD < 0x800 → fD + (cm1 + 1) ≤ g.rowsN → d.stm.resumeStep = 0 → k < cm1 + 1 → Dev.isDropped (d.row (fD + k)) = true →
          (∀ j, j < k → Dev.isDropped (d.row (fD + j)) = false) →
          Waits (.rcpclr h cm1 fD) s (.replay (fD + k) ((List.range k).map (fD + ·))))
      ∧ ((0x800 ≤ fD ∨ g.rowsN < fD + (cm1 + 1)) → Faults (.rcpclr h cm1 fD) s 4 pc))
  ∧ (∀ (s : State) (g r : Nat),
      let G := s.dev.group g
      let ws := Dev.replayWaiters G r
      ((G.state ≠ .running ∨ s.dev.siteRuns G.core = false ∨ Dev.isDropped (Dev.rowIn G r) = false
          ∨ (ws = [] ∧ Dev.waitsGranule G r = false)) → Leads (.recipeReplay g r) s s.dev)
      ∧ (∀ id, G.state = .running → s.dev.siteRuns G.core = true → (Dev.rowIn G r).tag = .dropped id → Dev.waitsGranule G r = false →
          ws ≠ [] →
        (∀ d, s.dev.replayRows g [] [r] = .ok d → Leads (.recipeReplay g r) s d ∧ (Dev.rowIn (d.group g) r).tag = .tagged id)
        ∧ (∀ t, s.dev.replayRows g [] [r] = .error (.trap t) → Leads (.recipeReplay g r) s (ws.foldl (fun d e => d.replayFault g r e) s.dev))
        ∧ (G.lent = [] → ∀ d, s.dev.replayRow g r 4 = some d → s.dev.replayRows g [] [r] = .ok d)
        ∧ ((Dev.rowIn G r).bad = true ∨ (Map.get {} G.recipes id).bad = true → s.dev.replayRow g r 4 = none)))

/-! ### Expert residency (spec/15_expert.md R292 to R312) -/

/-- R307, R305: GATE pushes its K route words into an OPEN queue with room, each with the poison of its row and its mask, raises its
flags and trains the predictor with the experts chosen; it waits on a full queue and on one that has served another push of the cycle
(R220), is dropped and counted by a closed one, and cannot be
done by a queue of a smaller depth. A port that is no pool queue of kind 0 or 1 is cause 0x16. -/
def Obligations.GateResults : Prop :=
  ∀ (s : State) (h : Hdr) (v : VField) (t q km1 aB fA : Nat), s.dev.lets h → s.dev.untagged → s.dev.hasRow fA →
    s.dev.vtype [1, 2] v.t = .ok t →
    let d := s.dev
    let base := (d.reg aB).v.toNat % 2 ^ 32
    let r := gateWords t (km1 + 1) base (d.active v (laneCount t)) (d.row fA).v
    let p := d.maskP v || (d.row fA).p
    let es : List Entry := r.1.map (fun w => ⟨BitVec.ofNat 16384 w, p⟩)
    let trained (x : Dev) : Dev := (x.raiseF 0 r.2.1).trainPredictor (r.2.2.map (fun i => (base + i) % 2 ^ 32))
    let i : Instr := .gate h v q km1 aB fA
    (256 ≤ q → Faults i s 4 d.cur.pc.toNat)
    ∧ (q < 256 → (∀ f, d.resolve q true false .instr = .ok f → ∀ n, f = .pool n → 2 ≤ (d.queue n).kind) → Faults i s 0x16 q)
    ∧ (∀ n, q < 256 → d.resolve q true false .instr = .ok (.pool n) → (d.queue n).kind < 2 →
      let clean : Prop := ¬(p = true ∧ (d.queue n).cctx ≠ d.myCtx)
      let fits : Prop := km1 + 1 ≤ d.roomBefore (.pool n) ∧ d.servesOther (8 * n + 1) = false
      (d.isOpen (.pool n) = true →
        (d.depthOf (.pool n) < km1 + 1 → Faults i s 0x16 q)
        ∧ (km1 + 1 ≤ d.depthOf (.pool n) → ¬ fits → Waits i s (.queue q))
        ∧ (km1 + 1 ≤ d.depthOf (.pool n) → fits →
            (clean → Does i s h (trained ((es.foldl (fun d e => d.putTail e (.pool n)) d).serve (8 * n + 1)))) ∧ (¬ clean → Commits i s 0)))
      ∧ (d.isOpen (.pool n) = false → (clean → Does i s h (trained (d.countDrop n (km1 + 1)))) ∧ (¬ clean → Commits i s 0)))
    ∧ r.1.length = km1 + 1 ∧ r.2.2.length ≤ km1 + 1 ∧ (∀ i ∈ r.2.2, i < laneCount t ∧ d.laneOn v t i = true)

/-- R306, R308, R311, R312: with an identifier that R292 lets through, ERES answers the status or the handle of the copy, EPIN pins it,
EUNPIN unpins it, EFETCH and EPRED ask for it and EEVICT evicts it; each answers the code of what it found, and the unit has then
served the copy in the cycle (R299). An identifier in a poisoned register commits, at address 0 (the model's choice, log 41); the order
of the refusals of EPIN is that of log 62. -/
def Obligations.ResidencyRequests : Prop :=
  ∀ (s : State) (h : Hdr) (fd fa c tier : Nat), s.dev.lets h →
    let d := s.dev
    let id := (d.reg fa).v.toNat % 2 ^ 32
    let st (d : Dev) (x : Nat) : Dev := (d.setReg fd ⟨BitVec.ofNat 64 x, false⟩).atCopy id c
    let n := d.myCtx
    let pol := (d.ctx n).resPol
    ((d.reg fa).p = true → Commits (.eres h fd fa c 0) s 0 ∧ Commits (.epin h fd fa c) s 0 ∧ Commits (.eunpin h fd fa c) s 0
      ∧ Commits (.efetch h fd fa c tier) s 0 ∧ Commits (.eevict h fd fa c tier) s 0 ∧ Commits (.epred h fa c tier) s 0)
    ∧ ((d.reg fa).p = false → d.checkCopy id c = .ok () →
      Does (.epred h fa c tier) s h ((d.prefetch id c tier 1).atCopy id c)
      ∧ (d.takeEntry id c = none → Does (.eres h fd fa c 0) s h (st d 0xF) ∧ Does (.epin h fd fa c) s h (st d 2)
          ∧ Does (.efetch h fd fa c tier) s h (st d 2))
      ∧ (flag pol 0 = false ∨ d.takeEntry id c = none → Does (.eres h fd fa c 1) s h (st d 0))
      ∧ (∀ e d1, d.takeEntry id c = some (e, d1) →
        let x := d1.copyAt e
        Does (.eres h fd fa c 0) s h (st d1 (d1.copyStatus e))
        ∧ (flag pol 0 = true → Does (.eres h fd fa c 1) s h (st d1 (fld pol 42 12 * 2 ^ 42 + e * 2 ^ 26)))
        ∧ (x.state = .faulted → Does (.epin h fd fa c) s h (st d 3)
            ∧ (x.drain = false → Does (.efetch h fd fa c tier) s h (if x.refetch.isSome then st d1 1 else st (d1.fetchHome e tier) 0)))
        ∧ (x.drain = true → Does (.efetch h fd fa c tier) s h (st (d1.demand e tier) 0))
        ∧ (x.state ≠ .faulted →
          let more : Prop := (Map.find (d.ctx n).pins e).isSome = true ∨ (d.ctx n).pins.length < 256
          let fits : Prop := x.pins ≠ 0 ∨ d1.pinnedFrames + framesOf x ≤ 3072
          (x.pins = 65535 → Does (.epin h fd fa c) s h (st d 4))
          ∧ (x.pins ≠ 65535 → ¬ more → Does (.epin h fd fa c) s h (st d 2))
          ∧ (x.pins ≠ 65535 → more → ¬ fits → Does (.epin h fd fa c) s h (st d 1))
          ∧ (x.pins ≠ 65535 → more → fits →
            let d2 := d1.setCopy e { x with pins := x.pins + 1 }
            Does (.epin h fd fa c) s h
              (st ((d2.setCtx n { d2.ctx n with pins := Map.upd 0 (d.ctx n).pins e (· + 1) }).demand e 1) 0)))
        ∧ (x.drain = false → x.state = .fetching →
            Does (.efetch h fd fa c tier) s h (st (d1.demand e tier) (if tier ≤ x.target then 1 else 0)))
        ∧ (x.drain = false → (x.state = .resident ∨ x.state = .evicting) →
            ∃ b, b ≤ 1 ∧ Does (.efetch h fd fa c tier) s h (st (d1.demand e tier) b)
              ∧ (b = 1 ↔ x.inPond = true ∨ (tier = 0 ∧ (x.inLake = true ∨ Dev.Copy.lakeHome x = true)))))
      ∧ (d.findCopy id c = none → Does (.eunpin h fd fa c) s h (st d 1) ∧ Does (.eevict h fd fa c tier) s h (st d 0))
      ∧ (∀ e, d.findCopy id c = some e →
        let x := d.copyAt e
        (∀ k, Map.find (d.ctx n).pins e = some k →
          let pins := if k ≤ 1 then Map.del (d.ctx n).pins e else Map.set (d.ctx n).pins e (k - 1)
          Does (.eunpin h fd fa c) s h
            (st ((d.setCtx n { d.ctx n with pins := pins }).setCopy e { x with pins := x.pins - 1 }).retryWaits 0))
        ∧ (x.pins ≠ 0 → Does (.eevict h fd fa c tier) s h (st d 1))
        ∧ (x.pins = 0 → x.state = .fetching → Does (.eevict h fd fa c tier) s h (st d 2))
        ∧ (x.pins = 0 → x.state = .resident → (x.inPond = true ∨ (tier = 1 ∧ x.inLake = true)) →
            Does (.eevict h fd fa c tier) s h (st (d.startEvict e (tier = 1)) 0))
        ∧ (x.pins = 0 → x.state = .resident → x.inPond = false → ¬(tier = 1 ∧ x.inLake = true) →
            Does (.eevict h fd fa c tier) s h (st d 0))
        ∧ (x.pins = 0 → x.state = .evicting →
            Does (.eevict h fd fa c tier) s h (st (if tier = 1 && x.inPond then d.setCopy e { x with toHome := true } else d) 0))
        ∧ (x.pins = 0 → x.state = .faulted → Does (.eevict h fd fa c tier) s h (st (if tier = 1 then d.evictFaulted e else d) 0))))
    ∧ ((d.reg fa).p = false →
      let handle : Bool := canonical (d.reg fa).v.toNat && d.inWindow ((d.reg fa).v.toNat % 2 ^ 54)
        && (Map.find d.res.copies (fld (d.reg fa).v.toNat 26 16)).isSome
      Gives (.eres h fd fa c 2) s h fd
        ⟨BitVec.ofNat 64 (if handle then d.copyStatus (fld (d.reg fa).v.toNat 26 16) else 0xF), false⟩)

/-- R304, R309, R310: EDISP stores its token, with the route in its last 16 bytes, in the token queue of the copy that it chose, opened
when there is none, and answers the expert, how it was chosen and the queue; identifier 0xFFFF_FFFF, a full tag store and a spent
reserve are refused; it waits for an eviction that drains and for room in the token queue, and reserved bits or a row outside the window
are cause 0x04. CLOSE closes the token queues that the context has open for the expert's layer and answers their number. A poisoned
identifier commits at address 0 (the model's choice, log 41). -/
def Obligations.DispatchResults : Prop :=
  ∀ (s : State) (h : Hdr) (fd fa fb c : Nat), s.dev.lets h → s.dev.untagged →
    let d := s.dev
    let sa := d.reg fa
    let sb := d.reg fb
    let id := sa.v.toNat % 2 ^ 32
    let b := sb.v.toNat
    let i : Instr := .edisp h fd fa fb c
    let row : RowData := ⟨(d.row (fld b 0 11)).v, (d.row (fld b 0 11)).p⟩
    let upto (x : Dev) : Prop := Does i s h (x.atCopy id c)
    let refused := d.setReg fd ⟨BitVec.ofNat 64 (3 * 2 ^ 14), sb.p⟩
    (sa.p = true → Commits i s 0 ∧ Commits (.edispClose h fd fa) s 0)
    ∧ (sa.p = false →
      (id = 0xFFFFFFFF → upto refused)
      ∧ (id ≠ 0xFFFFFFFF → d.checkCopy id c = .ok () → (fld b 11 5 ≠ 0 ∨ d.grp.rowsN ≤ fld b 0 11) → Faults i s 4 d.cur.pc.toNat)
      ∧ (id ≠ 0xFFFFFFFF → d.checkCopy id c = .ok () → fld b 11 5 = 0 → fld b 0 11 < d.grp.rowsN →
        (∀ e, d.findCopy id c = some e → (d.copyAt e).drain = true → Waits i s (.copy e))
        ∧ ((∀ e, d.findCopy id c = some e → (d.copyAt e).drain = false) → ∀ d1 asked,
          (∀ e, d.findCopy id c = some e → d1 = (if (d.copyAt e).state = .evicting then d.cancelEvict e else d) ∧ asked = d1.copyAt e) →
          (d.findCopy id c = none → d1 = d ∧ asked = copyOfRecord (d.recordBits id) id c) →
          (d1.chooseTarget asked (fld sa.v.toNat 32 32) = .error (.trap { cause := 0x18, addr := BitVec.ofNat 64 id }) → Faults i s 0x18 id)
          ∧ (∀ sub w out, d1.chooseTarget asked (fld sa.v.toNat 32 32) = .ok (sub, w, out) →
            let ends (d2 : Dev) (k : Nat) : Prop :=
              (∀ q, d2.tokenQueue (d2.copyAt k) d2.myCtx = some q →
                (d2.roomOf (.pool q) ≠ 0 → upto (d2.dispatchTo fd k q w id out 0 row sa sb))
                ∧ (d2.roomOf (.pool q) = 0 → Waits i s (.queue (4096 + q))))
              ∧ (d2.tokenQueue (d2.copyAt k) d2.myCtx = none →
                (d2.freeTokenQueue d2.myCtx = none → upto refused)
                ∧ (∀ q, d2.freeTokenQueue d2.myCtx = some q → upto ((d2.openToken d2.myCtx k q).dispatchTo fd k q w id out 1 row sa sb)))
            (∀ k, sub = some k → ends d1 k)
            ∧ (sub = none → (d1.takeEntry id c = none → upto refused)
              ∧ (∀ k d2, d1.takeEntry id c = some (k, d2) → ends (if out = 1 then d2.demand k 0 else d2) k)))))
      ∧ (d.checkCopy id 0 = .ok () →
        let qs := (d.res.copies.filter (fun e => e.2.id / 4096 == id / 4096)).flatMap (fun e =>
          (e.2.queues.filter (fun q => q.2 == d.myCtx && (d.queue q.1).state == .opened)).map (·.1))
        Does (.edispClose h fd fa) s h ((qs.foldl Dev.closeToken d).setReg fd ⟨BitVec.ofNat 64 qs.length, false⟩)))

/-- R293, R299, R303: the end of a fetch leg whose bytes match their CRC makes the copy resident in its tier, one that does not match
makes it FAULTED, and so does a read error or a leg from a lost part of Plain (R20); an eviction drains once nothing holds the copy,
and gives its frames back once no access holds a translation to them; VALID opens a model with a table,
and an unload ends when every copy is home. -/
def Obligations.ResidencyEvents : Prop :=
  ∀ (s : State) (e m : Nat) (v : Word) (bad : Bool),
    let d := s.dev
    let M := d.model m
    (Map.find d.res.copies e = none → Leads (.fetchComplete e bad) s d ∧ Leads (.evictionDrainStart e) s d ∧ Leads (.evictionComplete e) s d)
    ∧ (∀ c, Map.find d.res.copies e = some c →
      let x := if Dev.Copy.lakeHome c then d.snoop none c.home c.size false else d
      let bytes := (x.legBytes s.mod.flash c (Dev.legOf c = 0)).1
      let ready : Prop := Dev.legReady c = true ∧ d.legLent c (Dev.legOf c = 0) = []
        ∧ (c.target = 1 ∨ c.pond = [] ∨ x.holdsFrames (Dev.pondAddrs c) = false)
      let lost : Prop := Dev.legOf c = 0 ∧ d.plainLost c = true
      let held : Bool := d.holdsFrames (Dev.pondAddrs c ++ Dev.lakeAddrs c)
      (c.state = .fetching → ready → bad = false → crc32c bytes 0 = c.crc → ¬ lost → M.busy = false → m = idModel c.id →
        ∃ d2, Leads (.fetchComplete e bad) s d2
          ∧ (Dev.legOf c = 1 → (d2.copyAt e).state = .resident ∧ (d2.copyAt e).inPond = true)
          ∧ (Dev.legOf c = 2 → (d2.copyAt e).state = .resident ∧ d2.mem = x.mem)
          ∧ (Dev.legOf c = 0 → c.target = 0 → (d2.copyAt e).state = .resident ∧ (d2.copyAt e).inLake = true))
      ∧ (c.state = .fetching → ready → (bad = true ∨ crc32c bytes 0 ≠ c.crc ∨ lost) → M.busy = false → m = idModel c.id →
        ∃ d2, Leads (.fetchComplete e bad) s d2 ∧ (d2.copyAt e).state = .faulted ∧ d2.mem = x.mem)
      ∧ (Dev.leaving c = true → c.drain = false → c.holders = [] → d.tokensQueued c = false →
        Leads (.evictionDrainStart e) s (d.setCopy e { c with drain := true }))
      ∧ ((c.holders ≠ [] ∨ d.tokensQueued c = true ∨ Dev.leaving c = false) → Leads (.evictionDrainStart e) s d)
      ∧ ((Dev.leaving c = false ∨ c.drain = false ∨ d.evictable c = false ∨ held = true) → Leads (.evictionComplete e) s d)
      ∧ (Dev.leaving c = true → c.drain = true → d.evictable c = true → held = false →
        ∃ d2, Leads (.evictionComplete e) s d2 ∧ d2.mem = d.mem
          ∧ (c.again = none → (∀ x ∈ d.res.copies, x.1 = e → x.2.wait = 0) → c.state = .evicting →
            (c.inPond = true → (d2.copyAt e).inPond = false ∧ (d2.copyAt e).pond = [])
            ∧ (c.inPond = false → (d2.copyAt e).inLake = false ∧ (d2.copyAt e).lake = []))))
    ∧ (flag v.toNat 0 = true → M.valid = false → M.busy = false → M.etbase ≠ 0 →
        Leads (.modelValidWrite m v) s (d.setModel m { M with valid := true }))
    ∧ (flag v.toNat 0 = false → M.valid = true → M.busy = false → d.modelCopies m = [] →
        Leads (.modelValidWrite m v) s (d.setModel m { M with busy := true }))
    ∧ (M.busy = true → (∀ x ∈ d.modelCopies m, atHome (d.copyAt x) = true ∧ (d.copyAt x).holders = []) →
        ∃ d2, Leads (.modelUnloadComplete m) s d2 ∧ (d2.model m).valid = false ∧ (d2.model m).busy = false ∧ d2.modelCopies m = [])
    ∧ (M.busy = false → Leads (.modelUnloadComplete m) s d)

/-! ### Sampler units (spec/18_sequence.md R344 to R360) -/

/-- R355 to R358: the instructions of a step on its registers, its draw position, its counts, its shadow entries, its emit buffer and
its PC; operands out of their range end the step with ILLEGAL, a poisoned address or emitted token with POISON. R347: a step program
that goes on past 65,536 instructions ends with RUNAWAY. A read that needs a link waits (R384). That a branch target outside the store
is refused whether or not the branch is taken, and any fault of a read is MEMFAULT, is the reading of log 64. -/
def Obligations.StepRegisters : Prop :=
  (∀ (s : State) (r : StepRun) (i : Instr), isStepWord i = true → (s.dev.sampler s.dev.cur.unit).run = some r → r.ended = none →
    r.killed = false → 65536 ≤ r.count → StepEnds i s r 7)
  ∧ ∀ (s : State) (r : StepRun) (fd fa fb n : Nat) (o : Int) (v : Bool), s.dev.stepAt r → (∀ k, (r.reg k).p = true → r.kindOf k ≠ 0) →
    let a := r.reg fa
    let b := r.reg fb
    let p := r.passed
    let held (x : Shadow) : Bool := flag x.mask n && decide (x.depth < a.v.toNat)
    StepTo (.srng fa n) s { p with posn := r.params.pos + a.v, draw := n }
    ∧ StepTo (.smemb fa) s { p with flag := r.list.any (fun c => c.1 == a.v.toNat % 2 ^ 32) }
    ∧ (b.v.toNat = 0 → StepTo (.scnt fa fb n) s { p with counts := r.counts ++ [a.v.toNat % 2 ^ 32] })
    ∧ (b.v.toNat ≠ 0 → b.v.toNat < 2 ^ 16 → r.shadow.length < 64 →
        StepTo (.scnt fa fb n) s { p with shadow := r.shadow ++ [⟨a.v.toNat % 2 ^ 32, b.v.toNat, n⟩] })
    ∧ (b.v.toNat ≠ 0 → 64 ≤ r.shadow.length → StepEnds (.scnt fa fb n) s r 3)
    ∧ (2 ^ 16 ≤ b.v.toNat → StepEnds (.scnt fa fb n) s r 3)
    ∧ (a.v.toNat ≤ 16 →
        StepTo (.scommit fa n) s { p with counts := r.counts ++ (r.shadow.filter held).map (·.token), shadow := [] })
    ∧ (16 < a.v.toNat → StepEnds (.scommit fa n) s r 3)
    ∧ StepTo .sabort s { p with shadow := [] }
    ∧ (a.p = false → r.emits.length < 64 → StepTo (.semit fa) s { p with emits := r.emits ++ [a.v.toNat % 2 ^ 32] })
    ∧ (a.p = false → 64 ≤ r.emits.length → StepEnds (.semit fa) s r 3)
    ∧ (a.p = true → StepPoisons (.semit fa) s r ∧ StepPoisons (.smovLoad fd fa o) s r)
    ∧ StepSets (.smov fd fa) s r fd a.v a.p ∧ StepSets (.smovImm fd o) s r fd (BitVec.ofInt 64 o) false
    ∧ StepSets (.sadd fd fa fb) s r fd (a.v + b.v) (a.p || b.p) ∧ StepSets (.saddImm fd fa o) s r fd (a.v + BitVec.ofInt 64 o) a.p
    ∧ (a.p = false → ∀ w q d1,
        Dev.stepRead s.mod { s.dev with verdict := .done } r.params.own (a.v + BitVec.ofInt 64 (8 * o)).toNat 8 = .ok (w, q, d1) →
        StepLeaves (.smovLoad fd fa o) s d1
          ({ p with pline := r.pline.or q }.setReg fd (BitVec.ofNat 64 w) (if q.isSome then 2 else 0)))
    ∧ (a.p = false →
        Dev.stepRead s.mod { s.dev with verdict := .done } r.params.own (a.v + BitVec.ofInt 64 (8 * o)).toNat 8 = .error (.ended 4) →
        StepEnds (.smovLoad fd fa o) s r 4)
    ∧ (a.p = false → ∀ w,
        Dev.stepRead s.mod { s.dev with verdict := .done } r.params.own (a.v + BitVec.ofInt 64 (8 * o)).toNat 8 = .error (.waits w) →
        StepWaits (.smovLoad fd fa o) s r w)
    ∧ (∃ f : Bool, StepTo (.scmp fa fb n) s { p with flag := f }
        ∧ (n < 6 → (f = true ↔ (n = 0 ∧ a.v = b.v) ∨ (n = 1 ∧ a.v ≠ b.v) ∨ (n = 2 ∧ a.v.toInt < b.v.toInt)
          ∨ (n = 3 ∧ b.v.toInt ≤ a.v.toInt) ∨ (n = 4 ∧ a.v.toInt ≤ b.v.toInt) ∨ (n = 5 ∧ b.v.toInt < a.v.toInt))))
    ∧ (0 ≤ r.pc + o → r.pc + o < 4096 → StepTo (.sjmp o) s { p with pc := r.pc + o }
        ∧ StepTo (.sbr v o) s { p with pc := if r.flag = v then r.pc + o else r.pc + 1 })
    ∧ ((r.pc + o < 0 ∨ 4096 ≤ r.pc + o) → StepEnds (.sjmp o) s r 3 ∧ StepEnds (.sbr v o) s r 3)
    ∧ StepEnds .send s r 0

/-- R351 to R355: the instructions of a step on its candidate list. SLDC reads it; SPEN and STEMP change its values, STOPK, STOPP and
SMINP shorten it, SSMAX makes probabilities of it, and SDRAW draws from it; PROB of the wrong value ends the step with BADSTATE, a
NaN with NAN-LOGIT. SPEN waits for the lines of its counts that the host holds (R378; log 67). That a read that fails ends the step
with MEMFAULT whatever its fault, and which reads pass poison on, is the reading of log 64. -/
def Obligations.StepLists : Prop :=
  ∀ (s : State) (r : StepRun) (fd fa fb n f : Nat) (pb : Bool), s.dev.stepAt r →
    let d := s.dev
    let p := r.passed
    let x := r.params
    let a := r.reg fa
    let b := r.reg fb
    let sort (l : List (Nat × Nat)) : List (Nat × Nat) := l.sortWith StepRun.before
    let nan (l : List (Nat × Nat)) : Prop := l.any (fun c => (valF f32 c.2).isNan) = true
    let cool : List (Nat × Nat) := r.list.map (fun c => (c.1, (fdivF f32 c.2 x.temp).1))
    let times (t : Nat) : Nat :=
      d.countOfToken r t + (if pb then (r.shadow.filter (fun e => e.token == t && flag e.mask n && decide (e.depth < a.v.toNat))).length else 0)
    let minus (t v : Nat) : Nat :=
      let v := if FVal.lt FVal.zero (valF f32 v) then (fdivF f32 v x.rep).1 else (fmulF f32 v x.rep).1
      (fsubF f32 (fsubF f32 v (rneOp f32 ((valF f32 x.freq).mul (FVal.ofInt (times t)))).1).1 x.pres).1
    let fined : List (Nat × Nat) := r.list.map (fun c => if times c.1 = 0 then c else (c.1, minus c.1 c.2))
    let live : List (Nat × Nat) := r.list.filter (fun c => valF f32 c.2 != .inf true)
    let size := if f = 0 then 8 else if f = 1 then 4 else 2
    (r.prob = true → StepEnds .stemp s r 6 ∧ StepEnds .ssmax s r 6 ∧ StepEnds (.spen fa false n) s r 6)
    ∧ (r.prob = false → StepEnds .stopp s r 6 ∧ StepEnds .sminp s r 6 ∧ StepEnds (.sdraw fd) s r 6)
    ∧ (r.prob = false → (FVal.eq (valF f32 x.temp) FVal.zero = true → StepTo .stemp s { p with list := r.list.take 1 })
        ∧ (FVal.eq (valF f32 x.temp) FVal.zero = false →
          (nan cool → StepEnds .stemp s r 2) ∧ (¬nan cool → StepTo .stemp s { p with list := sort cool })))
    ∧ StepTo .stopk s { p with list := if x.topk = 0 then r.list else r.list.take x.topk }
    ∧ (r.prob = true →
      (∃ k, StepTo .stopp s { p with list := r.list.take k }
        ∧ let tau := valF f64 (rneOp f64 ((valF f32 x.topp).mul (r.sumTo r.list.length))).1
          1 ≤ k ∧ (∀ j, 1 ≤ j → j < k → j ≤ r.list.length → FVal.lt (r.sumTo j) tau = true)
            ∧ (k < r.list.length → FVal.lt (r.sumTo k) tau = false))
      ∧ StepTo .sminp s { p with list := r.list.filter (fun c =>
          !FVal.lt (valF f32 c.2) (valF f32 (fmulF f32 x.minp ((r.list.map (·.2)).headD 0)).1)) }
      ∧ (r.list ≠ [] → ∃ k, k < r.list.length
        ∧ StepTo (.sdraw fd) s { (p.setReg fd (BitVec.ofNat 64 ((r.list.map (·.1)).getD k 0)) (if r.listP then 2 else 0)) with
            draw := (r.draw + 1) % 2 ^ 32 }
        ∧ let u := philox x.seed.toNat (fld r.posn.toNat 0 32) (fld r.posn.toNat 32 32) r.draw x.seqid
          let y := valF f64 (rneOp f64 ((FVal.fin false (2 * u + 1) (2 ^ 33)).mul (r.sumTo r.list.length))).1
          (∀ j, 1 ≤ j → j ≤ k → FVal.lt y (r.sumTo j) = false)
            ∧ (k + 1 < r.list.length → FVal.lt y (r.sumTo (k + 1)) = true)))
    ∧ (r.prob = false →
      (live = [] → StepEnds .ssmax s r 1)
      ∧ (live ≠ [] →
        let top := if valF f32 ((live.map (·.2)).headD 0) = .inf false then live.filter (fun c => valF f32 c.2 == .inf false) else live
        StepTo .ssmax s { p with
          list := sort ((top.map (·.1)).zip (gateWeights (top.map (fun c => valF f32 c.2))).1), prob := true })
      ∧ (pb = false ∨ a.v.toNat ≤ 16 → d.countLent x (r.list.map (·.1)) false ≠ [] →
        StepWaits (.spen fa pb n) s r (.link 0 (d.countLent x (r.list.map (·.1)) false)))
      ∧ (pb = false ∨ a.v.toNat ≤ 16 → d.countLent x (r.list.map (·.1)) false = [] → (nan fined → StepEnds (.spen fa pb n) s r 2)
        ∧ (¬nan fined → ∃ r', StepTo (.spen fa pb n) s r' ∧ r'.list = sort fined
          ∧ r'.listP = (r.listP || r.list.any (fun c => d.countPoison r c.1)) ∧ { r' with list := r.list, listP := r.listP, pline := r.pline } = p)))
    ∧ (pb = true → 16 < a.v.toNat → StepEnds (.spen fa pb n) s r 3)
    ∧ (a.p = true ∨ b.p = true → StepPoisons (.sldc fa fb f) s r)
    ∧ (a.p = false → b.p = false →
      (b.v.toNat = 0 ∨ 131072 < b.v.toNat ∨ a.v.toNat % size ≠ 0 → StepEnds (.sldc fa fb f) s r 3)
      ∧ (1 ≤ b.v.toNat → b.v.toNat ≤ 131072 → a.v.toNat % size = 0 → ∀ vs q d1,
        Dev.stepReads s.mod { d with verdict := .done } x.own a.v.toNat size b.v.toNat = .ok (vs, q, d1) →
        let l : List (Nat × Nat) := ((List.range b.v.toNat).zip vs).map (fun e =>
          if f = 0 then (fld e.2 0 32, fld e.2 32 32) else (e.1, toF32 (if f = 1 then 1 else if f = 2 then 3 else 2) e.2))
        (f = 0 → ¬(l.map (·.1)).Nodup → StepEnds (.sldc fa fb f) s r 3)
        ∧ ((f ≠ 0 ∨ (l.map (·.1)).Nodup) → nan l → StepEnds (.sldc fa fb f) s r 2)
        ∧ ((f ≠ 0 ∨ (l.map (·.1)).Nodup) → ¬nan l → StepLeaves (.sldc fa fb f) s d1
            { p with list := sort l, prob := false, listP := r.listP || q.isSome, pline := r.pline.or q })))

/-- R344 to R346, R349, R360: the registers and the queue of a sampler unit. A write of EN is accepted over an OPEN word queue of kind 1
alone; a sequence context takes its fields while it is not VALID; STEP_REQUEST pops a request and begins its step, or discards it;
STEP_RESULT_PUSH commits an ended step and pushes its words while RESQ has room. A request is popped from the cycle after its push on
(R220), and what a RESQ that takes no words does is the reading of log 64. -/
def Obligations.SamplerUnits : Prop :=
  ∀ (s : State) (j q : Nat) (v : Word), j < 4 → q < 256 →
    let d := s.dev
    let u := d.sampler j
    let x := d.seq j q
    let rq := if u.en then u.rq else fld v.toNat 0 12
    let opens : Bool := (d.queue rq).state == .opened && (d.queue rq).kind == 1 && !(d.queue rq).wide
    let own := fld v.toNat 48 6
    let set (y : Sampler) : Dev := d.setSampler j y
    let held := if u.en = true ∨ u.rq = fld v.toNat 0 12 then u else u.unqueue
    Leads (.smpUcfgWrite j v) s (set { held with rq := rq, en := flag v.toNat 12 && (u.en || opens) })
    ∧ Leads (.smpDropRead j) s (set { u with drop := 0 })
    ∧ (x.valid = false → Leads (.smpScfgWrite j q v) s (d.setSeq j q { x with
        own := own, resq := fld v.toNat 32 12, seqid := fld v.toNat 0 32, shadow := [],
        valid := flag v.toNat 63 && x.pbase != 0 && (d.ctx own).state != .free }))
    ∧ (x.valid = true → (flag v.toNat 63 = true → Leads (.smpScfgWrite j q v) s d)
        ∧ (flag v.toNat 63 = false → d.seqRunning j q = false →
            Leads (.smpScfgWrite j q v) s (d.setSeq j q { x with valid := false, shadow := [] }))
        ∧ (flag v.toNat 63 = false → d.seqRunning j q = true → Leads (.smpScfgWrite j q v) s (set { u with late := u.late ++ [(q, 0, 0)] })))
    ∧ ((u.en = false ∨ u.run.isSome = true) → Leads (.stepRequest j) s d)
    ∧ (u.en = true → u.run = none → (d.queue u.rq).entries = [] → (d.queue u.rq).state ≠ .opened →
        Leads (.stepRequest j) s (set { u with en := false }))
    ∧ (u.en = true → u.run = none → (d.queue u.rq).entries ≠ [] → d.readyEntries (.pool u.rq) = [] → Leads (.stepRequest j) s d)
    ∧ (∀ e es, u.en = true → u.run = none → (d.queue u.rq).entries = e :: es → d.readyEntries (.pool u.rq) ≠ [] →
      let w := (e.v.setWidth 64).toNat
      let y := d.seq j (w % 256)
      let can := y.valid = true ∧ y.own = (d.queue u.rq).pctx ∧ (d.ctx y.own).state ≠ .killed
      let d0 := { d with cur := { d.cur with sampler := true, unit := j } }
      let d0 := (d0.serve (8 * u.rq)).setQueue u.rq { d.queue u.rq with entries := es }
      let popped := { d0 with cur := { d.cur with sampler := false, unit := j } }
      let r : StepRun :=
        { seq := w % 256, params := y, pc := fld w 8 12, posn := y.pos, shadow := y.shadow,
          g := [(1, ⟨BitVec.ofNat 64 (w / 2 ^ 20 * 1024), e.p⟩)], kinds := [(1, if e.p then 3 else 0)] }
      (can → Leads (.stepRequest j) s (popped.setSampler j { u with run := some r }))
      ∧ (¬can → ∃ d2, Leads (.stepRequest j) s d2 ∧ d2.queues = popped.queues ∧ (∀ k, k ≠ j → d2.sampler k = d.sampler k)
          ∧ d2.sampler j =
              { u with drop := min 0xFFFF (u.drop + 1), late := if popped.seqQueued j (w % 256) then u.late else u.late.filter (fun e => e.1 != w % 256) }))
    ∧ (∀ r st, u.run = some r → r.ended = some st → r.killed = false → r.committed = false → u.late = [] → u.progLate = [] →
      (st ≤ 1 → d.countLent r.params r.counts true = []) →
      let Q := d.queue r.params.resq
      let es := if st ≤ 1 then r.emits else []
      let ws := es.map (fun t => BitVec.ofNat 64 (2 ^ 60 + (256 * j + r.seq) * 2 ^ 40 + t))
        ++ [BitVec.ofNat 64 (2 * 2 ^ 60 + (256 * j + r.seq) * 2 ^ 40 + st * 2 ^ 32 + es.length)]
      (Q.state = .opened → Q.pctx = r.params.own → Q.wide = false → ws.length ≤ d.roomOf (.pool r.params.resq) →
        ∃ d2, Leads (.stepResultPush j) s d2
          ∧ (d2.queue r.params.resq).entries = Q.entries ++ ws.map (fun w => ⟨w.setWidth 16384, false⟩)
          ∧ (d2.sampler j).run = none ∧ (d2.sampler j).last = st ∧ (d2.sampler j).steps = (u.steps + 1) % 2 ^ 16
          ∧ (d2.seq j r.seq).last = st
          ∧ (st ≤ 1 → (d2.seq j r.seq).pos = (d.seq j r.seq).pos + BitVec.ofNat 64 r.emits.length
              ∧ (d2.seq j r.seq).shadow = r.shadow)
          ∧ (1 < st → (d2.seq j r.seq).pos = (d.seq j r.seq).pos ∧ (d2.seq j r.seq).shadow = (d.seq j r.seq).shadow ∧ d2.mem = d.mem))
      ∧ (Q.state ≠ .opened → ∃ d2, Leads (.stepResultPush j) s d2 ∧ (d2.sampler j).run = none
          ∧ (d2.sampler j).drop = min 0xFFFF (u.drop + ws.length) ∧ (d2.queue r.params.resq).drop = min 0xFFFF (Q.drop + ws.length)
          ∧ (d2.queue r.params.resq).entries = Q.entries ∧ ∀ k, k ≠ r.params.resq → d2.queue k = d.queue k))

/-! ### The module (spec/01_module.md R10 to R20) -/

/-- R11, R15, R372, R396: the events of the module's life, each in its state and without effect in another. Power, the self-test, the
choice of a record, the identity, the losses, the causes that seal it off, a rewrite of the record, a sample of the panel, and the
self-test of a frozen control core. A seal-off keeps the first cause and kills every context. That an event does nothing in another
state is log 48, and that the boot self-test makes a module DEGRADED that has lost a site to a spare is the reading of log 36. -/
def Obligations.ModuleLife : Prop :=
  ∀ (s : State) (t : SelfTest) (p : Sample) (tcc pass : Bool),
    let m := s.mod
    let L := m.life
    let put (m : Mod) : State := { s with mod := m }
    let works : Prop := L = .ready ∨ L = .degraded
    let tcore := if tcc then 0xF1 else 0xF0
    (L = .off → exec .allRailsGood s = .next (put { m with life := .romBoot, slot0 := Config.romMeasurement }))
    ∧ (L ≠ .off → exec .allRailsGood s = .next s)
    ∧ (L = .romBoot →
        ((t.ioFail || t.allDiesFail) = false → exec (.selfTestDone t) s = .next (put { m with test := some t, life := .config }))
        ∧ ((t.ioFail || t.allDiesFail) = true → exec (.selfTestDone t) s = .next (sealOff 1 (put { m with test := some t }))))
    ∧ (L ≠ .romBoot → exec (.selfTestDone t) s = .next s)
    ∧ (L = .config →
        (m.copyA.valid = false → m.copyBRec.valid = false → exec .configRecordSelected s = .next (sealOff 2 s))
        ∧ ((m.copyA.valid || m.copyBRec.valid) = true → ∃ u, exec .configRecordSelected s = .next u
          ∧ let b := m.copyBRec.valid && (!m.copyA.valid || decide (m.copyA.seq < m.copyBRec.seq))
            let r := if b then m.copyBRec else m.copyA
            u.mod = { m with life := .attest, copyB := b, active := r, inForce := true, slot1 := sha3 r.bytes, slot2 := Config.trimHash }
              ∧ u.dev = match m.test with
                | none => s.dev.applyRecord r
                | some t => (s.dev.applyRecord r).applySelfTest t))
    ∧ (L ≠ .config → exec .configRecordSelected s = .next s)
    ∧ (L = .attest →
        (m.active.pubKey ≠ Config.derivedKey → exec .identityDerived s = .next (sealOff 6 s))
        ∧ (m.active.pubKey = Config.derivedKey → ∃ l, exec .identityDerived s = .next (put { m with life := l })
          ∧ (l = .degraded ↔ s.dev.absentCores ≠ 0 ∨ s.dev.lakeMask ≠ 0 ∨ s.dev.nvmeMask ≠ 0
              ∨ ∃ x, m.test = some x ∧ x.sites ≠ [])
          ∧ (l = .ready ∨ l = .degraded)))
    ∧ (L ≠ .attest → exec .identityDerived s = .next s)
    ∧ (∃ u, exec .powerRemoved s = .next u ∧ u.mod.life = .off ∧ u.mod.copyA = m.copyA ∧ u.mod.copyBRec = m.copyBRec
        ∧ u.mod.flash = m.flash ∧ u.dev = { fresh := s.dev.fresh })
    ∧ (works → exec .thermalTrip s = .next (sealOff 4 s) ∧ exec .railFault s = .next (sealOff 5 s))
    ∧ (¬works → exec .thermalTrip s = .next s ∧ exec .railFault s = .next s ∧ exec .recordRewrite s = .next s)
    ∧ (∀ c, c ≠ 0 → (sealOff c s).mod = { m with life := .sealedOff, sealCause := if m.sealCause = 0 then c else m.sealCause, runImage := [] }
        ∧ ∀ n, n < 64 → (s.dev.ctx n).state ≠ .free → ((sealOff c s).dev.ctx n).state = .killed)
    ∧ (works → recordStale s = false → exec .recordRewrite s = .next s)
    ∧ (works → recordStale s = true →
      let r := s.dev.nextRecord m.active m.active.minimum
      let r := { r with sig := Config.mldsaSign s.dev.fresh r.body }
      let written := if m.copyB then { m with copyA := r } else { m with copyBRec := r }
      ∃ u, exec .recordRewrite s = .next u ∧ r.seq = m.active.seq + 1
        ∧ u.mod = if r.valid then { written with copyB := !m.copyB, active := r, slot1 := sha3 r.bytes } else written)
    ∧ (L ≠ .off → ∃ u, exec (.panelSample p) s = .next u ∧ u.dev = s.dev ∧ u.mod.panel.peak = max m.panel.peak p.power
        ∧ Map.get 0 u.mod.panel.regs 16 = BitVec.ofNat 64 (p.power % 2 ^ 32 + max m.panel.peak p.power % 2 ^ 32 * 2 ^ 32)
        ∧ u.mod = { m with panel := u.mod.panel })
    ∧ (L = .off → exec (.panelSample p) s = .next s)
    ∧ (¬(works ∧ (s.dev.core tcore).frozen = true) → exec (.controlCoreSelfTest tcc pass) s = .next s)
    ∧ (works → (s.dev.core tcore).frozen = true →
        exec (.controlCoreSelfTest tcc true) s = .next (s.with (s.dev.setCore tcore {}))
        ∧ exec (.controlCoreSelfTest tcc false) s = .next (sealOff 1 (s.with (s.dev.setCore tcore {}))))

/-- R17 to R20: the management commands. Without power there is none; while a service image runs, another command from a transport
completes with BUSY, and one that finds the management core free finds the image over; the image may issue commands while it runs; in
a state that does not allow it, a command has 0x02; an unlisted opcode has 0x06; otherwise each has its effect and its response, or
the status of what is wrong with its payload. Which of two refusals comes first, and that a command other than RUN_IMAGE is over in its
own step, is the reading of log 69; the 0x03 of a RUN_IMAGE whose record fails its read-back is the model's choice (log 90). -/
def Obligations.ModuleCommands : Prop :=
  ∀ (s0 : State) (c : Caller) (kind index off cnt opcode : Nat) (nonce data : List Byte),
    let s := if c = .image then s0 else imageOver s0
    let m := s.mod
    let L := m.life
    let works : Prop := L = .ready ∨ L = .degraded
    let busy : Prop := c = .transport true ∧ s0.mod.runImage ≠ []
    let gone : Prop := c = .image ∧ s0.mod.runImage = []
    let say (st : Nat) (bs : List Byte) (s : State) : State := { s with mod := { s.mod with response := some ⟨st, bs⟩ } }
    let working : List Instr := [.attest c nonce, .mapOut c kind index, .loadImage c off data, .runImage c, .sealOff c]
    let allOf : List Instr := [.getIdentity c, .getState c, .readConfig c, .readPanel c off cnt, .unknownCommand c opcode] ++ working
    let old : List Byte := if off = 0 then [] else m.image
    let regs : List Nat := (List.range cnt).map (fun i => panelReg m (off + i))
    (L = .off ∨ gone → ∀ i ∈ allOf, exec i s0 = .next s0)
    ∧ (0xC000 ≤ opcode → opcode ≤ 0xC008 → exec (.unknownCommand c opcode) s0 = .next s0)
    ∧ (L ≠ .off → ¬(0xC000 ≤ opcode ∧ opcode ≤ 0xC008) → (busy → ∀ i ∈ allOf, exec i s0 = .next (say 1 [] s0))
        ∧ (¬busy → ¬gone → exec (.unknownCommand c opcode) s0 = .next (say 6 [] s)))
    ∧ (L ≠ .off → ¬busy → ¬gone →
      (¬works → (∀ i ∈ working, exec i s0 = .next (say 2 [] s)) ∧ (L ≠ .attest → exec (.getIdentity c) s0 = .next (say 2 [] s)))
      ∧ exec (.getState c) s0 = .next (say 0 (toBytes 8 (modState m s.dev)
          ++ (List.range 144).map (fun i => BitVec.ofNat 8 (s.dev.site i).state.code)) s)
      ∧ exec (.readConfig c) s0 = .next (say 0 m.active.bytes s)
      ∧ exec (.readPanel c off cnt) s0 = .next (say 0 (regs.map (toBytes 8)).flatten s)
      ∧ (works ∨ L = .attest → exec (.getIdentity c) s0 = .next (say 0 (toBytes 2592 Config.derivedKey) s))
      ∧ (works →
        (nonce.length ≠ 64 → exec (.attest c nonce) s0 = .next (say 5 [] s))
        ∧ (nonce.length = 64 →
          let body := nonce ++ toBytes 64 m.slot0 ++ toBytes 64 m.slot1 ++ toBytes 64 m.slot2 ++ toBytes 64 m.slot3
            ++ toBytes 8 (modState m s.dev)
          exec (.attest c nonce) s0 = .next (say 0 (body ++ toBytes 4627 (Config.mldsaSign s.dev.fresh body))
            (s.with { s.dev with fresh := s.dev.fresh + 1 })))
        ∧ ((2 < kind ∨ (kind = 0 ∧ 144 ≤ index) ∨ (kind = 1 ∧ 64 ≤ index) ∨ (kind = 2 ∧ 8 ≤ index)) →
            exec (.mapOut c kind index) s0 = .next (say 5 [] s))
        ∧ (index < 144 → s.dev.freezeRefused (index / 9) index = true → exec (.mapOut c 0 index) s0 = .next (say 2 [] s))
        ∧ (index < 144 → s.dev.freezeRefused (index / 9) index = false →
            exec (.mapOut c 0 index) s0 = .next (say 0 [] (s.with (s.dev.freezeSite index))))
        ∧ (index < 64 → ∃ u, exec (.mapOut c 1 index) s0 = .next u ∧ u.mod = { m with life := .degraded, response := some ⟨0, []⟩ }
            ∧ u.dev.lakeMask = s.dev.lakeMask ||| BitVec.ofNat 64 (2 ^ index) ∧ u.dev.nvmeMask = s.dev.nvmeMask)
        ∧ (index < 8 → ∃ u, exec (.mapOut c 2 index) s0 = .next u ∧ u.mod = { m with life := .degraded, response := some ⟨0, []⟩ }
            ∧ u.dev = { s.dev with nvmeMask := s.dev.nvmeMask ||| 2 ^ index })
        ∧ (data ≠ [] → data.length ≤ 4096 → off = old.length → old.length + data.length ≤ 2 ^ 20 →
            exec (.loadImage c off data) s0 = .next (say 0 [] { s with mod := { m with image := old ++ data } }))
        ∧ ((data = [] ∨ 4096 < data.length ∨ off ≠ old.length ∨ 2 ^ 20 < old.length + data.length) →
            exec (.loadImage c off data) s0 = .next (say 5 [] s))
        ∧ (let st := imageStatus m.image m.active.minimum
          let want := ofBytes ((m.image.drop 8).take 4)
          (st ≠ 0 → exec (.runImage c) s0 = .next (say st [] s))
          ∧ (st = 0 → want ≤ m.active.minimum →
              exec (.runImage c) s0 = .next (say 0 [] { s with mod := { m with slot3 := sha3 m.image, runImage := m.image } }))
          ∧ (st = 0 → m.active.minimum < want →
              let r := s.dev.nextRecord m.active want
              let r := { r with sig := Config.mldsaSign s.dev.fresh r.body }
              ∃ u, exec (.runImage c) s0 = .next u ∧ (r.valid = false → u.mod = { m with response := some ⟨3, []⟩ })
                ∧ (r.valid = true → u.mod.response = some ⟨0, []⟩ ∧ u.mod.slot3 = sha3 m.image ∧ u.mod.runImage = m.image
                  ∧ u.mod.active = r ∧ u.mod.copyB = !m.copyB)))
        ∧ exec (.sealOff c) s0 = .next (say 0 [] (sealOff 3 s))))

/-! ### Links (spec/20_link.md R377 to R385) -/

/-- R383, R385, R377: the states of a port. Each event moves a port from the states that the rule lists, and changes nothing in another
(the last is log 48). Entry to FENCED poisons the dirty host lines held here and the Lake lines that the host held, empties the snoop
filter, and ends the waiting accesses that have no response; its completion drops the poisoned host copies. That what has been
answered stays with its access is log 34, that the IDE bit follows the keys is log 35, and that a wait for the host to give a Lake line
back is none that a fence faults is log 90. -/
def Obligations.LinkStates : Prop :=
  ∀ (s : State) (p rate width : Nat) (f68 : Bool) (key : Word), p < 3 →
    let d := s.dev
    let l := d.link p
    let S := l.state
    let set (l : Link) : Dev := d.setLink p l
    let full : Nat := if p = 0 then 16 else 8
    let good (w68 : Bool) : Prop := (rate = 64 ∨ rate = 32 ∨ rate = 16) ∧ (width = 8 ∨ width = 4 ∨ (width = 16 ∧ p = 0))
      ∧ (w68 = true → p = 0 ∧ rate ≠ 64 ∧ l.allow68 = true)
    let up (w68 : Bool) : Link := { l with
      state := if rate = 64 ∧ width = full then .up else .degraded, rate := rate, width := width, flit := bit w68,
      everUp := l.everUp || (decide (rate = 64) && decide (width = full)) }
    let live : Prop := S = .up ∨ S = .degraded ∨ S = .recovering
    let ws := (d.linkWaiters p).filter Dev.unanswered
    let bare (cause : Nat) : Dev :=
      { d with poisoned := (l.dirty ++ l.lent).foldl (fun m x => insertNat x m) d.poisoned }.setLink p { l with
        state := .fenced, losses := min 0xFFFF (l.losses + 1), fcause := cause, asked := [], lent := [], shared := [],
        lines := l.lines.filter l.dirty.contains, lastUse := [] }
    let fenced (cause : Nat) : Dev := { ws.foldl Dev.fenceFault (bare cause) with cur := d.cur }
    ((d.link 0).state = .down → Leads .perstRelease s (d.setLink 0 { d.link 0 with state := .training }))
    ∧ ((d.link 0).state ≠ .down → Leads .perstRelease s d)
    ∧ (p ≠ 0 → S = .down → Leads (.lnkTrain p) s (set { l with state := .training }))
    ∧ ((p = 0 ∨ S ≠ .down) → Leads (.lnkTrain p) s d)
    ∧ (S = .training → good f68 → Leads (.trainingDone p rate width f68) s (set (up f68)))
    ∧ ((S ≠ .training ∨ ¬good f68) → Leads (.trainingDone p rate width f68) s d)
    ∧ (S = .training → Leads (.trainingTimeout p) s (set { l with state := .down }))
    ∧ (S ≠ .training → Leads (.trainingTimeout p) s d)
    ∧ ((S = .up ∨ S = .degraded) → Leads (.linkRecoveryEntry p) s (set { l with state := .recovering }))
    ∧ (¬(S = .up ∨ S = .degraded) → Leads (.linkRecoveryEntry p) s d)
    ∧ (S = .recovering → good (l.flit == 1) → Leads (.recoveryDone p rate width) s (set (up (l.flit == 1))))
    ∧ ((S ≠ .recovering ∨ ¬good (l.flit == 1)) → Leads (.recoveryDone p rate width) s d)
    ∧ (live → Leads (.uncorrectableFlitError p) s (fenced 2) ∧ Leads (.ideIntegrityFailure p) s (fenced 3)
        ∧ Leads (.surpriseDown p) s (fenced 4) ∧ Leads (.lnkFence p) s (fenced 5))
    ∧ (¬live → Leads (.uncorrectableFlitError p) s d ∧ Leads (.ideIntegrityFailure p) s d ∧ Leads (.surpriseDown p) s d
        ∧ Leads (.lnkFence p) s d)
    ∧ (S = .recovering → Leads (.recoveryTimeout p) s (fenced 1)) ∧ (S ≠ .recovering → Leads (.recoveryTimeout p) s d)
    ∧ (S = .fenced → Leads (.fenceComplete p) s
        ({ d with poisoned := l.dirty.foldl (fun m x => eraseNat x m) d.poisoned }.setLink p { l with
          state := .down, rate := 0, width := 0, flit := 0, ide := false, lines := [], dirty := [] }))
    ∧ (S ≠ .fenced → Leads (.fenceComplete p) s d)
    ∧ Leads (.ideKm p key) s (set { l with keys := l.keys ++ [key], ide := true })

/-- R178, R179, R191, R378, R381, R384: what other agents do at the module's lines. A response brings a line that was asked for, once,
to the accesses that wait for it, and a line of the host stays here; the host takes a Lake line shared or exclusively, in a snoop
filter that takes back its least recently used entry first when it is full, writes one, or gives one back; a peer's request waits while
the host holds the line; a request at a dirty stash entry writes it back or takes it away. That a write of the host ends its exclusive
hold is the reading of log 67; that a request for a line that a frozen site holds dirty has no effect yet is that of log 88 (R368). -/
def Obligations.RemoteAccesses : Prop :=
  ∀ (s : State) (p line g : Nat) (bytes : List Byte) (poison : Bool), p < 3 →
    let d := s.dev
    let l := d.link p
    let h := d.link 0
    let carries (l : Link) : Prop := l.state = .up ∨ l.state = .degraded
    let lake : Prop := targetOf (line * 64) = .lake
    let host (l : Link) : Dev := d.setLink 0 l
    let held := h.lent.contains line
    let known : Prop := held = true ∨ h.shared.contains line = true
    let frozen := d.frozenDirty (line * 64) 64
    let seen := d.snoop none (line * 64) 64 false
    let taken := d.snoop none (line * 64) 64 true
    let stood (x : Group) : Prop := x.core < 128 ∧ Dev.siteHolds (d.site (d.siteOf x.core)) = true
    let used : Dev := { seen with uses := d.uses + 1 }
    let h2 : Link := { h with lastUse := Map.set h.lastUse line d.uses }
    (¬carries l → Leads (.linkResponse p ⟨line, bytes, poison⟩) s d ∧ (p ≠ 0 → ∀ q, Leads (.peerLakeAccess p q) s d))
    ∧ (¬carries h → ∀ q, Leads (.hostLakeAccess q) s d)
    ∧ (Map.find l.asked line = none → Leads (.linkResponse p ⟨line, bytes, poison⟩) s d)
    ∧ (carries l → Map.find l.asked line ≠ none →
        let l2 : Link := { l with
          asked := Map.del l.asked line, lines := if targetOf (line * 64) = .host then insertNat line l.lines else l.lines,
          lent := eraseNat line l.lent, shared := eraseNat line l.shared, lastUse := Map.del l.lastUse line }
        (bytes.length ≠ 64 → Leads (.linkResponse p ⟨line, bytes, poison⟩) s ((d.setLink p l2).answer p line))
        ∧ (bytes.length = 64 →
            Leads (.linkResponse p ⟨line, bytes, poison⟩) s (((d.storeBytes (line * 64) bytes poison).setLink p l2).answer p line)))
    ∧ (∀ y, y = seen ∨ y = taken → y.mem = d.mem ∧ y.links = d.links
        ∧ ∀ x ∈ y.groups, ∀ e ∈ x.2.stash, Dev.realLine e.2.phys = line → e.2.dirty = false)
    ∧ (carries h → lake → frozen = true → ∀ own, Leads (.hostLakeAccess (.read line own)) s d
        ∧ Leads (.hostLakeAccess (.write line bytes poison)) s d)
    ∧ (carries h → lake → frozen = false →
      (known ∨ h.lent.length + h.shared.length < 4194304 →
        Leads (.hostLakeAccess (.read line true)) s (used.setLink 0 { h2 with lent := insertNat line h.lent, shared := eraseNat line h.shared })
        ∧ (held = true → Leads (.hostLakeAccess (.read line false)) s (used.setLink 0 h2))
        ∧ (held = false → Leads (.hostLakeAccess (.read line false)) s (used.setLink 0 { h2 with shared := insertNat line h.shared })))
      ∧ (¬known → 4194304 ≤ h.lent.length + h.shared.length → ∀ old at_, (old, at_) ∈ h.lastUse →
        (∀ x ∈ h.lastUse, x = (old, at_) ∨ at_ < x.2) → ∀ own, Leads (.hostLakeAccess (.read line own)) s (seen.askLines 0 [old])))
    ∧ (carries h → Leads (.hostLakeAccess (.release line)) s
          (host { h with lent := eraseNat line h.lent, shared := eraseNat line h.shared, lastUse := Map.del h.lastUse line }))
    ∧ (carries h → lake → frozen = false → bytes.length = 64 → ∃ d2, Leads (.hostLakeAccess (.write line bytes poison)) s d2
        ∧ d2.mem = (taken.storeBytes (line * 64) bytes poison).mem ∧ d2.poisoned = (taken.storeBytes (line * 64) bytes poison).poisoned
        ∧ (d2.link 0).lent = eraseNat line h.lent)
    ∧ (¬lake → ∀ own, Leads (.hostLakeAccess (.read line own)) s d ∧ Leads (.hostLakeAccess (.write line bytes poison)) s d)
    ∧ (p ≠ 0 → carries l → lake → frozen = false →
      (held = true → ∀ own, Leads (.peerLakeAccess p (.read line own)) s (d.askLines 0 [line]))
      ∧ (held = false → ∀ own, Leads (.peerLakeAccess p (.read line own)) s seen)
      ∧ (bytes.length = 64 → (held = true ∨ h.shared.contains line = true) →
          Leads (.peerLakeAccess p (.write line bytes poison)) s (d.askLines 0 [line]))
      ∧ (bytes.length = 64 → held = false → h.shared.contains line = false →
          ∃ d2, Leads (.peerLakeAccess p (.write line bytes poison)) s d2 ∧ d2.mem = (taken.storeBytes (line * 64) bytes poison).mem))
    ∧ (Map.find d.groups g = none → Leads (.stashRemoteAccess g line true) s d)
    ∧ (∀ x, Map.find d.groups g = some x →
      (Map.find x.stash line = none → Leads (.stashRemoteAccess g line true) s d ∧ Leads (.stashRemoteAccess g line false) s d)
      ∧ (∀ e, Map.find x.stash line = some e →
        (e.dirty = false ∨ stood x → Leads (.stashRemoteAccess g line true) s d ∧ Leads (.stashRemoteAccess g line false) s d)
        ∧ (e.dirty = true → ¬stood x →
          Leads (.stashRemoteAccess g line true) s (d.setGroup g { x with stash := Map.del x.stash line })
          ∧ Leads (.stashRemoteAccess g line false) s
              (d.setGroup g { x with stash := Map.set x.stash line { e with dirty := false } }))))

/-! ### Contexts, groups and debugging (spec/09_context.md, spec/12_group.md, spec/21_observation.md) -/

/-- R192 to R195, R210: the commands of a context slot, the end of a save, and a write of HEAD. A command from a state that its row does
not list has status 2, one while another runs has 1, an unlisted code has 4; CREATE checks its ASID and then its fields. A context that
has become FAULTED in the present cycle still takes a CHECKPOINT (R195). That CREATE, START and RESUME have status 2 where the module
runs no contexts is log 54, what a save writes is laid out by log 14, and an event out of place changes nothing (log 48). -/
def Obligations.ContextCommands : Prop :=
  ∀ (s : State) (n code head : Nat), n < 64 →
    let d := s.dev
    let c := d.ctx n
    let S := c.state
    let work : Prop := s.mod.life = .ready ∨ s.mod.life = .degraded
    let set (x : Ctx) : Dev := d.setCtx n x
    let st (k : Nat) : Dev := set { c with cmdst := k }
    let cap := 16 * 2 ^ c.fqSize
    (c.running ≠ none → (∀ i ∈ [Instr.ctxCreate n, .ctxStart n, .ctxStop n, .ctxCheckpoint n, .ctxResume n, .ctxFree n], Leads i s (st 1)))
    ∧ (c.running = none →
      (S ≠ .free ∨ ¬work → Leads (.ctxCreate n) s (st 2))
      ∧ (S = .free → work → (d.asidTaken n = true → Leads (.ctxCreate n) s (st 3))
        ∧ (d.asidTaken n = false →
          let ok : Prop := 1 ≤ c.maxgrp ∧ c.maxgrp ≤ 1024 ∧ c.maxq ≤ 4096 ∧ c.clumask ≠ 0 ∧ c.fqBase ≠ 0 ∧ c.img ≠ 0
          (¬ok → Leads (.ctxCreate n) s (st 4))
          ∧ (ok → Leads (.ctxCreate n) s (set { c with state := .created, head := 0, tail := 0, seq := 0, cmdst := 0 }))))
      ∧ (S = .created → work → Leads (.ctxStart n) s (set { c with state := .running, cmdst := 0 }))
      ∧ (S ≠ .created ∨ ¬work → Leads (.ctxStart n) s (st 2))
      ∧ (S = .running ∨ S = .faulted →
          Leads (.ctxStop n) s ((set { c with state := .saving, running := some 3 }).suspendAll n))
      ∧ (¬(S = .running ∨ S = .faulted) → Leads (.ctxStop n) s (st 2))
      ∧ (S = .running ∨ (S = .faulted ∧ c.faultedAt = d.time + 1) →
          Leads (.ctxCheckpoint n) s ((set { c with state := .saving, running := some 4 }).suspendAll n))
      ∧ (¬(S = .running ∨ (S = .faulted ∧ c.faultedAt = d.time + 1)) → Leads (.ctxCheckpoint n) s (st 2))
      ∧ (S = .saved → work →
          Leads (.ctxResume n) s (set { c with state := if c.waiting = [] then .running else .faulted, cmdst := 0 }))
      ∧ (S ≠ .saved ∨ ¬work → Leads (.ctxResume n) s (st 2))
      ∧ (S = .created ∨ S = .saved ∨ S = .killed → ∃ d2, Leads (.ctxFree n) s d2
          ∧ let x := d2.ctx n
            x.state = .free ∧ x.waiting = [] ∧ x.kernels = [] ∧ x.pipes = [] ∧ x.xkeys = [] ∧ x.cmdst = 0)
      ∧ (¬(S = .created ∨ S = .saved ∨ S = .killed) → Leads (.ctxFree n) s (st 2))
      ∧ (¬(1 ≤ code % 16 ∧ code % 16 ≤ 7) → Leads (.ctxBadCommand n code) s (st 4)))
    ∧ (S ≠ .free → S ≠ .killed → ∃ d2, Leads (.ctxKill n) s d2 ∧ (d2.ctx n).state = .killed ∧ (d2.ctx n).killcause = 0xFE
        ∧ (d2.ctx n).cmdst = 0 ∧ (d2.ctx n).waiting = [])
    ∧ (S = .free ∨ S = .killed → Leads (.ctxKill n) s (st 2))
    ∧ (S ≠ .saving ∨ c.running = none → Leads (.ctxSaveComplete n) s d)
    ∧ (S = .saving → c.running ≠ none →
      let d1 := d.suspendAll n
      let c1 := d1.ctx n
      (d1.residents n ≠ [] → Leads (.ctxSaveComplete n) s d1)
      ∧ (d1.residents n = [] → Leads (.ctxSaveComplete n) s ((d1.setCtx n { c1 with
          state := if c1.running = some 3 then .saved else if c1.waiting = [] then .running else .faulted,
          cmdst := 0, running := none, saves := c1.saves + 1 }).writeHeader n)))
    ∧ (let h := head % cap
      let within : Prop := (h + cap - c.head) % cap ≤ (c.tail + cap - c.head) % cap
      (¬within → Leads (.faultQueueHeadWrite n head) s d)
      ∧ (within → h = c.head → Leads (.faultQueueHeadWrite n head) s (set c))
      ∧ (within → h ≠ c.head → Leads (.faultQueueHeadWrite n head) s ((set { c with head := h }).drainRecords n c.waiting)))

/-- R237, R256, R257: GROUP_PLACEMENT places the request that the scheduler chose on the core it chose, and nothing else; a group placed
for the first time runs from its kernel's entry points with its argument in register 1 and its index in register 2. STAGE_EPOCH
happens once in an epoch, at its start. -/
def Obligations.GroupPlacement : Prop :=
  (∀ (s : State) (g core : Nat),
    let d := s.dev
    (d.nextPlacement d.requests [] = none → Leads (.groupPlacement g core) s d)
    ∧ (∀ r c d1, d.nextPlacement d.requests [] = some (r, c, d1) →
      (r = g → c = core → Leads (.groupPlacement g core) s (d1.place g core))
      ∧ (r ≠ g ∨ c ≠ core → Leads (.groupPlacement g core) s d))
    ∧ (d.time % 512 ≠ 0 → Leads .stageEpoch s d)
    ∧ (d.time % 512 = 0 → d.epochDone = d.time / 512 + 1 → Leads .stageEpoch s d)
    ∧ (d.time % 512 = 0 → d.epochDone ≠ d.time / 512 + 1 →
      ∃ d2, Leads .stageEpoch s d2 ∧ ((∀ n, (d.ctx n).pipes = []) → d2 = { d with epochDone := d.time / 512 + 1 })))
  ∧ (∀ (d : Dev) (key core : Nat), (d.group key).state = .pending → (d.group key).stopped = false → (d.group key).stage = none →
    let k := d.kernel (ctxOf key) (d.group key).kernel
    let x := (d.place key core).group key
    x.state = .running ∧ x.core = core ∧ x.rowsN = (k.regs + 31) / 32 * 32 ∧ x.recipesN = k.rcpn ∧ x.view = k.view
      ∧ ∀ e, ((x.stream e).declared = true ↔ flag k.streams e.num = true)
        ∧ (flag k.streams e.num = true → (x.stream e).pc = BitVec.ofNat 64 (k.base + k.entries.getD e.num 0)
          ∧ (x.stream e).r = [(1, (d.group key).arg), (2, ⟨BitVec.ofNat 64 (idxOf key), false⟩)]))

/-- R386, R387, R392 to R394: counters are cleared, written and their overflow bits cleared one by one, and what the present cycle has
added to a counter stays after a clear and is gone after a write; STOP holds a group and notes its positions, and the operations in it
complete their step; STOPAT waits for its targets in a group that runs, and RELEASE lets it run; a context that is neither RUNNING nor
FAULTED has status 4, an absent group 3; a breakpoint that fires is cause 0x21 with its number. A STOPAT of a group that does not run
waits (log 28). -/
def Obligations.DebugAndCounters : Prop :=
  ∀ (s : State) (n g site i b : Nat) (v : Word), n < 64 → g < 65536 →
    let d := s.dev
    let key := keyOf n g
    let named (x : Ctx) : Ctx := { x with dbgGroup := g }
    let st (k : Nat) : Dev := d.setCtx n { named (d.ctx n) with dbgStat := k }
    let stops : List Instr := [.dbgStop n g, .dbgStopat n g, .dbgRelease n g]
    let active : Prop := (d.ctx n).state = .running ∨ (d.ctx n).state = .faulted
    (¬active → ∀ j ∈ stops, ∃ d2, Leads j s d2 ∧ d2.ctx n = (st 4).ctx n ∧ d2.groups = d.groups)
    ∧ (active → Map.find d.groups key = none → ∀ j ∈ stops, ∃ d2, Leads j s d2 ∧ d2.ctx n = (st 3).ctx n ∧ d2.groups = d.groups)
    ∧ (active → ∀ x, Map.find d.groups key = some x →
      (∃ d2, Leads (.dbgStop n g) s d2 ∧ (d2.ctx n).dbgStat = 0 ∧ (d2.ctx n).dbgGroup = g
        ∧ (d2.ctx n).dbgPos = (List.range 4).zip (engines.map (fun e => (x.stream e).position))
        ∧ d2.group key = { x with
            state := if x.state = .running then .held else x.state, stopped := true, stopAt := none,
            toStep := if x.state = .running then engines.filter (fun e => (x.stream e).op.isSome) else x.toStep })
      ∧ (∃ d2, Leads (.dbgRelease n g) s d2 ∧ (d2.ctx n).dbgStat = 0 ∧ (d2.group key).stopped = false ∧ (d2.group key).stopAt = none
        ∧ ((d2.group key).state = .running ↔
            x.state = .running ∨ (x.state = .held ∧ x.stopped = true ∧ x.entries = [] ∧ x.heldBy = none)))
      ∧ (∃ d2, Leads (.dbgStopat n g) s d2
        ∧ let ts := (List.range 4).map (fun j => Map.get 0 (d.ctx n).dbgPos j)
          (x.state = .running → (∀ e, (x.stream e).declared = true → ts.getD e.num 0 ≤ (x.stream e).position) →
            (d2.ctx n).dbgStat = 0 ∧ (d2.group key).stopped = true ∧ (d2.group key).state = .held)
          ∧ ((x.state ≠ .running ∨ ∃ e, (x.stream e).declared = true ∧ (x.stream e).retired = false
                ∧ (x.stream e).position < ts.getD e.num 0 ∧ ∀ needs, (x.stream e).wait ≠ .token needs) →
              (d2.ctx n).dbgStat = 1 ∧ d2.group key = { x with stopAt := some ts })))
    ∧ (site ≤ 144 → i < (if site < 144 then 50 else 7) →
      (∃ d2, Leads (.obsCntReadClear site i) s d2
        ∧ Map.get 0 (d2.block site).vals i = Map.get 0 (Dev.countLog (d.block site) d.time).added i % 2 ^ 48
        ∧ ∀ k, k ≠ i → Map.get 0 (d2.block site).vals k = Map.get 0 (d.block site).vals k)
      ∧ (∃ d2, Leads (.obsCntWrite site i v) s d2 ∧ Map.get 0 (d2.block site).vals i = v.toNat % 2 ^ 48
        ∧ ∀ k, k ≠ i → Map.get 0 (d2.block site).vals k = Map.get 0 (d.block site).vals k))
    ∧ (site ≤ 144 → ∃ d2, Leads (.obsOvfClear site v) s d2 ∧ (d2.block site).vals = (d.block site).vals
        ∧ (d2.block site).ovf = ((d.block site).ovf &&& ~~~v)
            ||| BitVec.ofNat 64 (sumOf (2 ^ ·) (Dev.countLog (d.block site) d.time).carried))
    ∧ (let x := Map.get {} (d.ctx n).breaks b
      (n ≠ d.myCtx ∨ d.breakMatches x = false → Leads (.breakpointFire n b) s d)
      ∧ (n = d.myCtx → d.breakMatches x = true →
        let d1 := d.setCtx n { d.ctx n with breaks := Map.upd {} (d.ctx n).breaks b (fun y => { y with seen := 0 }) }
        exec (.breakpointFire n b) s = .next ((s.with d1).faulted { cause := 0x21, addr := BitVec.ofNat 64 b })))

/-! ### Sites and the power of clusters (spec/19_core.md R362 to R376) -/

/-- R363 to R367, R51, R177, R374, R388: the commands FREEZE and CLEAR of a site, the threshold, soft errors, freeze triggers (that of a
spare maps it out, and one in RETAINED or GATED has status 2), an error in a recipe entry or a row's tag, and the end of a migration,
which maps the site out and hands its logical number to the cluster's spare. How CHECKER_ERROR names a core or a spare site is log 66, that
an entry in error goes with the tables is log 85, and that an event out of place changes nothing is log 48. -/
def Obligations.SiteEvents : Prop :=
  ∀ (s : State) (c i v core line key r : Nat) (eng : Engine), c < 16 → i < 9 →
    let d := s.dev
    let n := 9 * c + i
    let x := d.site n
    let cl := d.cluster c
    let stays : Prop := x.state = .mappedOut ∨ x.state = .frozen ∨ x.state = .migrating ∨ cl.power ≠ .active
    let thr := if v % 2 ^ 16 = 0 then 1 else v % 2 ^ 16
    let out : Prop := x.state = .mappedOut ∨ x.state = .retained ∨ x.state = .gated
    let corr := min 0xFFFF (x.corr + 1)
    let g := d.group key
    (stays → Leads (.siteFreeze c i) s (d.setSite n { x with cmdst := 2 }))
    ∧ (¬stays → ∃ d2, Leads (.siteFreeze c i) s d2 ∧ (d2.site n).cmdst = 0
        ∧ (x.state = .healthy ∨ x.state = .suspect → (d2.site n).state = .frozen) ∧ (x.state = .spare → (d2.site n).state = .mappedOut))
    ∧ (x.state ≠ .suspect ∨ cl.power ≠ .active → Leads (.siteClear c i) s (d.setSite n { x with cmdst := 2 }))
    ∧ (x.state = .suspect → cl.power = .active →
        Leads (.siteClear c i) s (d.setSite n { x with state := .healthy, corr := 0, cmdst := 0 }))
    ∧ (∃ d2, Leads (.errthrWrite c v) s d2 ∧ (d2.cluster c).errthr = thr
        ∧ (d2.site n).state = (if x.state = .healthy ∧ thr ≤ x.corr then .suspect else x.state) ∧ (d2.site n).corr = x.corr)
    ∧ (out → Leads (.correctedSoftError n) s d)
    ∧ (¬out → ∃ d2, Leads (.correctedSoftError n) s d2 ∧ (d2.site n).corr = corr
        ∧ (d2.site n).state = (if x.state = .healthy ∧ cl.errthr ≤ corr then .suspect else x.state)
        ∧ d2.lifetime = { d.lifetime with corr := min 0xFFFF (d.lifetime.corr + 1) })
    ∧ Leads (.uncorrectableSoftError n (.memoryLine line true)) s ((d.setLinePoison line true).countUncorrectable n 45)
    ∧ (∃ d2, Leads (.uncorrectableSoftError n (.memoryLine line false)) s d2 ∧ d2.poisoned = d.poisoned ∧ d2.mem = d.mem)
    ∧ (g.core ≠ 0xFF → r < g.rowsN → Dev.isDropped (Map.get {} g.rows r) = false →
        ∃ d2, Leads (.uncorrectableSoftError n (.row key r)) s d2 ∧ Map.get {} (d2.group key).rows r = { Map.get {} g.rows r with p := true }
          ∧ ∀ k, k ≠ r → Map.get {} (d2.group key).rows k = Map.get {} g.rows k)
    ∧ (core < 128 → d.siteOf core ≠ 255 →
      Leads (.checkerError core) s (d.freezeSite (d.siteOf core))
      ∧ Leads (.uncorrectableSoftError n (.control core)) s (d.freezeSite (d.siteOf core))
      ∧ (d.stalled core eng = true → Leads (.issueStallLimit core eng) s (d.freezeSite (d.siteOf core)))
      ∧ ((d.site (d.siteOf core)).state = .healthy → ((d.freezeSite (d.siteOf core)).site (d.siteOf core)).state = .frozen))
    ∧ (d.stalled core eng = false → Leads (.issueStallLimit core eng) s d)
    ∧ ((d.core 0xF0).frozen = false → ∃ d2, Leads (.checkerError 0xF0) s d2 ∧ d2.core 0xF0 = { frozen := true } ∧ d2.q250 = {} ∧ d2.q251 = {})
    ∧ (x.state = .spare → ∃ d2, Leads (.checkerError (256 + n)) s d2 ∧ (d2.site n).state = .mappedOut)
    ∧ (x.state = .retained ∨ x.state = .gated → Leads (.checkerError (256 + n)) s (d.setSite n { x with cmdst := 2 }))
    ∧ (g.core < 128 → d.siteOf g.core < 144 → (d.site (d.siteOf g.core)).state = .healthy →
      (r < g.recipesN → ∃ d2, Leads (.uncorrectableSoftError n (.recipeTable key r)) s d2
        ∧ (Map.get {} (d2.group key).recipes r).bad = true ∧ (d2.site (d.siteOf g.core)).state = .frozen)
      ∧ ((Dev.RowTag.id? (Map.get {} g.rows r).tag).isSome = true → ∃ d2, Leads (.uncorrectableSoftError n (.tagTable key r)) s d2
        ∧ (Map.get {} (d2.group key).rows r).bad = true ∧ (d2.site (d.siteOf g.core)).state = .frozen))
    ∧ (x.state ≠ .migrating → x.state ≠ .frozen → cl.pwrNext = none → Leads (.migrationComplete n) s d)
    ∧ (cl.pwrNext = none → x.state = .migrating → x.dest < 144 → x.dest ≠ n → (d.site x.dest).state = .spare → x.lcore < 128 →
        ∃ u, exec (.migrationComplete n) s = .next u ∧ (u.dev.site n).state = .mappedOut ∧ (u.dev.site n).lcore = 0xFF
          ∧ (u.dev.site x.dest).state = .healthy ∧ (u.dev.site x.dest).lcore = x.lcore ∧ u.dev.siteOf x.lcore = x.dest)
    ∧ (cl.pwrNext = none → x.state = .migrating → x.lcore < 128 → (144 ≤ x.dest ∨ (d.site x.dest).state ≠ .spare) →
        ∃ u, exec (.migrationComplete n) s = .next u ∧ (u.dev.site n).state = .mappedOut ∧ u.dev.siteOf x.lcore = 255)

/-- R371, R373 to R376: the commands of a cluster and their ends. A waking cluster, and one whose command waits for migrations, ignores
commands; one from the cluster's own cores, or from a state that the table does not list, has status 2; a base that is zero or
outside Lake, or an unlisted code, has 4. While a site of the cluster is replaced, a command waits, and no transition ends: which commands wait, and
that GATED loses the service CSRs, is the reading of log 66, and an event out of place changes nothing (log 48). -/
def Obligations.ClusterPower : Prop :=
  ∀ (s : State) (c code : Nat), c < 16 →
    let d := s.dev
    let x := d.cluster c
    let P := x.power
    let set (x : Cluster) : Dev := d.setCluster c x
    let st (k : Nat) : Dev := set { x with pwrCmdst := k }
    let into (p : PState) : Cluster := { x with power := p, pwrCmdst := 0, since := d.time }
    let cmds (own : Bool) : List Instr :=
      [.pwrQuiesce c own, .pwrSave c own, .pwrClkoff c own, .pwrRailoff c own, .pwrAbort c own, .pwrWake c own]
    let codes : List Nat := [1, 2, 3, 4, 5, 16]
    let moves := d.migrates c
    let early : Prop := P = .quiescing ∨ P = .quiesced ∨ P = .saved
    let base := x.rbase * 4096
    (P = .waking ∨ x.pwrNext ≠ none → ∀ own, ∀ j ∈ cmds own, Leads j s d)
    ∧ (P ≠ .waking → x.pwrNext = none → (∀ j ∈ cmds true, Leads j s (st 2))
      ∧ (moves = true → ∀ e ∈ (cmds false).zip codes, Leads e.1 s (set { x with pwrNext := some e.2 })))
    ∧ (P = .quiesced → x.pwrNext = some 5 → moves = false → ∃ u, exec (.migrationComplete (9 * c)) s = .next u
        ∧ u.dev = set { into .active with pwrNext := none })
    ∧ (P ≠ .waking → x.pwrNext = none → moves = false →
      (P ≠ .saved → Leads (.pwrClkoff c false) s (st 2))
      ∧ (P = .active → Leads (.pwrQuiesce c false) s ((set (into .quiescing)).quiesceGroups c))
      ∧ (P ≠ .active → Leads (.pwrQuiesce c false) s (st 2))
      ∧ (P = .quiesced → x.rbase ≠ 0 → base + 0x240 ≤ 0xC000000000 → Leads (.pwrSave c false) s (set (into .saving)))
      ∧ (P = .quiesced → (x.rbase = 0 ∨ 0xC000000000 < base + 0x240) → Leads (.pwrSave c false) s (st 4))
      ∧ (P ≠ .quiesced → Leads (.pwrSave c false) s (st 2))
      ∧ (P = .saved → ∃ d2, Leads (.pwrClkoff c false) s d2 ∧ (d2.cluster c).power = .retained
          ∧ ∀ i, i < 9 → let y := d.site (9 * c + i)
            (y.state = .healthy ∨ y.state = .spare ∨ y.state = .suspect →
                d2.site (9 * c + i) = { y with state := .retained, prev := y.state })
              ∧ (¬(y.state = .healthy ∨ y.state = .spare ∨ y.state = .suspect) → d2.site (9 * c + i) = y))
      ∧ (P = .retained → ∃ d2, Leads (.pwrRailoff c false) s d2 ∧ (d2.cluster c).power = .gated
          ∧ ∀ i, i < 8 → d2.core (8 * c + i) = {} ∧ ((d.site (9 * c + i)).state = .retained → (d2.site (9 * c + i)).state = .gated))
      ∧ (P ≠ .retained → Leads (.pwrRailoff c false) s (st 2))
      ∧ (early → Leads (.pwrAbort c false) s (set (into .active)) ∧ Leads (.pwrWake c false) s (set (into .active)))
      ∧ (P = .saving → Leads (.pwrAbort c false) s (set { x with abortWhenSaved := true, pwrCmdst := 0 })
          ∧ Leads (.pwrWake c false) s (set { x with abortWhenSaved := true, pwrCmdst := 0 }))
      ∧ (¬early → P ≠ .saving → Leads (.pwrAbort c false) s (st 2))
      ∧ (P = .active → Leads (.pwrWake c false) s (st 2))
      ∧ ((P = .retained ∨ P = .gated) → ∃ d2, Leads (.pwrWake c false) s d2
          ∧ d2.cluster c = { into .waking with wcause := if P = .retained then 1 else 2 } ∧ d2.sites = d.sites)
      ∧ (¬(1 ≤ code % 16 ∧ code % 16 ≤ 5) → Leads (.pwrBadCommand c false code) s (st 4)))
    ∧ (P ≠ .quiescing ∨ moves = true → Leads (.clusterQuiesced c) s d)
    ∧ (P = .quiescing → moves = false → d.clusterGroups c = [] → x.sessions = [] →
        Leads (.clusterQuiesced c) s (set { x with power := .quiesced, ctime := (d.time - x.since) % 2 ^ 32, since := d.time }))
    ∧ (P ≠ .saving ∨ moves = true → Leads (.clusterSaveDone c) s d)
    ∧ (P = .saving → moves = false → ∃ d2, Leads (.clusterSaveDone c) s d2 ∧ d2.mem = (d.storeBytes base (d.retentionRecord c) false).mem
        ∧ (d2.cluster c).power = (if x.abortWhenSaved then .active else .saved) ∧ (d2.cluster c).tlb2 = [] ∧ (d2.cluster c).walks = []
        ∧ ∀ i, i < 8 → (d2.core (8 * c + i)).tlb = [])
    ∧ (∀ failed, P ≠ .waking → Leads (.clusterWakeDone c failed) s d)
    ∧ (P = .waking → x.wcause = 1 → ∃ u, exec (.clusterWakeDone c []) s = .next u ∧ (u.dev.cluster c).power = .active
        ∧ ∀ i, i < 9 → (u.dev.site (9 * c + i)).state =
            if (d.site (9 * c + i)).state = .retained then (d.site (9 * c + i)).prev else (d.site (9 * c + i)).state)

/-! ### Registers of the MMIO window (spec/00_scope.md R7, spec/14_block.md R279, spec/18_sequence.md R342, spec/16_page.md R325) -/

/-- R7, R279, R325, R342: a register write of 4 or 8 aligned bytes has the register's effect, any other none; a write of a command field
is the command's event. A key word written makes its slot not valid, and VALID is refused where the two keys are equal. An
invalidation is ignored while BUSY, and one whose operands fail their checks has status 4; a placement is refused where the context does
not run, the core is not free or the kernel fails. That a mapped page gives every register access is the reading of log 20, that an
invalidation takes its translations away at once is that of log 5, and another width or alignment has no effect (log 48). -/
def Obligations.RegisterWrites : Prop :=
  ∀ (s : State) (n k w q ctx code off size : Nat) (v : Word) (tcc : Bool), n < 64 → k < 16 → w < 8 → q < 4096 →
    let d := s.dev
    let c := d.ctx n
    let slot := Map.get {} c.xkeys k
    let p := d.ccg tcc
    let core := if tcc then 0xF1 else 0xF0
    let key (x : XKey) : Dev := d.setCtx n { c with xkeys := Map.upd {} c.xkeys k (fun _ => x) }
    let same : Prop := ∀ i, i < 4 → Map.get 0 slot.words i = Map.get 0 slot.words (i + 4)
    let good : Prop := s.mod.life ≠ .off ∧ (size = 4 ∨ size = 8) ∧ off % size = 0 ∧ off < 0x10000000
    (good → Leads (.registerWrite off size v) s (d.mmioStore s.mod none off size v.toNat))
    ∧ (¬good → Leads (.registerWrite off size v) s d)
    ∧ (s.mod.life ≠ .off →
      let cmd (x : Nat) : Instr := .registerWrite (0x300038 + 0x100 * n) 4 (BitVec.ofNat 64 x)
      let que (x : Nat) : Instr := .registerWrite (0x400018 + 0x40 * q) 4 (BitVec.ofNat 64 x)
      exec (cmd 1) s = exec (.ctxCreate n) s ∧ exec (cmd 2) s = exec (.ctxStart n) s ∧ exec (cmd 3) s = exec (.ctxStop n) s
        ∧ exec (cmd 4) s = exec (.ctxCheckpoint n) s ∧ exec (cmd 5) s = exec (.ctxResume n) s ∧ exec (cmd 6) s = exec (.ctxKill n) s
        ∧ exec (cmd 7) s = exec (.ctxFree n) s
        ∧ exec (que 1) s = exec (.queOpen q) s ∧ exec (que 2) s = exec (.queClose q) s ∧ exec (que 3) s = exec (.queFree q) s
        ∧ exec (.registerWrite 0x58 8 v) s = exec (.tlbCommand v) s)
    ∧ Leads (.xkeyWrite n k w v) s (key { words := Map.set slot.words w v, valid := false })
    ∧ (flag v.toNat 0 = false ∨ same → Leads (.xkstWrite n k v) s (key { slot with valid := false }))
    ∧ (flag v.toNat 0 = true → ¬same → Leads (.xkstWrite n k v) s (key { slot with valid := true }))
    ∧ (let kind := fld v.toNat 16 2
      let asid := fld v.toNat 0 16
      let d1 := { d with tlbKind := kind, tlbAsid := asid }
      let fails : Prop := (kind = 0 ∨ kind = 2) ∧ (canonical d.tlba.toNat = false ∨ 2 ^ 54 < d.tlba.toNat % 2 ^ 54 + d.tlbl.toNat)
      let busy : Prop := d.tlbBusy = true ∧ d.drains = true
      (busy → Leads (.tlbCommand v) s d)
      ∧ (¬busy → fails → Leads (.tlbCommand v) s { d1 with tlbStatus := 4, tlbBusy := false })
      ∧ (¬busy → ¬fails → Leads (.tlbCommand v) s
          { d1.invalidate kind d.tlba d.tlbl (BitVec.ofNat 64 asid) with tlbStatus := 0, tlbBusy := true }))
    ∧ (code % 16 > 1 → p.busy = false → Leads (.ccgBadCommand tcc ctx code) s (d.setCcg tcc { p with ctx := ctx % 64, st := 4 }))
    ∧ (code % 16 > 1 → p.busy = true → Leads (.ccgBadCommand tcc ctx code) s d)
    ∧ (p.busy = false →
      let m := ctx % 64
      ((d.ctx m).state ≠ .running ∨ (d.core core).slots ≠ [] ∨ d.siteRuns core = false →
          Leads (.ccgPlace tcc ctx) s (d.setCcg tcc { p with ctx := m, busy := false, st := 2 }))
      ∧ ((d.ctx m).state = .running → (d.core core).slots = [] → d.siteRuns core = true → ∀ kid d1,
        let d0 := d.setCcg tcc { p with ctx := m, busy := true }
        Dev.verify (Dev.rdWord s.mod) { d0 with cur := { core := core, key := keyOf m 65535 } } m p.kbase.toNat = .ok (kid, d1) →
        let d2 : Dev := { d1 with cur := d.cur }
        let K := d2.kernel m kid
        (K.streams = 1 → K.regs ≤ 2048 → d2.groupCount m < (d2.ctx m).maxgrp →
          Leads (.ccgPlace tcc ctx) s
            (((d2.request m kid ⟨p.arg, false⟩ core none).2.place (keyOf m (d2.freeIndex m)) core).ccgEnd tcc 0))
        ∧ (K.streams ≠ 1 → Leads (.ccgPlace tcc ctx) s (d2.ccgEnd tcc 4))))

/-! ### The step, the decoder and the state -/

/-- R5, R22 to R27, R36, R37, R347, R350 (the schedule, and what its order leaves open, are the model's own, log 1): what a step does. The
cycles before the schedule's head pass, and of the moves of the cycle then one is made that no other must precede, where there is such
a one; the others stay. An event happens, and a core enters service; a sampler unit executes the instruction that its word decodes to; a
stream that may issue, and that no ready stream of its engine goes before (R238, R272; log 91), reads the group at its PC from memory and, where nothing holds it, executes the instructions that its words decode
to, each at its own word, with the PC already past the group, and has then issued; a group that a wait or a fault stops leaves what that
stop says, and so does one that fails a check of decoding. -/
def Obligations.StepRunsDecoded : Prop :=
  let works (s : State) : Prop := s.mod.life = .ready ∨ s.mod.life = .degraded
  let due (s : State) (m : Move) (ms : List Move) : State := { s.tick m.dt with agenda := ⟨0, m.what⟩ :: ms }
  let makes (s t : State) (w : Doing) : Prop :=
    ∃ m ms rest, s.agenda = m :: ms ∧ nextMove (due s m ms) = some (w, rest) ∧ t = { due s m ms with agenda := rest }
  (∀ s : State, s.agenda = [] → step s = .next (s.tick 1))
  ∧ (∀ (s : State) (m : Move) (ms : List Move), s.agenda = m :: ms →
      let now := m :: ms.take (sameCycle ms)
      let before (a b : Doing) : Prop := Seen.before s.dev (look s a) (look s b) = true
      ∃ w rest, nextMove s = some (w, rest)
        ∧ ((w = m.what ∧ rest = ms) ∨ ∃ k, k < sameCycle ms ∧ (ms[k]?).map (·.what) = some w ∧ rest = m :: ms.eraseIdx k)
        ∧ ((∃ a ∈ now, ∀ b ∈ now, ¬before b.what a.what) →
            ∀ b ∈ now, ¬before b.what w ∧ (look s w).phase ≤ (look s b.what).phase))
  ∧ (∀ (s t : State) (i : Instr), makes s t (.event i) →
      (isEvent i = true → (∀ core e, i = .issueStallLimit core e → engineReady t core e = true) → step s = exec i t)
      ∧ (isEvent i = false → step s = .next t)
      ∧ (∀ core e, i = .issueStallLimit core e → engineReady t core e = false → step s = .next t))
  ∧ (∀ (s t : State) (core : Nat), makes s t (.service core) →
      (works t → step s = exec (.serviceEntry core) t) ∧ (¬works t → step s = .next t))
  ∧ (∀ (s t : State) (j : Nat) (i : Instr) (r : StepRun) (w : Nat), makes s t (.sampler j) → works t →
      let d : Dev := { t.dev with cur := { t.dev.cur with unit := j } }
      (d.sampler j).run = some r → r.ended = none → d.stepWord j = some w → decodeStep w = some i → step s = exec i { t with dev := d })
  ∧ (∀ (s t : State) (core slot : Nat) (e : Engine) (key : Nat) (d : Dev), makes s t (.issue core slot e) → works t →
      t.dev.siteRuns core = true → yields t core slot e = false →
      let c := t.dev.core core
      let service : Prop := c.service = true ∧ e = .S
      (service ∧ c.svc.retired = false ∧ t.dev.engineFree core e = true ∧ d = t.dev.forService core
        ∨ ¬service ∧ Map.find c.slots slot = some key ∧ t.dev.mayIssue core key e = true ∧ d = t.dev.forGroup core key e) →
      let x := d.stm
      (∀ y, x.load = some y → isNestForm y.ins = false) → x.skip = none →
      let h : Dev := { d with cur := { d.cur with group := x.pc, pc := x.pc, word := 0 } }
      let g := h.readGroup e h.declared x.pc
      let gd := g.dev.loadSlack x.decoded x.pc (Dev.reached g.words)
      let leaves (u : State) (y : Dev) : Prop := step s = .next { u with dev := y.afterIssue core slot }
      let stops (y : Dev) (why : Stop) : Prop := leaves t (match why with
        | .wait w => { y.applyWait w with verdict := .waiting w }
        | .trap p => { y.takeFault p with verdict := .trapped p })
      (∀ why, g.stop = some why → stops gd why)
      ∧ (∀ pa d1, x.decoded = [] → h.fetchBarred = false → h.access x.pc.toNat 8 8 .fetch x.pc.toNat = .ok (pa, d1) → g.stop = none →
          (g.words.head?).map (fun y => (y.at_, y.word)) = some (x.pc, d1.ld pa 8))
      ∧ (∀ y ∈ g.words, (e = .V ∧ isNest y.word = true) ∨ decodeWord e h.declared y.word = .ok y.ins)
      ∧ (g.stop = none →
        let next := Dev.afterWords x.pc g.words
        let isBrl (y : GroupWord) : Bool := match y.ins with
          | .brl .. => true
          | _ => false
        let l := if g.words.any isBrl then gd.linkAfter e next else (0, true, gd)
        let d1 : Dev := { l.2.2 with cur := { l.2.2.cur with next := next, link := l.1, linkRead := l.2.1 } }
        let d2 := d1.setStm { d1.stm with pc := next }
        let d3 := if d2.stm.rest then d2.setStm { d2.stm with rest := false } else d2
        (d1.interlocked e g.words = true → stops d1 (.wait .busy))
        ∧ (∀ y, d1.interlocked e g.words = false → d1.tokenLack g.words = some y →
            stops (d1.atWord y) (.wait (.token (d1.groupNeeds e g.words))))
        ∧ (d1.interlocked e g.words = false → d1.tokenLack g.words = none → (d2.cur.svc = true ∨ (d2.ctx d2.myCtx).breaks = []) →
          (∀ u, runGroup { t with dev := d3 } g.words = .done u →
            leaves u ((({ u.dev with cur := d2.cur } : Dev).touchRows d2.cur.key (d2.groupRows g.words)).issued d2.stm.pend d2.stm.rest))
          ∧ (∀ y why, runGroup { t with dev := d3 } g.words = .stopped y why → keepsPart y.ins = false →
              stops ((d2.atWord y).backTo (d2.atWord y).cur x.pc) why)
          ∧ (∀ y u, g.words = [y] → d3.stm.resumeStep = 0 → exec y.ins { t with dev := d3.atWord y } = .next u →
              runGroup { t with dev := d3 } g.words = (match u.dev.verdict with
                | .done => .done u
                | .waiting w => .stopped y (.wait w)
                | .trapped p => .stopped y (.trap p))))))
  ∧ (∀ (s : State) (cause word addr : Nat),
      exec (.decodeFault cause word addr) s = .next (s.faulted { cause := cause, addr := BitVec.ofNat 64 addr, word := some word })
      ∧ exec (.fetchFault cause addr) s = .next (s.faulted { cause := cause, addr := BitVec.ofNat 64 addr, word := some 0 }))

/-- The worked encodings of the spec (spec/02_word.md and the examples of the other chapters) decode to the instructions that they stand
for. -/
def Obligations.DecodedWords : Prop :=
  let one : Hdr := ⟨true, 0, 0, 0⟩
  decodeTableWord 64 0x0020028A00000010 = some (.addi ⟨false, 0, 0, 0⟩ 5 5 16)
  ∧ decodeTableWord 64 0x8150030000000064 = some (.li one 6 100)
  ∧ decodeTableWord 64 0x9000020E00001027 = some (.ld one 7 2 4 7 0x40)
  ∧ decodeTableWord 64 0x9080029230000080 = some (.cas one 0 0 2 5 9 6)
  ∧ decodeTableWord 64 0x909000000000000F = some (.fence one 0 15)
  ∧ decodeTableWord 64 0x9810000000000089 = some (.br one 1 1 1 0)
  ∧ decodeTableWord 64 0x9830000500000000 = some (.loop one true 2 0)
  ∧ decodeTableWord 64 0xA020020000000040 = some (.csrr one 4 0x40)
  ∧ decodeTableWord 64 0xA809001400900620 = some (.vadd ⟨true, 2, 2, 0⟩ ⟨1, false, 0⟩ 10 4 0x803)
  ∧ decodeTableWord 64 0xA8D0004401001231 = some (.vcmp one ⟨1, true, 1⟩ 2 2 8 9)
  ∧ decodeTableWord 64 0xC000000405001E00 = some (.mmt one 2 0x28 0 15)
  ∧ decodeTableWord 64 0xC840030A20000000 = some (.xdec one 0 6 5 4)
  ∧ decodeTableWord 64 0xD000100800648020 = some (.gate one ⟨1, false, 0⟩ 4 1 2 3)
  ∧ decodeTableWord 64 0xD810020000600003 = some (.qpop one 3 true 1 4)
  ∧ decodeTableWord 64 0xE000001800000103 = some (.rcpdef one 3 1 12)
  ∧ decodeTableWord 32 0x41800000 = some (.sdraw 3) ∧ decodeTableWord 32 0x68180000 = some (.semit 3)
  ∧ decodeTableWord 32 0x00210000 = some (.sldc 4 2 0)

/-- R21, R30, R32, R350: for every well-formed step-program word, every well-formed instruction of one word in any stream that runs it,
and every well-formed NEST form in the V stream, the decoder reads back from its words the instruction with every operand. -/
def Obligations.EncodeDecode : Prop :=
  (∀ i : Instr, isStepWord i = true → i.wf .S 15 = true → ∃ w, encode i = [w] ∧ w < 2 ^ 32 ∧ decodeStep w = some i)
  ∧ (∀ (e : Engine) (decl : Nat) (i : Instr) (w : Nat), i.wf e decl = true → encode i = [w] → i.hdr?.isSome = true →
      classRuns e (fld w 59 4) = true → opcRuns e (fld w 59 4) (fld w 52 7) = true → w < 2 ^ 64 ∧ decodeWord e decl w = .ok i)
  ∧ (∀ (e : Engine) (decl : Nat) (i : Instr), i.wf e decl = true → i.hdr?.isSome = true →
      (∃ w, encode i = [w]) ∨ ∃ h wc opc bd ba bb le m x sD sA sB, i = .nest h wc opc bd ba bb le m x sD sA sB)
  ∧ ∀ (decl : Nat) (h : Hdr) (wc : Bool) (opc bd ba bb le m : Nat) (x sD sA sB : Five),
      let i : Instr := .nest h wc opc bd ba bb le m x sD sA sB
      i.wf .V decl = true → ∃ w0 w1 w2 w3, encode i = [w0, w1, w2, w3] ∧ isNest w0 = true
        ∧ (∀ w ∈ [w0, w1, w2, w3], w < 2 ^ 64) ∧ decodeNest .V decl w0 w1 w2 w3 = .ok i

/-- R10 to R12: what every step keeps of the module. It is sealed exactly when SEAL_CAUSE says why; SEALED-OFF is left only by removing
power; DEGRADED never returns to READY; and no step writes flash but what power removal keeps (the record copies stand apart). -/
def Obligations.ModuleLifeKept : Prop :=
  ∀ s u : State, step s = .next u → (s.mod.sealedRight → u.mod.sealedRight)
    ∧ (s.mod.life = .sealedOff → u.mod.life = .sealedOff ∨ u.mod.life = .off) ∧ (s.mod.life = .degraded → u.mod.life ≠ .ready)
    ∧ u.mod.flash = s.mod.flash

/-- R6, R7: every step keeps the canonical form of memory, in which equal memories are equal data (that an unlisted byte reads 0 is log 3):
addresses strictly rising, and no entry that equals what an unlisted address reads as. -/
def Obligations.MemoryKept : Prop :=
  ∀ s u : State, step s = .next u → Memory.wf s.dev.mem → Memory.wf u.dev.mem

/-- The state right after reset: the module boots and is not sealed, memory lists nothing and is in its canonical form, every context
and queue is FREE, no group exists, every port is DOWN, no sampler unit runs, and the registers hold the reset values of their
tables. -/
def Obligations.ResetState : Prop :=
  let m := State.reset.mod
  let d := State.reset.dev
  m.life = .romBoot ∧ m.sealedRight ∧ m.inForce = false ∧ d.mem = [] ∧ Memory.wf d.mem ∧ d.poisoned = [] ∧ d.groups = []
  ∧ (∀ n, (d.ctx n).state = .free ∧ (d.ctx n).running = none ∧ (d.ctx n).waiting = [])
  ∧ (∀ n, (d.queue n).state = .free ∧ (d.queue n).entries = [])
  ∧ (∀ n, (d.core n).service = false ∧ (d.core n).svec = 0 ∧ (d.core n).slots = [])
  ∧ (∀ p, (d.link p).state = .down ∧ (d.link p).allow68 = true ∧ (d.link p).losses = 0)
  ∧ (∀ j, (d.sampler j).en = false ∧ (d.sampler j).run = none ∧ (d.sampler j).drop = 0)
  ∧ (∀ j q, (d.seq j q).valid = false ∧ (d.seq j q).temp = 0x3F800000 ∧ (d.seq j q).topp = 0x3F800000 ∧ (d.seq j q).rep = 0x3F800000)
  ∧ (∀ c, (d.cluster c).power = .active ∧ (d.cluster c).errthr = 64 ∧ (d.cluster c).lease = 0x100)
end

