-- ==== Sys2Proof/Laws/Data.lean ====
section
/-!
SUPPORT. Laws of tables and of memory: what a read after a write gives, and that every memory operation keeps the canonical
form.
-/

namespace Sys2Proof.Machine

/-! ### Tables -/

@[simp] theorem Map.find_nil {α : Type} (n : Nat) : Map.find ([] : Map α) n = none := rfl

theorem Map.find_cons {α : Type} (m : Map α) (x : Nat × α) (k : Nat) :
    Map.find (x :: m) k = if k = x.1 then some x.2 else Map.find m k := rfl

/-- A read with a default is the search, so that the laws of reads follow from those of searches. -/
theorem Map.get_eq_find {α : Type} (d : α) (m : Map α) (n : Nat) : Map.get d m n = (Map.find m n).getD d := by
  induction m with
  | nil => rfl
  | cons x m ih => rw [Map.find_cons, apply_ite (Option.getD · d), ← ih]; rfl

@[simp] theorem Map.get_nil {α : Type} (d : α) (n : Nat) : Map.get d [] n = d := rfl

/-- What a search finds is a pair of the table. -/
theorem Map.mem_of_find {α : Type} {m : Map α} {n : Nat} {v : α} : Map.find m n = some v → (n, v) ∈ m := by
  induction m with
  | nil => exact nofun
  | cons x m ih =>
    rw [Map.find_cons]
    by_cases hk : n = x.1
    · subst hk; rintro hv; rw [if_pos rfl] at hv; cases hv; exact .head _
    · rw [if_neg hk]; exact fun hv => .tail _ (ih hv)

/-- The pairs after an insertion are the old ones and the new one. -/
theorem Map.ins_perm {α : Type} (n : Nat) (v : α) : ∀ m : Map α, (Map.ins n v m).Perm ((n, v) :: m)
  | [] => .refl _
  | x :: m => by
    by_cases hk : n < x.1
    · simp [Map.ins, hk]
    · simpa [Map.ins, hk] using ((Map.ins_perm n v m).cons x).trans (.swap _ _ _)

theorem Map.mem_ins {α : Type} (n : Nat) (v : α) (m : Map α) (e : Nat × α) (h : e ∈ Map.ins n v m) : e = (n, v) ∨ e ∈ m :=
  List.mem_cons.1 ((Map.ins_perm n v m).mem_iff.1 h)

/-- A search after a deletion. -/
theorem Map.find_del {α : Type} (n k : Nat) : ∀ m : Map α, Map.find (Map.del m n) k = if k = n then none else Map.find m k
  | [] => by simp [Map.del]
  | x :: m => by
    have ih := Map.find_del n k m
    unfold Map.del at ih ⊢
    by_cases hx : x.1 = n <;> by_cases hk : k = x.1 <;> simp_all [Map.find_cons]

/-- A search after an insertion at a key that the table does not hold. -/
theorem Map.find_ins {α : Type} (n k : Nat) (v : α) : ∀ m : Map α, Map.find m n = none →
    Map.find (Map.ins n v m) k = if k = n then some v else Map.find m k
  | [], _ => Map.find_cons _ _ _
  | x :: m, h => by
    have hx : n ≠ x.1 := by rintro rfl; simp [Map.find_cons] at h
    have ih := Map.find_ins n k v m (by simpa [Map.find_cons, hx] using h)
    by_cases hn : n < x.1
    · simp [Map.ins, hn, Map.find_cons]
    · rw [Map.ins, if_neg hn, Map.find_cons, ih, Map.find_cons]
      by_cases hk : k = x.1 <;> simp [hk, Ne.symm hx]

/-- A search after a key was set. -/
theorem Map.find_set {α : Type} (m : Map α) (n k : Nat) (v : α) :
    Map.find (Map.set m n v) k = if k = n then some v else Map.find m k := by
  rw [Map.set, Map.find_ins _ _ _ _ (by simp [Map.find_del]), Map.find_del]
  split <;> rfl

@[simp] theorem Map.find_set_same {α : Type} (m : Map α) (n : Nat) (v : α) : Map.find (Map.set m n v) n = some v := by
  simp [Map.find_set]

theorem Map.find_set_ne {α : Type} (m : Map α) (n k : Nat) (v : α) (h : k ≠ n) :
    Map.find (Map.set m n v) k = Map.find m k := by simp [Map.find_set, h]

@[simp] theorem Map.find_del_same {α : Type} (m : Map α) (n : Nat) : Map.find (Map.del m n) n = none := by simp [Map.find_del]

theorem Map.find_del_ne {α : Type} (m : Map α) (n k : Nat) (h : k ≠ n) : Map.find (Map.del m n) k = Map.find m k := by
  simp [Map.find_del, h]

@[simp] theorem Map.get_set_same {α : Type} (d : α) (m : Map α) (n : Nat) (v : α) : Map.get d (Map.set m n v) n = v := by
  simp [Map.get_eq_find]

theorem Map.get_set_ne {α : Type} (d : α) (m : Map α) (n k : Nat) (v : α) (h : k ≠ n) :
    Map.get d (Map.set m n v) k = Map.get d m k := by simp [Map.get_eq_find, Map.find_set, h]

@[simp] theorem Map.get_del_same {α : Type} (d : α) (m : Map α) (n : Nat) : Map.get d (Map.del m n) n = d := by
  simp [Map.get_eq_find]

theorem Map.get_del_ne {α : Type} (d : α) (m : Map α) (n k : Nat) (h : k ≠ n) : Map.get d (Map.del m n) k = Map.get d m k := by
  simp [Map.get_eq_find, Map.find_del, h]

/-- What holds of every pair of a table, and of the pair set, holds of every pair afterwards. -/
theorem Map.forall_set {α : Type} {P : Nat × α → Prop} {m : Map α} {n : Nat} {v : α} (hm : ∀ e ∈ m, P e) (hv : P (n, v)) :
    ∀ e ∈ Map.set m n v, P e := fun e he =>
  (Map.mem_ins n v _ e he).elim (· ▸ hv) (fun h => hm e (List.mem_filter.1 h).1)

theorem Map.sorted_del {α : Type} (m : Map α) (n : Nat) (h : Map.sorted m) : Map.sorted (Map.del m n) :=
  List.Pairwise.filter _ h

theorem Map.sorted_ins {α : Type} (n : Nat) (v : α) : ∀ m : Map α, Map.sorted m → (∀ e ∈ m, e.1 ≠ n) → Map.sorted (Map.ins n v m)
  | [], _, _ => List.pairwise_singleton _ _
  | x :: m, h, hn => by
    have above := (List.pairwise_cons.1 h).1
    by_cases hk : n < x.1
    · rw [Map.ins, if_pos hk]
      exact h.cons (List.forall_mem_cons.2 ⟨hk, fun e he => Nat.lt_trans hk (above e he)⟩)
    · rw [Map.ins, if_neg hk]
      refine (Map.sorted_ins n v m (List.pairwise_cons.1 h).2 (List.forall_mem_cons.1 hn).2).cons fun e he => ?_
      obtain rfl | hm := Map.mem_ins n v m e he
      · exact Nat.lt_of_le_of_ne (Nat.le_of_not_lt hk) (List.forall_mem_cons.1 hn).1
      · exact above e hm

/-- A table stays in order when a key is set. -/
theorem Map.sorted_set {α : Type} (m : Map α) (n : Nat) (v : α) (h : Map.sorted m) : Map.sorted (Map.set m n v) :=
  Map.sorted_ins n v _ (Map.sorted_del m n h) (fun e he => by simpa [Map.del] using (List.mem_filter.1 he).2)

/-! ### Memory -/

/-- Writing a byte keeps the canonical form. -/
theorem Memory.wf_put (m : Memory) (a : Nat) (b : Byte) (h : Memory.wf m) : Memory.wf (Memory.put m a b) := by
  unfold Memory.put
  split
  · exact ⟨Map.sorted_del m a h.1, fun c hc => h.2 c (List.mem_filter.1 hc).1⟩
  · next hb => exact ⟨Map.sorted_set m a b h.1, Map.forall_set h.2 (by simpa using hb)⟩

theorem Memory.wf_write (n : Nat) (m : Memory) (a v : Nat) (h : Memory.wf m) : Memory.wf (Memory.write m a n v) := by
  induction n generalizing m a v with
  | zero => exact h
  | succ n ih => exact ih _ _ _ (Memory.wf_put m a _ h)

theorem Memory.wf_writeBytes (bs : List Byte) (m : Memory) (a : Nat) (h : Memory.wf m) : Memory.wf (Memory.writeBytes m a bs) := by
  induction bs generalizing m a with
  | nil => exact h
  | cons b bs ih => exact ih _ _ (Memory.wf_put m a b h)

@[simp] theorem Memory.byte_put_same (m : Memory) (a : Nat) (b : Byte) : Memory.byte (Memory.put m a b) a = b := by
  unfold Memory.put Memory.byte
  split
  · next h => simp [h]
  · simp

theorem Memory.byte_put_ne (m : Memory) (a x : Nat) (b : Byte) (h : x ≠ a) : Memory.byte (Memory.put m a b) x = Memory.byte m x := by
  unfold Memory.put Memory.byte
  split
  · exact Map.get_del_ne 0 m a x h
  · exact Map.get_set_ne 0 m a x b h

/-- A write of bytes leaves every byte outside them. -/
theorem Memory.byte_writeBytes_out (bs : List Byte) (m : Memory) (a x : Nat) (h : x < a ∨ a + bs.length ≤ x) :
    Memory.byte (Memory.writeBytes m a bs) x = Memory.byte m x := by
  induction bs generalizing m a with
  | nil => rfl
  | cons b bs ih =>
    simp only [List.length_cons] at h
    rw [Memory.writeBytes, ih _ _ (by omega), Memory.byte_put_ne _ _ _ _ (by omega)]

/-- A write of bytes puts each in its place. -/
theorem Memory.byte_writeBytes_in (bs : List Byte) (m : Memory) (a i : Nat) (h : i < bs.length) :
    Memory.byte (Memory.writeBytes m a bs) (a + i) = bs[i] := by
  induction bs generalizing m a i with
  | nil => simp at h
  | cons b bs ih =>
    cases i with
    | zero => rw [Nat.add_zero, Memory.writeBytes, Memory.byte_writeBytes_out _ _ _ _ (by omega), Memory.byte_put_same]; rfl
    | succ i =>
      have := ih (Memory.put m a b) (a + 1) i (by simpa using h)
      rw [Memory.writeBytes, show a + (i + 1) = a + 1 + i by omega, this]; rfl

@[simp] theorem toBytes_length (n v : Nat) : (toBytes n v).length = n := by
  induction n generalizing v with
  | zero => rfl
  | succ n ih => simp [toBytes, ih]

theorem ofBytes_toBytes (n v : Nat) : ofBytes (toBytes n v) = v % 256 ^ n := by
  induction n generalizing v with
  | zero => simp [toBytes, ofBytes, Nat.mod_one]
  | succ n ih =>
    have h : v % 256 ^ (n + 1) = v % 256 + 256 * (v / 256 % 256 ^ n) := by rw [Nat.pow_succ, Nat.mul_comm, Nat.mod_mul]
    simp [toBytes, ofBytes, ih, h]

end Sys2Proof.Machine
end

