-- ==== Sys2Proof/Laws/State.lean ====
section
/-!
SUPPORT. Laws of the state: what each update of the device leaves of each field, and what a register, a group or a core reads
as after a write.
-/

namespace Sys2Proof.Machine
namespace Dev

/-! ### `setCtx` -/

@[simp] theorem setCtx_time (d : Dev) (n : Nat) (x : Ctx) : (d.setCtx n x).time = d.time := rfl
@[simp] theorem setCtx_mem (d : Dev) (n : Nat) (x : Ctx) : (d.setCtx n x).mem = d.mem := rfl
@[simp] theorem setCtx_poisoned (d : Dev) (n : Nat) (x : Ctx) : (d.setCtx n x).poisoned = d.poisoned := rfl
@[simp] theorem setCtx_sptbr (d : Dev) (n : Nat) (x : Ctx) : (d.setCtx n x).sptbr = d.sptbr := rfl
@[simp] theorem setCtx_tlba (d : Dev) (n : Nat) (x : Ctx) : (d.setCtx n x).tlba = d.tlba := rfl
@[simp] theorem setCtx_tlbl (d : Dev) (n : Nat) (x : Ctx) : (d.setCtx n x).tlbl = d.tlbl := rfl
@[simp] theorem setCtx_tlbStatus (d : Dev) (n : Nat) (x : Ctx) : (d.setCtx n x).tlbStatus = d.tlbStatus := rfl
@[simp] theorem setCtx_tlbKind (d : Dev) (n : Nat) (x : Ctx) : (d.setCtx n x).tlbKind = d.tlbKind := rfl
@[simp] theorem setCtx_tlbAsid (d : Dev) (n : Nat) (x : Ctx) : (d.setCtx n x).tlbAsid = d.tlbAsid := rfl
@[simp] theorem setCtx_fccg (d : Dev) (n : Nat) (x : Ctx) : (d.setCtx n x).fccg = d.fccg := rfl
@[simp] theorem setCtx_tccg (d : Dev) (n : Nat) (x : Ctx) : (d.setCtx n x).tccg = d.tccg := rfl
@[simp] theorem setCtx_barriers (d : Dev) (n : Nat) (x : Ctx) : (d.setCtx n x).barriers = d.barriers := rfl
@[simp] theorem setCtx_q250 (d : Dev) (n : Nat) (x : Ctx) : (d.setCtx n x).q250 = d.q250 := rfl
@[simp] theorem setCtx_q251 (d : Dev) (n : Nat) (x : Ctx) : (d.setCtx n x).q251 = d.q251 := rfl
@[simp] theorem setCtx_queues (d : Dev) (n : Nat) (x : Ctx) : (d.setCtx n x).queues = d.queues := rfl
@[simp] theorem setCtx_groups (d : Dev) (n : Nat) (x : Ctx) : (d.setCtx n x).groups = d.groups := rfl
@[simp] theorem setCtx_cores (d : Dev) (n : Nat) (x : Ctx) : (d.setCtx n x).cores = d.cores := rfl
@[simp] theorem setCtx_clusters (d : Dev) (n : Nat) (x : Ctx) : (d.setCtx n x).clusters = d.clusters := rfl
@[simp] theorem setCtx_sites (d : Dev) (n : Nat) (x : Ctx) : (d.setCtx n x).sites = d.sites := rfl
@[simp] theorem setCtx_lcores (d : Dev) (n : Nat) (x : Ctx) : (d.setCtx n x).lcores = d.lcores := rfl
@[simp] theorem setCtx_lakeMask (d : Dev) (n : Nat) (x : Ctx) : (d.setCtx n x).lakeMask = d.lakeMask := rfl
@[simp] theorem setCtx_nvmeMask (d : Dev) (n : Nat) (x : Ctx) : (d.setCtx n x).nvmeMask = d.nvmeMask := rfl
@[simp] theorem setCtx_counters (d : Dev) (n : Nat) (x : Ctx) : (d.setCtx n x).counters = d.counters := rfl
@[simp] theorem setCtx_mcounters (d : Dev) (n : Nat) (x : Ctx) : (d.setCtx n x).mcounters = d.mcounters := rfl
@[simp] theorem setCtx_clockMark (d : Dev) (n : Nat) (x : Ctx) : (d.setCtx n x).clockMark = d.clockMark := rfl
@[simp] theorem setCtx_lifetime (d : Dev) (n : Nat) (x : Ctx) : (d.setCtx n x).lifetime = d.lifetime := rfl
@[simp] theorem setCtx_res (d : Dev) (n : Nat) (x : Ctx) : (d.setCtx n x).res = d.res := rfl
@[simp] theorem setCtx_samplers (d : Dev) (n : Nat) (x : Ctx) : (d.setCtx n x).samplers = d.samplers := rfl
@[simp] theorem setCtx_links (d : Dev) (n : Nat) (x : Ctx) : (d.setCtx n x).links = d.links := rfl
@[simp] theorem setCtx_epochDone (d : Dev) (n : Nat) (x : Ctx) : (d.setCtx n x).epochDone = d.epochDone := rfl
@[simp] theorem setCtx_cur (d : Dev) (n : Nat) (x : Ctx) : (d.setCtx n x).cur = d.cur := rfl
@[simp] theorem setCtx_verdict (d : Dev) (n : Nat) (x : Ctx) : (d.setCtx n x).verdict = d.verdict := rfl
@[simp] theorem setCtx_fresh (d : Dev) (n : Nat) (x : Ctx) : (d.setCtx n x).fresh = d.fresh := rfl
@[simp] theorem setCtx_tlbBusy (d : Dev) (n : Nat) (x : Ctx) : (d.setCtx n x).tlbBusy = d.tlbBusy := rfl
@[simp] theorem setCtx_records (d : Dev) (n : Nat) (x : Ctx) : (d.setCtx n x).records = d.records := rfl
@[simp] theorem setCtx_uses (d : Dev) (n : Nat) (x : Ctx) : (d.setCtx n x).uses = d.uses := rfl
@[simp] theorem setCtx_clocks (d : Dev) (n : Nat) (x : Ctx) : (d.setCtx n x).clocks = d.clocks := rfl
@[simp] theorem setCtx_leases (d : Dev) (n : Nat) (x : Ctx) : (d.setCtx n x).leases = d.leases := rfl
@[simp] theorem setCtx_retiring (d : Dev) (n : Nat) (x : Ctx) : (d.setCtx n x).retiring = d.retiring := rfl
@[simp] theorem setCtx_waits (d : Dev) (n : Nat) (x : Ctx) : (d.setCtx n x).waits = d.waits := rfl
@[simp] theorem setCtx_winners (d : Dev) (n : Nat) (x : Ctx) : (d.setCtx n x).winners = d.winners := rfl
@[simp] theorem setCtx_use (d : Dev) (n : Nat) (x : Ctx) : (d.setCtx n x).use = d.use := rfl

/-! ### `setGroup` -/

@[simp] theorem setGroup_time (d : Dev) (n : Nat) (x : Group) : (d.setGroup n x).time = d.time := rfl
@[simp] theorem setGroup_mem (d : Dev) (n : Nat) (x : Group) : (d.setGroup n x).mem = d.mem := rfl
@[simp] theorem setGroup_poisoned (d : Dev) (n : Nat) (x : Group) : (d.setGroup n x).poisoned = d.poisoned := rfl
@[simp] theorem setGroup_sptbr (d : Dev) (n : Nat) (x : Group) : (d.setGroup n x).sptbr = d.sptbr := rfl
@[simp] theorem setGroup_tlba (d : Dev) (n : Nat) (x : Group) : (d.setGroup n x).tlba = d.tlba := rfl
@[simp] theorem setGroup_tlbl (d : Dev) (n : Nat) (x : Group) : (d.setGroup n x).tlbl = d.tlbl := rfl
@[simp] theorem setGroup_tlbStatus (d : Dev) (n : Nat) (x : Group) : (d.setGroup n x).tlbStatus = d.tlbStatus := rfl
@[simp] theorem setGroup_tlbKind (d : Dev) (n : Nat) (x : Group) : (d.setGroup n x).tlbKind = d.tlbKind := rfl
@[simp] theorem setGroup_tlbAsid (d : Dev) (n : Nat) (x : Group) : (d.setGroup n x).tlbAsid = d.tlbAsid := rfl
@[simp] theorem setGroup_fccg (d : Dev) (n : Nat) (x : Group) : (d.setGroup n x).fccg = d.fccg := rfl
@[simp] theorem setGroup_tccg (d : Dev) (n : Nat) (x : Group) : (d.setGroup n x).tccg = d.tccg := rfl
@[simp] theorem setGroup_barriers (d : Dev) (n : Nat) (x : Group) : (d.setGroup n x).barriers = d.barriers := rfl
@[simp] theorem setGroup_q250 (d : Dev) (n : Nat) (x : Group) : (d.setGroup n x).q250 = d.q250 := rfl
@[simp] theorem setGroup_q251 (d : Dev) (n : Nat) (x : Group) : (d.setGroup n x).q251 = d.q251 := rfl
@[simp] theorem setGroup_queues (d : Dev) (n : Nat) (x : Group) : (d.setGroup n x).queues = d.queues := rfl
@[simp] theorem setGroup_ctxs (d : Dev) (n : Nat) (x : Group) : (d.setGroup n x).ctxs = d.ctxs := rfl
@[simp] theorem setGroup_cores (d : Dev) (n : Nat) (x : Group) : (d.setGroup n x).cores = d.cores := rfl
@[simp] theorem setGroup_clusters (d : Dev) (n : Nat) (x : Group) : (d.setGroup n x).clusters = d.clusters := rfl
@[simp] theorem setGroup_sites (d : Dev) (n : Nat) (x : Group) : (d.setGroup n x).sites = d.sites := rfl
@[simp] theorem setGroup_lcores (d : Dev) (n : Nat) (x : Group) : (d.setGroup n x).lcores = d.lcores := rfl
@[simp] theorem setGroup_lakeMask (d : Dev) (n : Nat) (x : Group) : (d.setGroup n x).lakeMask = d.lakeMask := rfl
@[simp] theorem setGroup_nvmeMask (d : Dev) (n : Nat) (x : Group) : (d.setGroup n x).nvmeMask = d.nvmeMask := rfl
@[simp] theorem setGroup_counters (d : Dev) (n : Nat) (x : Group) : (d.setGroup n x).counters = d.counters := rfl
@[simp] theorem setGroup_mcounters (d : Dev) (n : Nat) (x : Group) : (d.setGroup n x).mcounters = d.mcounters := rfl
@[simp] theorem setGroup_clockMark (d : Dev) (n : Nat) (x : Group) : (d.setGroup n x).clockMark = d.clockMark := rfl
@[simp] theorem setGroup_lifetime (d : Dev) (n : Nat) (x : Group) : (d.setGroup n x).lifetime = d.lifetime := rfl
@[simp] theorem setGroup_res (d : Dev) (n : Nat) (x : Group) : (d.setGroup n x).res = d.res := rfl
@[simp] theorem setGroup_samplers (d : Dev) (n : Nat) (x : Group) : (d.setGroup n x).samplers = d.samplers := rfl
@[simp] theorem setGroup_links (d : Dev) (n : Nat) (x : Group) : (d.setGroup n x).links = d.links := rfl
@[simp] theorem setGroup_epochDone (d : Dev) (n : Nat) (x : Group) : (d.setGroup n x).epochDone = d.epochDone := rfl
@[simp] theorem setGroup_cur (d : Dev) (n : Nat) (x : Group) : (d.setGroup n x).cur = d.cur := rfl
@[simp] theorem setGroup_verdict (d : Dev) (n : Nat) (x : Group) : (d.setGroup n x).verdict = d.verdict := rfl
@[simp] theorem setGroup_fresh (d : Dev) (n : Nat) (x : Group) : (d.setGroup n x).fresh = d.fresh := rfl
@[simp] theorem setGroup_tlbBusy (d : Dev) (n : Nat) (x : Group) : (d.setGroup n x).tlbBusy = d.tlbBusy := rfl
@[simp] theorem setGroup_records (d : Dev) (n : Nat) (x : Group) : (d.setGroup n x).records = d.records := rfl
@[simp] theorem setGroup_uses (d : Dev) (n : Nat) (x : Group) : (d.setGroup n x).uses = d.uses := rfl
@[simp] theorem setGroup_clocks (d : Dev) (n : Nat) (x : Group) : (d.setGroup n x).clocks = d.clocks := rfl
@[simp] theorem setGroup_leases (d : Dev) (n : Nat) (x : Group) : (d.setGroup n x).leases = d.leases := rfl
@[simp] theorem setGroup_retiring (d : Dev) (n : Nat) (x : Group) : (d.setGroup n x).retiring = d.retiring := rfl
@[simp] theorem setGroup_waits (d : Dev) (n : Nat) (x : Group) : (d.setGroup n x).waits = d.waits := rfl
@[simp] theorem setGroup_winners (d : Dev) (n : Nat) (x : Group) : (d.setGroup n x).winners = d.winners := rfl
@[simp] theorem setGroup_use (d : Dev) (n : Nat) (x : Group) : (d.setGroup n x).use = d.use := rfl

/-! ### `setCore` -/

@[simp] theorem setCore_time (d : Dev) (n : Nat) (x : Core) : (d.setCore n x).time = d.time := rfl
@[simp] theorem setCore_mem (d : Dev) (n : Nat) (x : Core) : (d.setCore n x).mem = d.mem := rfl
@[simp] theorem setCore_poisoned (d : Dev) (n : Nat) (x : Core) : (d.setCore n x).poisoned = d.poisoned := rfl
@[simp] theorem setCore_sptbr (d : Dev) (n : Nat) (x : Core) : (d.setCore n x).sptbr = d.sptbr := rfl
@[simp] theorem setCore_tlba (d : Dev) (n : Nat) (x : Core) : (d.setCore n x).tlba = d.tlba := rfl
@[simp] theorem setCore_tlbl (d : Dev) (n : Nat) (x : Core) : (d.setCore n x).tlbl = d.tlbl := rfl
@[simp] theorem setCore_tlbStatus (d : Dev) (n : Nat) (x : Core) : (d.setCore n x).tlbStatus = d.tlbStatus := rfl
@[simp] theorem setCore_tlbKind (d : Dev) (n : Nat) (x : Core) : (d.setCore n x).tlbKind = d.tlbKind := rfl
@[simp] theorem setCore_tlbAsid (d : Dev) (n : Nat) (x : Core) : (d.setCore n x).tlbAsid = d.tlbAsid := rfl
@[simp] theorem setCore_fccg (d : Dev) (n : Nat) (x : Core) : (d.setCore n x).fccg = d.fccg := rfl
@[simp] theorem setCore_tccg (d : Dev) (n : Nat) (x : Core) : (d.setCore n x).tccg = d.tccg := rfl
@[simp] theorem setCore_barriers (d : Dev) (n : Nat) (x : Core) : (d.setCore n x).barriers = d.barriers := rfl
@[simp] theorem setCore_q250 (d : Dev) (n : Nat) (x : Core) : (d.setCore n x).q250 = d.q250 := rfl
@[simp] theorem setCore_q251 (d : Dev) (n : Nat) (x : Core) : (d.setCore n x).q251 = d.q251 := rfl
@[simp] theorem setCore_queues (d : Dev) (n : Nat) (x : Core) : (d.setCore n x).queues = d.queues := rfl
@[simp] theorem setCore_ctxs (d : Dev) (n : Nat) (x : Core) : (d.setCore n x).ctxs = d.ctxs := rfl
@[simp] theorem setCore_groups (d : Dev) (n : Nat) (x : Core) : (d.setCore n x).groups = d.groups := rfl
@[simp] theorem setCore_clusters (d : Dev) (n : Nat) (x : Core) : (d.setCore n x).clusters = d.clusters := rfl
@[simp] theorem setCore_sites (d : Dev) (n : Nat) (x : Core) : (d.setCore n x).sites = d.sites := rfl
@[simp] theorem setCore_lcores (d : Dev) (n : Nat) (x : Core) : (d.setCore n x).lcores = d.lcores := rfl
@[simp] theorem setCore_lakeMask (d : Dev) (n : Nat) (x : Core) : (d.setCore n x).lakeMask = d.lakeMask := rfl
@[simp] theorem setCore_nvmeMask (d : Dev) (n : Nat) (x : Core) : (d.setCore n x).nvmeMask = d.nvmeMask := rfl
@[simp] theorem setCore_counters (d : Dev) (n : Nat) (x : Core) : (d.setCore n x).counters = d.counters := rfl
@[simp] theorem setCore_mcounters (d : Dev) (n : Nat) (x : Core) : (d.setCore n x).mcounters = d.mcounters := rfl
@[simp] theorem setCore_clockMark (d : Dev) (n : Nat) (x : Core) : (d.setCore n x).clockMark = d.clockMark := rfl
@[simp] theorem setCore_lifetime (d : Dev) (n : Nat) (x : Core) : (d.setCore n x).lifetime = d.lifetime := rfl
@[simp] theorem setCore_res (d : Dev) (n : Nat) (x : Core) : (d.setCore n x).res = d.res := rfl
@[simp] theorem setCore_samplers (d : Dev) (n : Nat) (x : Core) : (d.setCore n x).samplers = d.samplers := rfl
@[simp] theorem setCore_links (d : Dev) (n : Nat) (x : Core) : (d.setCore n x).links = d.links := rfl
@[simp] theorem setCore_epochDone (d : Dev) (n : Nat) (x : Core) : (d.setCore n x).epochDone = d.epochDone := rfl
@[simp] theorem setCore_cur (d : Dev) (n : Nat) (x : Core) : (d.setCore n x).cur = d.cur := rfl
@[simp] theorem setCore_verdict (d : Dev) (n : Nat) (x : Core) : (d.setCore n x).verdict = d.verdict := rfl
@[simp] theorem setCore_fresh (d : Dev) (n : Nat) (x : Core) : (d.setCore n x).fresh = d.fresh := rfl
@[simp] theorem setCore_tlbBusy (d : Dev) (n : Nat) (x : Core) : (d.setCore n x).tlbBusy = d.tlbBusy := rfl
@[simp] theorem setCore_records (d : Dev) (n : Nat) (x : Core) : (d.setCore n x).records = d.records := rfl
@[simp] theorem setCore_uses (d : Dev) (n : Nat) (x : Core) : (d.setCore n x).uses = d.uses := rfl
@[simp] theorem setCore_clocks (d : Dev) (n : Nat) (x : Core) : (d.setCore n x).clocks = d.clocks := rfl
@[simp] theorem setCore_leases (d : Dev) (n : Nat) (x : Core) : (d.setCore n x).leases = d.leases := rfl
@[simp] theorem setCore_retiring (d : Dev) (n : Nat) (x : Core) : (d.setCore n x).retiring = d.retiring := rfl
@[simp] theorem setCore_waits (d : Dev) (n : Nat) (x : Core) : (d.setCore n x).waits = d.waits := rfl
@[simp] theorem setCore_winners (d : Dev) (n : Nat) (x : Core) : (d.setCore n x).winners = d.winners := rfl
@[simp] theorem setCore_use (d : Dev) (n : Nat) (x : Core) : (d.setCore n x).use = d.use := rfl

/-! ### `setCluster` -/

@[simp] theorem setCluster_time (d : Dev) (n : Nat) (x : Cluster) : (d.setCluster n x).time = d.time := rfl
@[simp] theorem setCluster_mem (d : Dev) (n : Nat) (x : Cluster) : (d.setCluster n x).mem = d.mem := rfl
@[simp] theorem setCluster_poisoned (d : Dev) (n : Nat) (x : Cluster) : (d.setCluster n x).poisoned = d.poisoned := rfl
@[simp] theorem setCluster_sptbr (d : Dev) (n : Nat) (x : Cluster) : (d.setCluster n x).sptbr = d.sptbr := rfl
@[simp] theorem setCluster_tlba (d : Dev) (n : Nat) (x : Cluster) : (d.setCluster n x).tlba = d.tlba := rfl
@[simp] theorem setCluster_tlbl (d : Dev) (n : Nat) (x : Cluster) : (d.setCluster n x).tlbl = d.tlbl := rfl
@[simp] theorem setCluster_tlbStatus (d : Dev) (n : Nat) (x : Cluster) : (d.setCluster n x).tlbStatus = d.tlbStatus := rfl
@[simp] theorem setCluster_tlbKind (d : Dev) (n : Nat) (x : Cluster) : (d.setCluster n x).tlbKind = d.tlbKind := rfl
@[simp] theorem setCluster_tlbAsid (d : Dev) (n : Nat) (x : Cluster) : (d.setCluster n x).tlbAsid = d.tlbAsid := rfl
@[simp] theorem setCluster_fccg (d : Dev) (n : Nat) (x : Cluster) : (d.setCluster n x).fccg = d.fccg := rfl
@[simp] theorem setCluster_tccg (d : Dev) (n : Nat) (x : Cluster) : (d.setCluster n x).tccg = d.tccg := rfl
@[simp] theorem setCluster_barriers (d : Dev) (n : Nat) (x : Cluster) : (d.setCluster n x).barriers = d.barriers := rfl
@[simp] theorem setCluster_q250 (d : Dev) (n : Nat) (x : Cluster) : (d.setCluster n x).q250 = d.q250 := rfl
@[simp] theorem setCluster_q251 (d : Dev) (n : Nat) (x : Cluster) : (d.setCluster n x).q251 = d.q251 := rfl
@[simp] theorem setCluster_queues (d : Dev) (n : Nat) (x : Cluster) : (d.setCluster n x).queues = d.queues := rfl
@[simp] theorem setCluster_ctxs (d : Dev) (n : Nat) (x : Cluster) : (d.setCluster n x).ctxs = d.ctxs := rfl
@[simp] theorem setCluster_groups (d : Dev) (n : Nat) (x : Cluster) : (d.setCluster n x).groups = d.groups := rfl
@[simp] theorem setCluster_cores (d : Dev) (n : Nat) (x : Cluster) : (d.setCluster n x).cores = d.cores := rfl
@[simp] theorem setCluster_sites (d : Dev) (n : Nat) (x : Cluster) : (d.setCluster n x).sites = d.sites := rfl
@[simp] theorem setCluster_lcores (d : Dev) (n : Nat) (x : Cluster) : (d.setCluster n x).lcores = d.lcores := rfl
@[simp] theorem setCluster_lakeMask (d : Dev) (n : Nat) (x : Cluster) : (d.setCluster n x).lakeMask = d.lakeMask := rfl
@[simp] theorem setCluster_nvmeMask (d : Dev) (n : Nat) (x : Cluster) : (d.setCluster n x).nvmeMask = d.nvmeMask := rfl
@[simp] theorem setCluster_counters (d : Dev) (n : Nat) (x : Cluster) : (d.setCluster n x).counters = d.counters := rfl
@[simp] theorem setCluster_mcounters (d : Dev) (n : Nat) (x : Cluster) : (d.setCluster n x).mcounters = d.mcounters := rfl
@[simp] theorem setCluster_clockMark (d : Dev) (n : Nat) (x : Cluster) : (d.setCluster n x).clockMark = d.clockMark := rfl
@[simp] theorem setCluster_lifetime (d : Dev) (n : Nat) (x : Cluster) : (d.setCluster n x).lifetime = d.lifetime := rfl
@[simp] theorem setCluster_res (d : Dev) (n : Nat) (x : Cluster) : (d.setCluster n x).res = d.res := rfl
@[simp] theorem setCluster_samplers (d : Dev) (n : Nat) (x : Cluster) : (d.setCluster n x).samplers = d.samplers := rfl
@[simp] theorem setCluster_links (d : Dev) (n : Nat) (x : Cluster) : (d.setCluster n x).links = d.links := rfl
@[simp] theorem setCluster_epochDone (d : Dev) (n : Nat) (x : Cluster) : (d.setCluster n x).epochDone = d.epochDone := rfl
@[simp] theorem setCluster_cur (d : Dev) (n : Nat) (x : Cluster) : (d.setCluster n x).cur = d.cur := rfl
@[simp] theorem setCluster_verdict (d : Dev) (n : Nat) (x : Cluster) : (d.setCluster n x).verdict = d.verdict := rfl
@[simp] theorem setCluster_fresh (d : Dev) (n : Nat) (x : Cluster) : (d.setCluster n x).fresh = d.fresh := rfl
@[simp] theorem setCluster_tlbBusy (d : Dev) (n : Nat) (x : Cluster) : (d.setCluster n x).tlbBusy = d.tlbBusy := rfl
@[simp] theorem setCluster_records (d : Dev) (n : Nat) (x : Cluster) : (d.setCluster n x).records = d.records := rfl
@[simp] theorem setCluster_uses (d : Dev) (n : Nat) (x : Cluster) : (d.setCluster n x).uses = d.uses := rfl
@[simp] theorem setCluster_clocks (d : Dev) (n : Nat) (x : Cluster) : (d.setCluster n x).clocks = d.clocks := rfl
@[simp] theorem setCluster_leases (d : Dev) (n : Nat) (x : Cluster) : (d.setCluster n x).leases = d.leases := rfl
@[simp] theorem setCluster_retiring (d : Dev) (n : Nat) (x : Cluster) : (d.setCluster n x).retiring = d.retiring := rfl
@[simp] theorem setCluster_waits (d : Dev) (n : Nat) (x : Cluster) : (d.setCluster n x).waits = d.waits := rfl
@[simp] theorem setCluster_winners (d : Dev) (n : Nat) (x : Cluster) : (d.setCluster n x).winners = d.winners := rfl
@[simp] theorem setCluster_use (d : Dev) (n : Nat) (x : Cluster) : (d.setCluster n x).use = d.use := rfl

/-! ### `setQueue` -/

@[simp] theorem setQueue_time (d : Dev) (n : Nat) (x : Queue) : (d.setQueue n x).time = d.time := rfl
@[simp] theorem setQueue_mem (d : Dev) (n : Nat) (x : Queue) : (d.setQueue n x).mem = d.mem := rfl
@[simp] theorem setQueue_poisoned (d : Dev) (n : Nat) (x : Queue) : (d.setQueue n x).poisoned = d.poisoned := rfl
@[simp] theorem setQueue_sptbr (d : Dev) (n : Nat) (x : Queue) : (d.setQueue n x).sptbr = d.sptbr := rfl
@[simp] theorem setQueue_tlba (d : Dev) (n : Nat) (x : Queue) : (d.setQueue n x).tlba = d.tlba := rfl
@[simp] theorem setQueue_tlbl (d : Dev) (n : Nat) (x : Queue) : (d.setQueue n x).tlbl = d.tlbl := rfl
@[simp] theorem setQueue_tlbStatus (d : Dev) (n : Nat) (x : Queue) : (d.setQueue n x).tlbStatus = d.tlbStatus := rfl
@[simp] theorem setQueue_tlbKind (d : Dev) (n : Nat) (x : Queue) : (d.setQueue n x).tlbKind = d.tlbKind := rfl
@[simp] theorem setQueue_tlbAsid (d : Dev) (n : Nat) (x : Queue) : (d.setQueue n x).tlbAsid = d.tlbAsid := rfl
@[simp] theorem setQueue_fccg (d : Dev) (n : Nat) (x : Queue) : (d.setQueue n x).fccg = d.fccg := rfl
@[simp] theorem setQueue_tccg (d : Dev) (n : Nat) (x : Queue) : (d.setQueue n x).tccg = d.tccg := rfl
@[simp] theorem setQueue_barriers (d : Dev) (n : Nat) (x : Queue) : (d.setQueue n x).barriers = d.barriers := rfl
@[simp] theorem setQueue_q250 (d : Dev) (n : Nat) (x : Queue) : (d.setQueue n x).q250 = d.q250 := rfl
@[simp] theorem setQueue_q251 (d : Dev) (n : Nat) (x : Queue) : (d.setQueue n x).q251 = d.q251 := rfl
@[simp] theorem setQueue_ctxs (d : Dev) (n : Nat) (x : Queue) : (d.setQueue n x).ctxs = d.ctxs := rfl
@[simp] theorem setQueue_groups (d : Dev) (n : Nat) (x : Queue) : (d.setQueue n x).groups = d.groups := rfl
@[simp] theorem setQueue_cores (d : Dev) (n : Nat) (x : Queue) : (d.setQueue n x).cores = d.cores := rfl
@[simp] theorem setQueue_clusters (d : Dev) (n : Nat) (x : Queue) : (d.setQueue n x).clusters = d.clusters := rfl
@[simp] theorem setQueue_sites (d : Dev) (n : Nat) (x : Queue) : (d.setQueue n x).sites = d.sites := rfl
@[simp] theorem setQueue_lcores (d : Dev) (n : Nat) (x : Queue) : (d.setQueue n x).lcores = d.lcores := rfl
@[simp] theorem setQueue_lakeMask (d : Dev) (n : Nat) (x : Queue) : (d.setQueue n x).lakeMask = d.lakeMask := rfl
@[simp] theorem setQueue_nvmeMask (d : Dev) (n : Nat) (x : Queue) : (d.setQueue n x).nvmeMask = d.nvmeMask := rfl
@[simp] theorem setQueue_counters (d : Dev) (n : Nat) (x : Queue) : (d.setQueue n x).counters = d.counters := rfl
@[simp] theorem setQueue_mcounters (d : Dev) (n : Nat) (x : Queue) : (d.setQueue n x).mcounters = d.mcounters := rfl
@[simp] theorem setQueue_clockMark (d : Dev) (n : Nat) (x : Queue) : (d.setQueue n x).clockMark = d.clockMark := rfl
@[simp] theorem setQueue_lifetime (d : Dev) (n : Nat) (x : Queue) : (d.setQueue n x).lifetime = d.lifetime := rfl
@[simp] theorem setQueue_res (d : Dev) (n : Nat) (x : Queue) : (d.setQueue n x).res = d.res := rfl
@[simp] theorem setQueue_samplers (d : Dev) (n : Nat) (x : Queue) : (d.setQueue n x).samplers = d.samplers := rfl
@[simp] theorem setQueue_links (d : Dev) (n : Nat) (x : Queue) : (d.setQueue n x).links = d.links := rfl
@[simp] theorem setQueue_epochDone (d : Dev) (n : Nat) (x : Queue) : (d.setQueue n x).epochDone = d.epochDone := rfl
@[simp] theorem setQueue_cur (d : Dev) (n : Nat) (x : Queue) : (d.setQueue n x).cur = d.cur := rfl
@[simp] theorem setQueue_verdict (d : Dev) (n : Nat) (x : Queue) : (d.setQueue n x).verdict = d.verdict := rfl
@[simp] theorem setQueue_fresh (d : Dev) (n : Nat) (x : Queue) : (d.setQueue n x).fresh = d.fresh := rfl
@[simp] theorem setQueue_tlbBusy (d : Dev) (n : Nat) (x : Queue) : (d.setQueue n x).tlbBusy = d.tlbBusy := rfl
@[simp] theorem setQueue_records (d : Dev) (n : Nat) (x : Queue) : (d.setQueue n x).records = d.records := rfl
@[simp] theorem setQueue_uses (d : Dev) (n : Nat) (x : Queue) : (d.setQueue n x).uses = d.uses := rfl
@[simp] theorem setQueue_clocks (d : Dev) (n : Nat) (x : Queue) : (d.setQueue n x).clocks = d.clocks := rfl
@[simp] theorem setQueue_leases (d : Dev) (n : Nat) (x : Queue) : (d.setQueue n x).leases = d.leases := rfl
@[simp] theorem setQueue_retiring (d : Dev) (n : Nat) (x : Queue) : (d.setQueue n x).retiring = d.retiring := rfl
@[simp] theorem setQueue_waits (d : Dev) (n : Nat) (x : Queue) : (d.setQueue n x).waits = d.waits := rfl
@[simp] theorem setQueue_winners (d : Dev) (n : Nat) (x : Queue) : (d.setQueue n x).winners = d.winners := rfl
@[simp] theorem setQueue_use (d : Dev) (n : Nat) (x : Queue) : (d.setQueue n x).use = d.use := rfl

/-! ### `setLink` -/

@[simp] theorem setLink_time (d : Dev) (n : Nat) (x : Link) : (d.setLink n x).time = d.time := rfl
@[simp] theorem setLink_mem (d : Dev) (n : Nat) (x : Link) : (d.setLink n x).mem = d.mem := rfl
@[simp] theorem setLink_poisoned (d : Dev) (n : Nat) (x : Link) : (d.setLink n x).poisoned = d.poisoned := rfl
@[simp] theorem setLink_sptbr (d : Dev) (n : Nat) (x : Link) : (d.setLink n x).sptbr = d.sptbr := rfl
@[simp] theorem setLink_tlba (d : Dev) (n : Nat) (x : Link) : (d.setLink n x).tlba = d.tlba := rfl
@[simp] theorem setLink_tlbl (d : Dev) (n : Nat) (x : Link) : (d.setLink n x).tlbl = d.tlbl := rfl
@[simp] theorem setLink_tlbStatus (d : Dev) (n : Nat) (x : Link) : (d.setLink n x).tlbStatus = d.tlbStatus := rfl
@[simp] theorem setLink_tlbKind (d : Dev) (n : Nat) (x : Link) : (d.setLink n x).tlbKind = d.tlbKind := rfl
@[simp] theorem setLink_tlbAsid (d : Dev) (n : Nat) (x : Link) : (d.setLink n x).tlbAsid = d.tlbAsid := rfl
@[simp] theorem setLink_fccg (d : Dev) (n : Nat) (x : Link) : (d.setLink n x).fccg = d.fccg := rfl
@[simp] theorem setLink_tccg (d : Dev) (n : Nat) (x : Link) : (d.setLink n x).tccg = d.tccg := rfl
@[simp] theorem setLink_barriers (d : Dev) (n : Nat) (x : Link) : (d.setLink n x).barriers = d.barriers := rfl
@[simp] theorem setLink_q250 (d : Dev) (n : Nat) (x : Link) : (d.setLink n x).q250 = d.q250 := rfl
@[simp] theorem setLink_q251 (d : Dev) (n : Nat) (x : Link) : (d.setLink n x).q251 = d.q251 := rfl
@[simp] theorem setLink_queues (d : Dev) (n : Nat) (x : Link) : (d.setLink n x).queues = d.queues := rfl
@[simp] theorem setLink_ctxs (d : Dev) (n : Nat) (x : Link) : (d.setLink n x).ctxs = d.ctxs := rfl
@[simp] theorem setLink_groups (d : Dev) (n : Nat) (x : Link) : (d.setLink n x).groups = d.groups := rfl
@[simp] theorem setLink_cores (d : Dev) (n : Nat) (x : Link) : (d.setLink n x).cores = d.cores := rfl
@[simp] theorem setLink_clusters (d : Dev) (n : Nat) (x : Link) : (d.setLink n x).clusters = d.clusters := rfl
@[simp] theorem setLink_sites (d : Dev) (n : Nat) (x : Link) : (d.setLink n x).sites = d.sites := rfl
@[simp] theorem setLink_lcores (d : Dev) (n : Nat) (x : Link) : (d.setLink n x).lcores = d.lcores := rfl
@[simp] theorem setLink_lakeMask (d : Dev) (n : Nat) (x : Link) : (d.setLink n x).lakeMask = d.lakeMask := rfl
@[simp] theorem setLink_nvmeMask (d : Dev) (n : Nat) (x : Link) : (d.setLink n x).nvmeMask = d.nvmeMask := rfl
@[simp] theorem setLink_counters (d : Dev) (n : Nat) (x : Link) : (d.setLink n x).counters = d.counters := rfl
@[simp] theorem setLink_mcounters (d : Dev) (n : Nat) (x : Link) : (d.setLink n x).mcounters = d.mcounters := rfl
@[simp] theorem setLink_clockMark (d : Dev) (n : Nat) (x : Link) : (d.setLink n x).clockMark = d.clockMark := rfl
@[simp] theorem setLink_lifetime (d : Dev) (n : Nat) (x : Link) : (d.setLink n x).lifetime = d.lifetime := rfl
@[simp] theorem setLink_res (d : Dev) (n : Nat) (x : Link) : (d.setLink n x).res = d.res := rfl
@[simp] theorem setLink_samplers (d : Dev) (n : Nat) (x : Link) : (d.setLink n x).samplers = d.samplers := rfl
@[simp] theorem setLink_epochDone (d : Dev) (n : Nat) (x : Link) : (d.setLink n x).epochDone = d.epochDone := rfl
@[simp] theorem setLink_cur (d : Dev) (n : Nat) (x : Link) : (d.setLink n x).cur = d.cur := rfl
@[simp] theorem setLink_verdict (d : Dev) (n : Nat) (x : Link) : (d.setLink n x).verdict = d.verdict := rfl
@[simp] theorem setLink_fresh (d : Dev) (n : Nat) (x : Link) : (d.setLink n x).fresh = d.fresh := rfl
@[simp] theorem setLink_tlbBusy (d : Dev) (n : Nat) (x : Link) : (d.setLink n x).tlbBusy = d.tlbBusy := rfl
@[simp] theorem setLink_records (d : Dev) (n : Nat) (x : Link) : (d.setLink n x).records = d.records := rfl
@[simp] theorem setLink_uses (d : Dev) (n : Nat) (x : Link) : (d.setLink n x).uses = d.uses := rfl
@[simp] theorem setLink_clocks (d : Dev) (n : Nat) (x : Link) : (d.setLink n x).clocks = d.clocks := rfl
@[simp] theorem setLink_leases (d : Dev) (n : Nat) (x : Link) : (d.setLink n x).leases = d.leases := rfl
@[simp] theorem setLink_retiring (d : Dev) (n : Nat) (x : Link) : (d.setLink n x).retiring = d.retiring := rfl
@[simp] theorem setLink_waits (d : Dev) (n : Nat) (x : Link) : (d.setLink n x).waits = d.waits := rfl
@[simp] theorem setLink_winners (d : Dev) (n : Nat) (x : Link) : (d.setLink n x).winners = d.winners := rfl
@[simp] theorem setLink_use (d : Dev) (n : Nat) (x : Link) : (d.setLink n x).use = d.use := rfl

/-! ### `setGrp` -/

@[simp] theorem setGrp_time (d : Dev) (x : Group) : (d.setGrp x).time = d.time := rfl
@[simp] theorem setGrp_mem (d : Dev) (x : Group) : (d.setGrp x).mem = d.mem := rfl
@[simp] theorem setGrp_poisoned (d : Dev) (x : Group) : (d.setGrp x).poisoned = d.poisoned := rfl
@[simp] theorem setGrp_sptbr (d : Dev) (x : Group) : (d.setGrp x).sptbr = d.sptbr := rfl
@[simp] theorem setGrp_tlba (d : Dev) (x : Group) : (d.setGrp x).tlba = d.tlba := rfl
@[simp] theorem setGrp_tlbl (d : Dev) (x : Group) : (d.setGrp x).tlbl = d.tlbl := rfl
@[simp] theorem setGrp_tlbStatus (d : Dev) (x : Group) : (d.setGrp x).tlbStatus = d.tlbStatus := rfl
@[simp] theorem setGrp_tlbKind (d : Dev) (x : Group) : (d.setGrp x).tlbKind = d.tlbKind := rfl
@[simp] theorem setGrp_tlbAsid (d : Dev) (x : Group) : (d.setGrp x).tlbAsid = d.tlbAsid := rfl
@[simp] theorem setGrp_fccg (d : Dev) (x : Group) : (d.setGrp x).fccg = d.fccg := rfl
@[simp] theorem setGrp_tccg (d : Dev) (x : Group) : (d.setGrp x).tccg = d.tccg := rfl
@[simp] theorem setGrp_barriers (d : Dev) (x : Group) : (d.setGrp x).barriers = d.barriers := rfl
@[simp] theorem setGrp_q250 (d : Dev) (x : Group) : (d.setGrp x).q250 = d.q250 := rfl
@[simp] theorem setGrp_q251 (d : Dev) (x : Group) : (d.setGrp x).q251 = d.q251 := rfl
@[simp] theorem setGrp_queues (d : Dev) (x : Group) : (d.setGrp x).queues = d.queues := rfl
@[simp] theorem setGrp_ctxs (d : Dev) (x : Group) : (d.setGrp x).ctxs = d.ctxs := rfl
@[simp] theorem setGrp_cores (d : Dev) (x : Group) : (d.setGrp x).cores = d.cores := rfl
@[simp] theorem setGrp_clusters (d : Dev) (x : Group) : (d.setGrp x).clusters = d.clusters := rfl
@[simp] theorem setGrp_sites (d : Dev) (x : Group) : (d.setGrp x).sites = d.sites := rfl
@[simp] theorem setGrp_lcores (d : Dev) (x : Group) : (d.setGrp x).lcores = d.lcores := rfl
@[simp] theorem setGrp_lakeMask (d : Dev) (x : Group) : (d.setGrp x).lakeMask = d.lakeMask := rfl
@[simp] theorem setGrp_nvmeMask (d : Dev) (x : Group) : (d.setGrp x).nvmeMask = d.nvmeMask := rfl
@[simp] theorem setGrp_counters (d : Dev) (x : Group) : (d.setGrp x).counters = d.counters := rfl
@[simp] theorem setGrp_mcounters (d : Dev) (x : Group) : (d.setGrp x).mcounters = d.mcounters := rfl
@[simp] theorem setGrp_clockMark (d : Dev) (x : Group) : (d.setGrp x).clockMark = d.clockMark := rfl
@[simp] theorem setGrp_lifetime (d : Dev) (x : Group) : (d.setGrp x).lifetime = d.lifetime := rfl
@[simp] theorem setGrp_res (d : Dev) (x : Group) : (d.setGrp x).res = d.res := rfl
@[simp] theorem setGrp_samplers (d : Dev) (x : Group) : (d.setGrp x).samplers = d.samplers := rfl
@[simp] theorem setGrp_links (d : Dev) (x : Group) : (d.setGrp x).links = d.links := rfl
@[simp] theorem setGrp_epochDone (d : Dev) (x : Group) : (d.setGrp x).epochDone = d.epochDone := rfl
@[simp] theorem setGrp_cur (d : Dev) (x : Group) : (d.setGrp x).cur = d.cur := rfl
@[simp] theorem setGrp_verdict (d : Dev) (x : Group) : (d.setGrp x).verdict = d.verdict := rfl
@[simp] theorem setGrp_fresh (d : Dev) (x : Group) : (d.setGrp x).fresh = d.fresh := rfl
@[simp] theorem setGrp_tlbBusy (d : Dev) (x : Group) : (d.setGrp x).tlbBusy = d.tlbBusy := rfl
@[simp] theorem setGrp_records (d : Dev) (x : Group) : (d.setGrp x).records = d.records := rfl
@[simp] theorem setGrp_uses (d : Dev) (x : Group) : (d.setGrp x).uses = d.uses := rfl
@[simp] theorem setGrp_clocks (d : Dev) (x : Group) : (d.setGrp x).clocks = d.clocks := rfl
@[simp] theorem setGrp_leases (d : Dev) (x : Group) : (d.setGrp x).leases = d.leases := rfl
@[simp] theorem setGrp_retiring (d : Dev) (x : Group) : (d.setGrp x).retiring = d.retiring := rfl
@[simp] theorem setGrp_waits (d : Dev) (x : Group) : (d.setGrp x).waits = d.waits := rfl
@[simp] theorem setGrp_winners (d : Dev) (x : Group) : (d.setGrp x).winners = d.winners := rfl
@[simp] theorem setGrp_use (d : Dev) (x : Group) : (d.setGrp x).use = d.use := rfl

/-! ### `setStm` -/

@[simp] theorem setStm_time (d : Dev) (x : Stream) : (d.setStm x).time = d.time := by unfold setStm; split <;> rfl
@[simp] theorem setStm_mem (d : Dev) (x : Stream) : (d.setStm x).mem = d.mem := by unfold setStm; split <;> rfl
@[simp] theorem setStm_poisoned (d : Dev) (x : Stream) : (d.setStm x).poisoned = d.poisoned := by unfold setStm; split <;> rfl
@[simp] theorem setStm_sptbr (d : Dev) (x : Stream) : (d.setStm x).sptbr = d.sptbr := by unfold setStm; split <;> rfl
@[simp] theorem setStm_tlba (d : Dev) (x : Stream) : (d.setStm x).tlba = d.tlba := by unfold setStm; split <;> rfl
@[simp] theorem setStm_tlbl (d : Dev) (x : Stream) : (d.setStm x).tlbl = d.tlbl := by unfold setStm; split <;> rfl
@[simp] theorem setStm_tlbStatus (d : Dev) (x : Stream) : (d.setStm x).tlbStatus = d.tlbStatus := by unfold setStm; split <;> rfl
@[simp] theorem setStm_tlbKind (d : Dev) (x : Stream) : (d.setStm x).tlbKind = d.tlbKind := by unfold setStm; split <;> rfl
@[simp] theorem setStm_tlbAsid (d : Dev) (x : Stream) : (d.setStm x).tlbAsid = d.tlbAsid := by unfold setStm; split <;> rfl
@[simp] theorem setStm_fccg (d : Dev) (x : Stream) : (d.setStm x).fccg = d.fccg := by unfold setStm; split <;> rfl
@[simp] theorem setStm_tccg (d : Dev) (x : Stream) : (d.setStm x).tccg = d.tccg := by unfold setStm; split <;> rfl
@[simp] theorem setStm_barriers (d : Dev) (x : Stream) : (d.setStm x).barriers = d.barriers := by unfold setStm; split <;> rfl
@[simp] theorem setStm_q250 (d : Dev) (x : Stream) : (d.setStm x).q250 = d.q250 := by unfold setStm; split <;> rfl
@[simp] theorem setStm_q251 (d : Dev) (x : Stream) : (d.setStm x).q251 = d.q251 := by unfold setStm; split <;> rfl
@[simp] theorem setStm_queues (d : Dev) (x : Stream) : (d.setStm x).queues = d.queues := by unfold setStm; split <;> rfl
@[simp] theorem setStm_ctxs (d : Dev) (x : Stream) : (d.setStm x).ctxs = d.ctxs := by unfold setStm; split <;> rfl
@[simp] theorem setStm_clusters (d : Dev) (x : Stream) : (d.setStm x).clusters = d.clusters := by unfold setStm; split <;> rfl
@[simp] theorem setStm_sites (d : Dev) (x : Stream) : (d.setStm x).sites = d.sites := by unfold setStm; split <;> rfl
@[simp] theorem setStm_lcores (d : Dev) (x : Stream) : (d.setStm x).lcores = d.lcores := by unfold setStm; split <;> rfl
@[simp] theorem setStm_lakeMask (d : Dev) (x : Stream) : (d.setStm x).lakeMask = d.lakeMask := by unfold setStm; split <;> rfl
@[simp] theorem setStm_nvmeMask (d : Dev) (x : Stream) : (d.setStm x).nvmeMask = d.nvmeMask := by unfold setStm; split <;> rfl
@[simp] theorem setStm_counters (d : Dev) (x : Stream) : (d.setStm x).counters = d.counters := by unfold setStm; split <;> rfl
@[simp] theorem setStm_mcounters (d : Dev) (x : Stream) : (d.setStm x).mcounters = d.mcounters := by unfold setStm; split <;> rfl
@[simp] theorem setStm_clockMark (d : Dev) (x : Stream) : (d.setStm x).clockMark = d.clockMark := by unfold setStm; split <;> rfl
@[simp] theorem setStm_lifetime (d : Dev) (x : Stream) : (d.setStm x).lifetime = d.lifetime := by unfold setStm; split <;> rfl
@[simp] theorem setStm_res (d : Dev) (x : Stream) : (d.setStm x).res = d.res := by unfold setStm; split <;> rfl
@[simp] theorem setStm_samplers (d : Dev) (x : Stream) : (d.setStm x).samplers = d.samplers := by unfold setStm; split <;> rfl
@[simp] theorem setStm_links (d : Dev) (x : Stream) : (d.setStm x).links = d.links := by unfold setStm; split <;> rfl
@[simp] theorem setStm_epochDone (d : Dev) (x : Stream) : (d.setStm x).epochDone = d.epochDone := by unfold setStm; split <;> rfl
@[simp] theorem setStm_cur (d : Dev) (x : Stream) : (d.setStm x).cur = d.cur := by unfold setStm; split <;> rfl
@[simp] theorem setStm_verdict (d : Dev) (x : Stream) : (d.setStm x).verdict = d.verdict := by unfold setStm; split <;> rfl
@[simp] theorem setStm_fresh (d : Dev) (x : Stream) : (d.setStm x).fresh = d.fresh := by unfold setStm; split <;> rfl
@[simp] theorem setStm_tlbBusy (d : Dev) (x : Stream) : (d.setStm x).tlbBusy = d.tlbBusy := by unfold setStm; split <;> rfl
@[simp] theorem setStm_records (d : Dev) (x : Stream) : (d.setStm x).records = d.records := by unfold setStm; split <;> rfl
@[simp] theorem setStm_uses (d : Dev) (x : Stream) : (d.setStm x).uses = d.uses := by unfold setStm; split <;> rfl
@[simp] theorem setStm_clocks (d : Dev) (x : Stream) : (d.setStm x).clocks = d.clocks := by unfold setStm; split <;> rfl
@[simp] theorem setStm_leases (d : Dev) (x : Stream) : (d.setStm x).leases = d.leases := by unfold setStm; split <;> rfl
@[simp] theorem setStm_retiring (d : Dev) (x : Stream) : (d.setStm x).retiring = d.retiring := by unfold setStm; split <;> rfl
@[simp] theorem setStm_waits (d : Dev) (x : Stream) : (d.setStm x).waits = d.waits := by unfold setStm; split <;> rfl
@[simp] theorem setStm_winners (d : Dev) (x : Stream) : (d.setStm x).winners = d.winners := by unfold setStm; split <;> rfl
@[simp] theorem setStm_use (d : Dev) (x : Stream) : (d.setStm x).use = d.use := by unfold setStm; split <;> rfl

/-! ### Reads after writes -/

@[simp] theorem ctx_setCtx (d : Dev) (n : Nat) (x : Ctx) : (d.setCtx n x).ctx n = x := Map.get_set_same _ _ _ _
theorem ctx_setCtx_ne (d : Dev) (n k : Nat) (x : Ctx) (h : k ≠ n) : (d.setCtx n x).ctx k = d.ctx k := Map.get_set_ne _ _ _ _ _ h
@[simp] theorem group_setGroup (d : Dev) (n : Nat) (x : Group) : (d.setGroup n x).group n = x := Map.get_set_same _ _ _ _
theorem group_setGroup_ne (d : Dev) (n k : Nat) (x : Group) (h : k ≠ n) : (d.setGroup n x).group k = d.group k :=
  Map.get_set_ne _ _ _ _ _ h
@[simp] theorem core_setCore (d : Dev) (n : Nat) (x : Core) : (d.setCore n x).core n = x := Map.get_set_same _ _ _ _
theorem core_setCore_ne (d : Dev) (n k : Nat) (x : Core) (h : k ≠ n) : (d.setCore n x).core k = d.core k :=
  Map.get_set_ne _ _ _ _ _ h
@[simp] theorem cluster_setCluster (d : Dev) (n : Nat) (x : Cluster) : (d.setCluster n x).cluster n = x :=
  Map.get_set_same _ _ _ _
theorem cluster_setCluster_ne (d : Dev) (n k : Nat) (x : Cluster) (h : k ≠ n) : (d.setCluster n x).cluster k = d.cluster k :=
  Map.get_set_ne _ _ _ _ _ h
@[simp] theorem queue_setQueue (d : Dev) (n : Nat) (x : Queue) : (d.setQueue n x).queue n = x := Map.get_set_same _ _ _ _
theorem queue_setQueue_ne (d : Dev) (n k : Nat) (x : Queue) (h : k ≠ n) : (d.setQueue n x).queue k = d.queue k :=
  Map.get_set_ne _ _ _ _ _ h
@[simp] theorem link_setLink (d : Dev) (n : Nat) (x : Link) : (d.setLink n x).link n = x := Map.get_set_same _ _ _ _
theorem link_setLink_ne (d : Dev) (n k : Nat) (x : Link) (h : k ≠ n) : (d.setLink n x).link k = d.link k :=
  Map.get_set_ne _ _ _ _ _ h
@[simp] theorem grp_setGrp (d : Dev) (x : Group) : (d.setGrp x).grp = x := Map.get_set_same _ _ _ _
@[simp] theorem grp_setCore (d : Dev) (n : Nat) (x : Core) : (d.setCore n x).grp = d.grp := rfl
@[simp] theorem core_setGroup (d : Dev) (n k : Nat) (x : Group) : (d.setGroup n x).core k = d.core k := rfl
@[simp] theorem core_setGrp (d : Dev) (k : Nat) (x : Group) : (d.setGrp x).core k = d.core k := rfl
@[simp] theorem ctx_setGrp (d : Dev) (k : Nat) (x : Group) : (d.setGrp x).ctx k = d.ctx k := rfl
@[simp] theorem ctx_setCore (d : Dev) (n k : Nat) (x : Core) : (d.setCore n x).ctx k = d.ctx k := rfl
@[simp] theorem ctx_setGroup (d : Dev) (n k : Nat) (x : Group) : (d.setGroup n x).ctx k = d.ctx k := rfl
@[simp] theorem group_setCtx (d : Dev) (n k : Nat) (x : Ctx) : (d.setCtx n x).group k = d.group k := rfl
@[simp] theorem group_setCore (d : Dev) (n k : Nat) (x : Core) : (d.setCore n x).group k = d.group k := rfl

@[simp] theorem stream_setStream (g : Group) (e : Engine) (x : Stream) : (g.setStream e x).stream e = x := by cases e <;> rfl
theorem stream_setStream_ne (g : Group) (e e' : Engine) (x : Stream) (h : e' ≠ e) : (g.setStream e x).stream e' = g.stream e' := by
  cases e <;> cases e' <;> first | rfl | exact absurd rfl h

/-- The stream reads as it was written. -/
@[simp] theorem stm_setStm (d : Dev) (x : Stream) : (d.setStm x).stm = x := by
  unfold stm setStm
  cases h : d.cur.svc <;> simp [h]

@[simp] theorem setStm_zeroReg (d : Dev) (x : Stream) : (d.setStm x).zeroReg = d.zeroReg := by simp [zeroReg]

/-- The stream that `cur` names after a register write: its registers and its hoist-guard entries change, nothing else. -/
theorem stm_setReg (d : Dev) (n : Nat) (r : Reg) (h : (d.zeroReg && n == 0) = false) :
    (d.setReg n r).stm = { d.stm with r := Map.set d.stm.r n r, hoist := d.stm.hoist.filter (·.reg != n) } := by
  simp [setReg, h]

theorem setReg_zero (d : Dev) (n : Nat) (r : Reg) (h : (d.zeroReg && n == 0) = true) : d.setReg n r = d := by simp [setReg, h]

@[simp] theorem reg_zero (d : Dev) (h : d.zeroReg = true) : d.reg 0 = {} := by simp [reg, h]

@[simp] theorem setReg_time (d : Dev) (n : Nat) (r : Reg) : (d.setReg n r).time = d.time := by unfold setReg; split <;> simp
@[simp] theorem setReg_mem (d : Dev) (n : Nat) (r : Reg) : (d.setReg n r).mem = d.mem := by unfold setReg; split <;> simp
@[simp] theorem setReg_poisoned (d : Dev) (n : Nat) (r : Reg) : (d.setReg n r).poisoned = d.poisoned := by unfold setReg; split <;> simp
@[simp] theorem setReg_sptbr (d : Dev) (n : Nat) (r : Reg) : (d.setReg n r).sptbr = d.sptbr := by unfold setReg; split <;> simp
@[simp] theorem setReg_tlba (d : Dev) (n : Nat) (r : Reg) : (d.setReg n r).tlba = d.tlba := by unfold setReg; split <;> simp
@[simp] theorem setReg_tlbl (d : Dev) (n : Nat) (r : Reg) : (d.setReg n r).tlbl = d.tlbl := by unfold setReg; split <;> simp
@[simp] theorem setReg_tlbStatus (d : Dev) (n : Nat) (r : Reg) : (d.setReg n r).tlbStatus = d.tlbStatus := by unfold setReg; split <;> simp
@[simp] theorem setReg_tlbKind (d : Dev) (n : Nat) (r : Reg) : (d.setReg n r).tlbKind = d.tlbKind := by unfold setReg; split <;> simp
@[simp] theorem setReg_tlbAsid (d : Dev) (n : Nat) (r : Reg) : (d.setReg n r).tlbAsid = d.tlbAsid := by unfold setReg; split <;> simp
@[simp] theorem setReg_fccg (d : Dev) (n : Nat) (r : Reg) : (d.setReg n r).fccg = d.fccg := by unfold setReg; split <;> simp
@[simp] theorem setReg_tccg (d : Dev) (n : Nat) (r : Reg) : (d.setReg n r).tccg = d.tccg := by unfold setReg; split <;> simp
@[simp] theorem setReg_barriers (d : Dev) (n : Nat) (r : Reg) : (d.setReg n r).barriers = d.barriers := by unfold setReg; split <;> simp
@[simp] theorem setReg_q250 (d : Dev) (n : Nat) (r : Reg) : (d.setReg n r).q250 = d.q250 := by unfold setReg; split <;> simp
@[simp] theorem setReg_q251 (d : Dev) (n : Nat) (r : Reg) : (d.setReg n r).q251 = d.q251 := by unfold setReg; split <;> simp
@[simp] theorem setReg_queues (d : Dev) (n : Nat) (r : Reg) : (d.setReg n r).queues = d.queues := by unfold setReg; split <;> simp
@[simp] theorem setReg_ctxs (d : Dev) (n : Nat) (r : Reg) : (d.setReg n r).ctxs = d.ctxs := by unfold setReg; split <;> simp
@[simp] theorem setReg_clusters (d : Dev) (n : Nat) (r : Reg) : (d.setReg n r).clusters = d.clusters := by unfold setReg; split <;> simp
@[simp] theorem setReg_sites (d : Dev) (n : Nat) (r : Reg) : (d.setReg n r).sites = d.sites := by unfold setReg; split <;> simp
@[simp] theorem setReg_lcores (d : Dev) (n : Nat) (r : Reg) : (d.setReg n r).lcores = d.lcores := by unfold setReg; split <;> simp
@[simp] theorem setReg_lakeMask (d : Dev) (n : Nat) (r : Reg) : (d.setReg n r).lakeMask = d.lakeMask := by unfold setReg; split <;> simp
@[simp] theorem setReg_nvmeMask (d : Dev) (n : Nat) (r : Reg) : (d.setReg n r).nvmeMask = d.nvmeMask := by unfold setReg; split <;> simp
@[simp] theorem setReg_counters (d : Dev) (n : Nat) (r : Reg) : (d.setReg n r).counters = d.counters := by unfold setReg; split <;> simp
@[simp] theorem setReg_mcounters (d : Dev) (n : Nat) (r : Reg) : (d.setReg n r).mcounters = d.mcounters := by unfold setReg; split <;> simp
@[simp] theorem setReg_clockMark (d : Dev) (n : Nat) (r : Reg) : (d.setReg n r).clockMark = d.clockMark := by unfold setReg; split <;> simp
@[simp] theorem setReg_lifetime (d : Dev) (n : Nat) (r : Reg) : (d.setReg n r).lifetime = d.lifetime := by unfold setReg; split <;> simp
@[simp] theorem setReg_res (d : Dev) (n : Nat) (r : Reg) : (d.setReg n r).res = d.res := by unfold setReg; split <;> simp
@[simp] theorem setReg_samplers (d : Dev) (n : Nat) (r : Reg) : (d.setReg n r).samplers = d.samplers := by unfold setReg; split <;> simp
@[simp] theorem setReg_links (d : Dev) (n : Nat) (r : Reg) : (d.setReg n r).links = d.links := by unfold setReg; split <;> simp
@[simp] theorem setReg_epochDone (d : Dev) (n : Nat) (r : Reg) : (d.setReg n r).epochDone = d.epochDone := by unfold setReg; split <;> simp
@[simp] theorem setReg_cur (d : Dev) (n : Nat) (r : Reg) : (d.setReg n r).cur = d.cur := by unfold setReg; split <;> simp
@[simp] theorem setReg_verdict (d : Dev) (n : Nat) (r : Reg) : (d.setReg n r).verdict = d.verdict := by unfold setReg; split <;> simp
@[simp] theorem setReg_fresh (d : Dev) (n : Nat) (r : Reg) : (d.setReg n r).fresh = d.fresh := by unfold setReg; split <;> simp

@[simp] theorem setCreg_time (d : Dev) (n : Nat) (c : CReg) : (d.setCreg n c).time = d.time := setStm_time _ _
@[simp] theorem setCreg_mem (d : Dev) (n : Nat) (c : CReg) : (d.setCreg n c).mem = d.mem := setStm_mem _ _
@[simp] theorem setCreg_poisoned (d : Dev) (n : Nat) (c : CReg) : (d.setCreg n c).poisoned = d.poisoned := setStm_poisoned _ _
@[simp] theorem setCreg_sptbr (d : Dev) (n : Nat) (c : CReg) : (d.setCreg n c).sptbr = d.sptbr := setStm_sptbr _ _
@[simp] theorem setCreg_tlba (d : Dev) (n : Nat) (c : CReg) : (d.setCreg n c).tlba = d.tlba := setStm_tlba _ _
@[simp] theorem setCreg_tlbl (d : Dev) (n : Nat) (c : CReg) : (d.setCreg n c).tlbl = d.tlbl := setStm_tlbl _ _
@[simp] theorem setCreg_tlbStatus (d : Dev) (n : Nat) (c : CReg) : (d.setCreg n c).tlbStatus = d.tlbStatus := setStm_tlbStatus _ _
@[simp] theorem setCreg_tlbKind (d : Dev) (n : Nat) (c : CReg) : (d.setCreg n c).tlbKind = d.tlbKind := setStm_tlbKind _ _
@[simp] theorem setCreg_tlbAsid (d : Dev) (n : Nat) (c : CReg) : (d.setCreg n c).tlbAsid = d.tlbAsid := setStm_tlbAsid _ _
@[simp] theorem setCreg_fccg (d : Dev) (n : Nat) (c : CReg) : (d.setCreg n c).fccg = d.fccg := setStm_fccg _ _
@[simp] theorem setCreg_tccg (d : Dev) (n : Nat) (c : CReg) : (d.setCreg n c).tccg = d.tccg := setStm_tccg _ _
@[simp] theorem setCreg_barriers (d : Dev) (n : Nat) (c : CReg) : (d.setCreg n c).barriers = d.barriers := setStm_barriers _ _
@[simp] theorem setCreg_q250 (d : Dev) (n : Nat) (c : CReg) : (d.setCreg n c).q250 = d.q250 := setStm_q250 _ _
@[simp] theorem setCreg_q251 (d : Dev) (n : Nat) (c : CReg) : (d.setCreg n c).q251 = d.q251 := setStm_q251 _ _
@[simp] theorem setCreg_queues (d : Dev) (n : Nat) (c : CReg) : (d.setCreg n c).queues = d.queues := setStm_queues _ _
@[simp] theorem setCreg_ctxs (d : Dev) (n : Nat) (c : CReg) : (d.setCreg n c).ctxs = d.ctxs := setStm_ctxs _ _
@[simp] theorem setCreg_clusters (d : Dev) (n : Nat) (c : CReg) : (d.setCreg n c).clusters = d.clusters := setStm_clusters _ _
@[simp] theorem setCreg_sites (d : Dev) (n : Nat) (c : CReg) : (d.setCreg n c).sites = d.sites := setStm_sites _ _
@[simp] theorem setCreg_lcores (d : Dev) (n : Nat) (c : CReg) : (d.setCreg n c).lcores = d.lcores := setStm_lcores _ _
@[simp] theorem setCreg_lakeMask (d : Dev) (n : Nat) (c : CReg) : (d.setCreg n c).lakeMask = d.lakeMask := setStm_lakeMask _ _
@[simp] theorem setCreg_nvmeMask (d : Dev) (n : Nat) (c : CReg) : (d.setCreg n c).nvmeMask = d.nvmeMask := setStm_nvmeMask _ _
@[simp] theorem setCreg_counters (d : Dev) (n : Nat) (c : CReg) : (d.setCreg n c).counters = d.counters := setStm_counters _ _
@[simp] theorem setCreg_mcounters (d : Dev) (n : Nat) (c : CReg) : (d.setCreg n c).mcounters = d.mcounters := setStm_mcounters _ _
@[simp] theorem setCreg_clockMark (d : Dev) (n : Nat) (c : CReg) : (d.setCreg n c).clockMark = d.clockMark := setStm_clockMark _ _
@[simp] theorem setCreg_lifetime (d : Dev) (n : Nat) (c : CReg) : (d.setCreg n c).lifetime = d.lifetime := setStm_lifetime _ _
@[simp] theorem setCreg_res (d : Dev) (n : Nat) (c : CReg) : (d.setCreg n c).res = d.res := setStm_res _ _
@[simp] theorem setCreg_samplers (d : Dev) (n : Nat) (c : CReg) : (d.setCreg n c).samplers = d.samplers := setStm_samplers _ _
@[simp] theorem setCreg_links (d : Dev) (n : Nat) (c : CReg) : (d.setCreg n c).links = d.links := setStm_links _ _
@[simp] theorem setCreg_epochDone (d : Dev) (n : Nat) (c : CReg) : (d.setCreg n c).epochDone = d.epochDone := setStm_epochDone _ _
@[simp] theorem setCreg_cur (d : Dev) (n : Nat) (c : CReg) : (d.setCreg n c).cur = d.cur := setStm_cur _ _
@[simp] theorem setCreg_verdict (d : Dev) (n : Nat) (c : CReg) : (d.setCreg n c).verdict = d.verdict := setStm_verdict _ _
@[simp] theorem setCreg_fresh (d : Dev) (n : Nat) (c : CReg) : (d.setCreg n c).fresh = d.fresh := setStm_fresh _ _

@[simp] theorem setBreg_time (d : Dev) (n : Nat) (v : Word) : (d.setBreg n v).time = d.time := setStm_time _ _
@[simp] theorem setBreg_mem (d : Dev) (n : Nat) (v : Word) : (d.setBreg n v).mem = d.mem := setStm_mem _ _
@[simp] theorem setBreg_poisoned (d : Dev) (n : Nat) (v : Word) : (d.setBreg n v).poisoned = d.poisoned := setStm_poisoned _ _
@[simp] theorem setBreg_sptbr (d : Dev) (n : Nat) (v : Word) : (d.setBreg n v).sptbr = d.sptbr := setStm_sptbr _ _
@[simp] theorem setBreg_tlba (d : Dev) (n : Nat) (v : Word) : (d.setBreg n v).tlba = d.tlba := setStm_tlba _ _
@[simp] theorem setBreg_tlbl (d : Dev) (n : Nat) (v : Word) : (d.setBreg n v).tlbl = d.tlbl := setStm_tlbl _ _
@[simp] theorem setBreg_tlbStatus (d : Dev) (n : Nat) (v : Word) : (d.setBreg n v).tlbStatus = d.tlbStatus := setStm_tlbStatus _ _
@[simp] theorem setBreg_tlbKind (d : Dev) (n : Nat) (v : Word) : (d.setBreg n v).tlbKind = d.tlbKind := setStm_tlbKind _ _
@[simp] theorem setBreg_tlbAsid (d : Dev) (n : Nat) (v : Word) : (d.setBreg n v).tlbAsid = d.tlbAsid := setStm_tlbAsid _ _
@[simp] theorem setBreg_fccg (d : Dev) (n : Nat) (v : Word) : (d.setBreg n v).fccg = d.fccg := setStm_fccg _ _
@[simp] theorem setBreg_tccg (d : Dev) (n : Nat) (v : Word) : (d.setBreg n v).tccg = d.tccg := setStm_tccg _ _
@[simp] theorem setBreg_barriers (d : Dev) (n : Nat) (v : Word) : (d.setBreg n v).barriers = d.barriers := setStm_barriers _ _
@[simp] theorem setBreg_q250 (d : Dev) (n : Nat) (v : Word) : (d.setBreg n v).q250 = d.q250 := setStm_q250 _ _
@[simp] theorem setBreg_q251 (d : Dev) (n : Nat) (v : Word) : (d.setBreg n v).q251 = d.q251 := setStm_q251 _ _
@[simp] theorem setBreg_queues (d : Dev) (n : Nat) (v : Word) : (d.setBreg n v).queues = d.queues := setStm_queues _ _
@[simp] theorem setBreg_ctxs (d : Dev) (n : Nat) (v : Word) : (d.setBreg n v).ctxs = d.ctxs := setStm_ctxs _ _
@[simp] theorem setBreg_clusters (d : Dev) (n : Nat) (v : Word) : (d.setBreg n v).clusters = d.clusters := setStm_clusters _ _
@[simp] theorem setBreg_sites (d : Dev) (n : Nat) (v : Word) : (d.setBreg n v).sites = d.sites := setStm_sites _ _
@[simp] theorem setBreg_lcores (d : Dev) (n : Nat) (v : Word) : (d.setBreg n v).lcores = d.lcores := setStm_lcores _ _
@[simp] theorem setBreg_lakeMask (d : Dev) (n : Nat) (v : Word) : (d.setBreg n v).lakeMask = d.lakeMask := setStm_lakeMask _ _
@[simp] theorem setBreg_nvmeMask (d : Dev) (n : Nat) (v : Word) : (d.setBreg n v).nvmeMask = d.nvmeMask := setStm_nvmeMask _ _
@[simp] theorem setBreg_counters (d : Dev) (n : Nat) (v : Word) : (d.setBreg n v).counters = d.counters := setStm_counters _ _
@[simp] theorem setBreg_mcounters (d : Dev) (n : Nat) (v : Word) : (d.setBreg n v).mcounters = d.mcounters := setStm_mcounters _ _
@[simp] theorem setBreg_clockMark (d : Dev) (n : Nat) (v : Word) : (d.setBreg n v).clockMark = d.clockMark := setStm_clockMark _ _
@[simp] theorem setBreg_lifetime (d : Dev) (n : Nat) (v : Word) : (d.setBreg n v).lifetime = d.lifetime := setStm_lifetime _ _
@[simp] theorem setBreg_res (d : Dev) (n : Nat) (v : Word) : (d.setBreg n v).res = d.res := setStm_res _ _
@[simp] theorem setBreg_samplers (d : Dev) (n : Nat) (v : Word) : (d.setBreg n v).samplers = d.samplers := setStm_samplers _ _
@[simp] theorem setBreg_links (d : Dev) (n : Nat) (v : Word) : (d.setBreg n v).links = d.links := setStm_links _ _
@[simp] theorem setBreg_epochDone (d : Dev) (n : Nat) (v : Word) : (d.setBreg n v).epochDone = d.epochDone := setStm_epochDone _ _
@[simp] theorem setBreg_cur (d : Dev) (n : Nat) (v : Word) : (d.setBreg n v).cur = d.cur := setStm_cur _ _
@[simp] theorem setBreg_verdict (d : Dev) (n : Nat) (v : Word) : (d.setBreg n v).verdict = d.verdict := setStm_verdict _ _
@[simp] theorem setBreg_fresh (d : Dev) (n : Nat) (v : Word) : (d.setBreg n v).fresh = d.fresh := setStm_fresh _ _

@[simp] theorem setKreg_time (d : Dev) (n : Nat) (k : KReg) : (d.setKreg n k).time = d.time := setStm_time _ _
@[simp] theorem setKreg_mem (d : Dev) (n : Nat) (k : KReg) : (d.setKreg n k).mem = d.mem := setStm_mem _ _
@[simp] theorem setKreg_poisoned (d : Dev) (n : Nat) (k : KReg) : (d.setKreg n k).poisoned = d.poisoned := setStm_poisoned _ _
@[simp] theorem setKreg_sptbr (d : Dev) (n : Nat) (k : KReg) : (d.setKreg n k).sptbr = d.sptbr := setStm_sptbr _ _
@[simp] theorem setKreg_tlba (d : Dev) (n : Nat) (k : KReg) : (d.setKreg n k).tlba = d.tlba := setStm_tlba _ _
@[simp] theorem setKreg_tlbl (d : Dev) (n : Nat) (k : KReg) : (d.setKreg n k).tlbl = d.tlbl := setStm_tlbl _ _
@[simp] theorem setKreg_tlbStatus (d : Dev) (n : Nat) (k : KReg) : (d.setKreg n k).tlbStatus = d.tlbStatus := setStm_tlbStatus _ _
@[simp] theorem setKreg_tlbKind (d : Dev) (n : Nat) (k : KReg) : (d.setKreg n k).tlbKind = d.tlbKind := setStm_tlbKind _ _
@[simp] theorem setKreg_tlbAsid (d : Dev) (n : Nat) (k : KReg) : (d.setKreg n k).tlbAsid = d.tlbAsid := setStm_tlbAsid _ _
@[simp] theorem setKreg_fccg (d : Dev) (n : Nat) (k : KReg) : (d.setKreg n k).fccg = d.fccg := setStm_fccg _ _
@[simp] theorem setKreg_tccg (d : Dev) (n : Nat) (k : KReg) : (d.setKreg n k).tccg = d.tccg := setStm_tccg _ _
@[simp] theorem setKreg_barriers (d : Dev) (n : Nat) (k : KReg) : (d.setKreg n k).barriers = d.barriers := setStm_barriers _ _
@[simp] theorem setKreg_q250 (d : Dev) (n : Nat) (k : KReg) : (d.setKreg n k).q250 = d.q250 := setStm_q250 _ _
@[simp] theorem setKreg_q251 (d : Dev) (n : Nat) (k : KReg) : (d.setKreg n k).q251 = d.q251 := setStm_q251 _ _
@[simp] theorem setKreg_queues (d : Dev) (n : Nat) (k : KReg) : (d.setKreg n k).queues = d.queues := setStm_queues _ _
@[simp] theorem setKreg_ctxs (d : Dev) (n : Nat) (k : KReg) : (d.setKreg n k).ctxs = d.ctxs := setStm_ctxs _ _
@[simp] theorem setKreg_clusters (d : Dev) (n : Nat) (k : KReg) : (d.setKreg n k).clusters = d.clusters := setStm_clusters _ _
@[simp] theorem setKreg_sites (d : Dev) (n : Nat) (k : KReg) : (d.setKreg n k).sites = d.sites := setStm_sites _ _
@[simp] theorem setKreg_lcores (d : Dev) (n : Nat) (k : KReg) : (d.setKreg n k).lcores = d.lcores := setStm_lcores _ _
@[simp] theorem setKreg_lakeMask (d : Dev) (n : Nat) (k : KReg) : (d.setKreg n k).lakeMask = d.lakeMask := setStm_lakeMask _ _
@[simp] theorem setKreg_nvmeMask (d : Dev) (n : Nat) (k : KReg) : (d.setKreg n k).nvmeMask = d.nvmeMask := setStm_nvmeMask _ _
@[simp] theorem setKreg_counters (d : Dev) (n : Nat) (k : KReg) : (d.setKreg n k).counters = d.counters := setStm_counters _ _
@[simp] theorem setKreg_mcounters (d : Dev) (n : Nat) (k : KReg) : (d.setKreg n k).mcounters = d.mcounters := setStm_mcounters _ _
@[simp] theorem setKreg_clockMark (d : Dev) (n : Nat) (k : KReg) : (d.setKreg n k).clockMark = d.clockMark := setStm_clockMark _ _
@[simp] theorem setKreg_lifetime (d : Dev) (n : Nat) (k : KReg) : (d.setKreg n k).lifetime = d.lifetime := setStm_lifetime _ _
@[simp] theorem setKreg_res (d : Dev) (n : Nat) (k : KReg) : (d.setKreg n k).res = d.res := setStm_res _ _
@[simp] theorem setKreg_samplers (d : Dev) (n : Nat) (k : KReg) : (d.setKreg n k).samplers = d.samplers := setStm_samplers _ _
@[simp] theorem setKreg_links (d : Dev) (n : Nat) (k : KReg) : (d.setKreg n k).links = d.links := setStm_links _ _
@[simp] theorem setKreg_epochDone (d : Dev) (n : Nat) (k : KReg) : (d.setKreg n k).epochDone = d.epochDone := setStm_epochDone _ _
@[simp] theorem setKreg_cur (d : Dev) (n : Nat) (k : KReg) : (d.setKreg n k).cur = d.cur := setStm_cur _ _
@[simp] theorem setKreg_verdict (d : Dev) (n : Nat) (k : KReg) : (d.setKreg n k).verdict = d.verdict := setStm_verdict _ _
@[simp] theorem setKreg_fresh (d : Dev) (n : Nat) (k : KReg) : (d.setKreg n k).fresh = d.fresh := setStm_fresh _ _

@[simp] theorem setReg_zeroReg (d : Dev) (n : Nat) (r : Reg) : (d.setReg n r).zeroReg = d.zeroReg := by simp [zeroReg]

/-- A register reads as it was written, but for s0. -/
theorem reg_setReg_same (d : Dev) (n : Nat) (r : Reg) (h : (d.zeroReg && n == 0) = false) : (d.setReg n r).reg n = r := by
  unfold reg
  rw [setReg_zeroReg, h, stm_setReg d n r h]
  simp

/-- Another register is as it was. -/
theorem reg_setReg_ne (d : Dev) (n k : Nat) (r : Reg) (h : k ≠ n) : (d.setReg n r).reg k = d.reg k := by
  cases hz : (d.zeroReg && n == 0)
  · unfold reg
    rw [setReg_zeroReg, stm_setReg d n r hz]
    simp [Map.get_set_ne _ _ _ _ _ h]
  · rw [setReg_zero d n r hz]

@[simp] theorem creg_setReg (d : Dev) (n k : Nat) (r : Reg) : (d.setReg n r).creg k = d.creg k := by
  unfold creg setReg; split <;> simp
@[simp] theorem breg_setReg (d : Dev) (n k : Nat) (r : Reg) : (d.setReg n r).breg k = d.breg k := by
  unfold breg setReg; split <;> simp
@[simp] theorem kreg_setReg (d : Dev) (n k : Nat) (r : Reg) : (d.setReg n r).kreg k = d.kreg k := by
  unfold kreg setReg; split <;> simp
@[simp] theorem op_setReg (d : Dev) (n : Nat) (r : Reg) : (d.setReg n r).stm.op = d.stm.op := by
  unfold setReg; split <;> simp
@[simp] theorem op_setCreg (d : Dev) (n : Nat) (c : CReg) : (d.setCreg n c).stm.op = d.stm.op := by simp [setCreg]
@[simp] theorem op_setBreg (d : Dev) (n : Nat) (v : Word) : (d.setBreg n v).stm.op = d.stm.op := by simp [setBreg]
@[simp] theorem op_setKreg (d : Dev) (n : Nat) (k : KReg) : (d.setKreg n k).stm.op = d.stm.op := by simp [setKreg]

@[simp] theorem creg_setCreg (d : Dev) (n : Nat) (c : CReg) : (d.setCreg n c).creg n = c := by simp [creg, setCreg]
theorem creg_setCreg_ne (d : Dev) (n k : Nat) (c : CReg) (h : k ≠ n) : (d.setCreg n c).creg k = d.creg k := by
  simp [creg, setCreg, Map.get_set_ne _ _ _ _ _ h]
@[simp] theorem reg_setCreg (d : Dev) (n k : Nat) (c : CReg) : (d.setCreg n c).reg k = d.reg k := by
  simp [reg, setCreg]
@[simp] theorem breg_setBreg (d : Dev) (n : Nat) (v : Word) : (d.setBreg n v).breg n = v := by simp [breg, setBreg]
theorem breg_setBreg_ne (d : Dev) (n k : Nat) (v : Word) (h : k ≠ n) : (d.setBreg n v).breg k = d.breg k := by
  simp [breg, setBreg, Map.get_set_ne _ _ _ _ _ h]
@[simp] theorem reg_setBreg (d : Dev) (n k : Nat) (v : Word) : (d.setBreg n v).reg k = d.reg k := by simp [reg, setBreg]
@[simp] theorem kreg_setKreg (d : Dev) (n : Nat) (x : KReg) : (d.setKreg n x).kreg n = x := by simp [kreg, setKreg]
theorem kreg_setKreg_ne (d : Dev) (n k : Nat) (x : KReg) (h : k ≠ n) : (d.setKreg n x).kreg k = d.kreg k := by
  simp [kreg, setKreg, Map.get_set_ne _ _ _ _ _ h]
@[simp] theorem reg_setKreg (d : Dev) (n k : Nat) (x : KReg) : (d.setKreg n x).reg k = d.reg k := by simp [reg, setKreg]

/-! ### Sticky flags -/

@[simp] theorem raiseS_cur (d : Dev) (fl : Nat) : (d.raiseS fl).cur = d.cur := by unfold raiseS; split <;> rfl
@[simp] theorem raiseS_mem (d : Dev) (fl : Nat) : (d.raiseS fl).mem = d.mem := by unfold raiseS; split <;> rfl
@[simp] theorem raiseS_poisoned (d : Dev) (fl : Nat) : (d.raiseS fl).poisoned = d.poisoned := by unfold raiseS; split <;> rfl
@[simp] theorem raiseS_queues (d : Dev) (fl : Nat) : (d.raiseS fl).queues = d.queues := by unfold raiseS; split <;> rfl
theorem stm_setGrp (d : Dev) (g : Group) (h : d.cur.svc = false) : (d.setGrp g).stm = g.stream d.cur.eng := by simp [stm, h]
theorem stm_group (d : Dev) (h : d.cur.svc = false) : d.stm = d.grp.stream d.cur.eng := by simp [stm, h]
theorem stm_core (d : Dev) (h : d.cur.svc = true) : d.stm = (d.core d.cur.core).svc := by simp [stm, h]
/-- A change of the group that leaves the stream of `cur` leaves the stream that is read. -/
theorem stm_setGrp_same (d : Dev) (g : Group) (hs : d.cur.svc = false) (h : g.stream d.cur.eng = d.grp.stream d.cur.eng) :
    (d.setGrp g).stm = d.stm := by rw [stm_setGrp d g hs, h, stm_group d hs]
@[simp] theorem noteFlags_rows (g : Group) (now f s : Nat) : (noteFlags g now f s).rows = g.rows := by
  unfold noteFlags; split <;> rfl
@[simp] theorem noteFlags_rowsN (g : Group) (now f s : Nat) : (noteFlags g now f s).rowsN = g.rowsN := by
  unfold noteFlags; split <;> rfl
@[simp] theorem noteFlags_fflags (g : Group) (now f s : Nat) : (noteFlags g now f s).fflags = g.fflags := by
  unfold noteFlags; split <;> rfl
@[simp] theorem noteFlags_stream (g : Group) (now f s : Nat) (e : Engine) : (noteFlags g now f s).stream e = g.stream e := by
  unfold noteFlags; split <;> cases e <;> rfl
@[simp] theorem raiseS_stm (d : Dev) (fl : Nat) : (d.raiseS fl).stm = d.stm := by
  unfold raiseS
  split
  · next h => rw [stm_core _ (by simpa using h), stm_core d h]; simp
  · next h => exact stm_setGrp_same d _ (by simpa using h) (by rw [noteFlags_stream]; cases d.cur.eng <;> rfl)
@[simp] theorem raiseF_cur (d : Dev) (b fl : Nat) : (d.raiseF b fl).cur = d.cur := rfl
@[simp] theorem raiseF_mem (d : Dev) (b fl : Nat) : (d.raiseF b fl).mem = d.mem := rfl
@[simp] theorem raiseF_queues (d : Dev) (b fl : Nat) : (d.raiseF b fl).queues = d.queues := rfl

end Dev
end Sys2Proof.Machine
end

