-- ==== Sys2Proof/Laws/Issue.lean ====
section
/-!
SUPPORT. What the shared operations of an issue can do, said once: the answer of a stream instruction by what its body gives,
what tokens leave of the state, and that nothing of a stream touches the module.
-/

namespace Sys2Proof.Machine

/-- A stream instruction whose body has an effect answers the state after it. -/
theorem stream_ok {h : Hdr} {body : Dev → Res Dev} {s : State} {d : Dev} (hl : s.dev.lets h) (hb : body s.dev = .ok d) :
    stream h body s = .next (s.after h d) := by
  obtain ⟨h1, h2⟩ := hl
  simp only [stream, Dev.issue, h1, h2, hb, State.after, conclude]
  rfl

theorem streamM_ok {h : Hdr} {body : Mod → Dev → Res Dev} {s : State} {d : Dev} (hl : s.dev.lets h)
    (hb : body s.mod s.dev = .ok d) : streamM h body s = .next (s.after h d) := by
  obtain ⟨h1, h2⟩ := hl
  simp only [streamM, Dev.issue, h1, h2, hb, State.after, conclude]
  rfl

theorem streamP_ok {h : Hdr} {body : Dev → Dev × Option Stop} {s : State} {d : Dev} (hl : s.dev.lets h)
    (hb : body s.dev = (d, none)) : streamP h body s = .next (s.after h d) := by
  obtain ⟨h1, h2⟩ := hl
  simp only [streamP, h1, h2, hb, State.after]
  rfl

/-- A stream instruction whose body raises a fault answers the state with the fault taken. -/
theorem stream_trap {h : Hdr} {body : Dev → Res Dev} {s : State} {t : Trap} (hl : s.dev.lets h)
    (hb : body s.dev = .error (.trap t)) : stream h body s = .next (s.faulted t) := by
  obtain ⟨h1, h2⟩ := hl
  simp only [stream, Dev.issue, h1, h2, hb, State.faulted, conclude]
  rfl

theorem streamM_trap {h : Hdr} {body : Mod → Dev → Res Dev} {s : State} {t : Trap} (hl : s.dev.lets h)
    (hb : body s.mod s.dev = .error (.trap t)) : streamM h body s = .next (s.faulted t) := by
  obtain ⟨h1, h2⟩ := hl
  simp only [streamM, Dev.issue, h1, h2, hb, State.faulted, conclude]
  rfl

/-- A stream instruction whose body waits answers the state with the stream waiting. -/
theorem stream_wait {h : Hdr} {body : Dev → Res Dev} {s : State} {w : Wait} (hl : s.dev.lets h)
    (hb : body s.dev = .error (.wait w)) : stream h body s = .next (s.held w) := by
  obtain ⟨h1, h2⟩ := hl
  simp only [stream, Dev.issue, h1, h2, hb, State.held, conclude]
  rfl

/-- A suppressed instruction does nothing (R27). -/
theorem stream_suppressed {h : Hdr} {body : Dev → Res Dev} {s : State} (hs : s.dev.suppressed h = true) :
    stream h body s = .next { s with dev := { s.dev with verdict := .done } } := by
  simp [stream, Dev.issue, hs, conclude]

/-- What a stream instruction can answer: always a next state, in which the device alone is another. -/
theorem conclude_dev (s : State) (r : Res Dev) : ∃ d, conclude s r = .next { s with dev := d } := by
  rcases r with (_ | _) | _ <;> exact ⟨_, rfl⟩

theorem streamP_dev (h : Hdr) (body : Dev → Dev × Option Stop) (s : State) : ∃ d, streamP h body s = .next { s with dev := d } := by
  simp only [streamP]
  cases s.dev.suppressed h
  · rcases s.dev.tokensReady h with (_ | _) | _
    · exact ⟨_, rfl⟩
    · exact ⟨_, rfl⟩
    · obtain ⟨d, _ | _ | _⟩ := body s.dev <;> exact ⟨_, rfl⟩
  · exact ⟨_, rfl⟩

/-- What only changes the device leaves the module and the schedule. -/
theorem next_dev {o : Host.Outcome State Fault Refusal} {s : State} (h : ∃ d, o = .next { s with dev := d }) :
    ∃ t, o = .next t ∧ t.mod = s.mod ∧ t.agenda = s.agenda :=
  h.elim fun _ hd => ⟨_, hd, ⟨rfl, rfl⟩⟩

theorem stream_next (h : Hdr) (body : Dev → Res Dev) (s : State) :
    ∃ t, stream h body s = .next t ∧ t.mod = s.mod ∧ t.agenda = s.agenda := next_dev (conclude_dev _ _)

theorem streamM_next (h : Hdr) (body : Mod → Dev → Res Dev) (s : State) :
    ∃ t, streamM h body s = .next t ∧ t.mod = s.mod ∧ t.agenda = s.agenda := next_dev (conclude_dev _ _)

theorem streamP_next (h : Hdr) (body : Dev → Dev × Option Stop) (s : State) :
    ∃ t, streamP h body s = .next t ∧ t.mod = s.mod ∧ t.agenda = s.agenda := next_dev (streamP_dev h body s)

theorem event_next (f : Dev → Dev) (s : State) : ∃ t, event f s = .next t ∧ t.mod = s.mod ∧ t.agenda = s.agenda :=
  next_dev ⟨_, rfl⟩

namespace Dev

/-- Tokens touch nothing of the device but its groups and its logical clocks. -/
theorem takeTokens_shape (d : Dev) (cm : Nat) : ∃ g c, d.takeTokens cm = { d with groups := g, clocks := c } := by
  by_cases hc : cm = 0 <;> simp only [takeTokens, hc, ↓reduceIte] <;> exact ⟨_, _, rfl⟩

theorem settle_shape (d : Dev) (h : Hdr) (l : Bool) : ∃ g c, d.settle h l = { d with groups := g, clocks := c } := by
  obtain ⟨_, _, ht⟩ := takeTokens_shape d h.cm
  by_cases hp : h.pt = 0 <;> cases l <;> simp only [settle, reserveToken, pushToken, hp, ht, ↓reduceIte] <;> split <;> exact ⟨_, _, rfl⟩

@[simp] theorem settle_time (d : Dev) (h : Hdr) (l : Bool) : (d.settle h l).time = d.time := by
  obtain ⟨_, _, e⟩ := settle_shape d h l; rw [e]
@[simp] theorem settle_mem (d : Dev) (h : Hdr) (l : Bool) : (d.settle h l).mem = d.mem := by
  obtain ⟨_, _, e⟩ := settle_shape d h l; rw [e]
@[simp] theorem settle_poisoned (d : Dev) (h : Hdr) (l : Bool) : (d.settle h l).poisoned = d.poisoned := by
  obtain ⟨_, _, e⟩ := settle_shape d h l; rw [e]
@[simp] theorem settle_sptbr (d : Dev) (h : Hdr) (l : Bool) : (d.settle h l).sptbr = d.sptbr := by
  obtain ⟨_, _, e⟩ := settle_shape d h l; rw [e]
@[simp] theorem settle_tlba (d : Dev) (h : Hdr) (l : Bool) : (d.settle h l).tlba = d.tlba := by
  obtain ⟨_, _, e⟩ := settle_shape d h l; rw [e]
@[simp] theorem settle_tlbl (d : Dev) (h : Hdr) (l : Bool) : (d.settle h l).tlbl = d.tlbl := by
  obtain ⟨_, _, e⟩ := settle_shape d h l; rw [e]
@[simp] theorem settle_tlbBusy (d : Dev) (h : Hdr) (l : Bool) : (d.settle h l).tlbBusy = d.tlbBusy := by
  obtain ⟨_, _, e⟩ := settle_shape d h l; rw [e]
@[simp] theorem settle_tlbStatus (d : Dev) (h : Hdr) (l : Bool) : (d.settle h l).tlbStatus = d.tlbStatus := by
  obtain ⟨_, _, e⟩ := settle_shape d h l; rw [e]
@[simp] theorem settle_tlbKind (d : Dev) (h : Hdr) (l : Bool) : (d.settle h l).tlbKind = d.tlbKind := by
  obtain ⟨_, _, e⟩ := settle_shape d h l; rw [e]
@[simp] theorem settle_tlbAsid (d : Dev) (h : Hdr) (l : Bool) : (d.settle h l).tlbAsid = d.tlbAsid := by
  obtain ⟨_, _, e⟩ := settle_shape d h l; rw [e]
@[simp] theorem settle_fccg (d : Dev) (h : Hdr) (l : Bool) : (d.settle h l).fccg = d.fccg := by
  obtain ⟨_, _, e⟩ := settle_shape d h l; rw [e]
@[simp] theorem settle_tccg (d : Dev) (h : Hdr) (l : Bool) : (d.settle h l).tccg = d.tccg := by
  obtain ⟨_, _, e⟩ := settle_shape d h l; rw [e]
@[simp] theorem settle_barriers (d : Dev) (h : Hdr) (l : Bool) : (d.settle h l).barriers = d.barriers := by
  obtain ⟨_, _, e⟩ := settle_shape d h l; rw [e]
@[simp] theorem settle_q250 (d : Dev) (h : Hdr) (l : Bool) : (d.settle h l).q250 = d.q250 := by
  obtain ⟨_, _, e⟩ := settle_shape d h l; rw [e]
@[simp] theorem settle_q251 (d : Dev) (h : Hdr) (l : Bool) : (d.settle h l).q251 = d.q251 := by
  obtain ⟨_, _, e⟩ := settle_shape d h l; rw [e]
@[simp] theorem settle_queues (d : Dev) (h : Hdr) (l : Bool) : (d.settle h l).queues = d.queues := by
  obtain ⟨_, _, e⟩ := settle_shape d h l; rw [e]
@[simp] theorem settle_ctxs (d : Dev) (h : Hdr) (l : Bool) : (d.settle h l).ctxs = d.ctxs := by
  obtain ⟨_, _, e⟩ := settle_shape d h l; rw [e]
@[simp] theorem settle_cores (d : Dev) (h : Hdr) (l : Bool) : (d.settle h l).cores = d.cores := by
  obtain ⟨_, _, e⟩ := settle_shape d h l; rw [e]
@[simp] theorem settle_clusters (d : Dev) (h : Hdr) (l : Bool) : (d.settle h l).clusters = d.clusters := by
  obtain ⟨_, _, e⟩ := settle_shape d h l; rw [e]
@[simp] theorem settle_sites (d : Dev) (h : Hdr) (l : Bool) : (d.settle h l).sites = d.sites := by
  obtain ⟨_, _, e⟩ := settle_shape d h l; rw [e]
@[simp] theorem settle_lcores (d : Dev) (h : Hdr) (l : Bool) : (d.settle h l).lcores = d.lcores := by
  obtain ⟨_, _, e⟩ := settle_shape d h l; rw [e]
@[simp] theorem settle_lakeMask (d : Dev) (h : Hdr) (l : Bool) : (d.settle h l).lakeMask = d.lakeMask := by
  obtain ⟨_, _, e⟩ := settle_shape d h l; rw [e]
@[simp] theorem settle_nvmeMask (d : Dev) (h : Hdr) (l : Bool) : (d.settle h l).nvmeMask = d.nvmeMask := by
  obtain ⟨_, _, e⟩ := settle_shape d h l; rw [e]
@[simp] theorem settle_counters (d : Dev) (h : Hdr) (l : Bool) : (d.settle h l).counters = d.counters := by
  obtain ⟨_, _, e⟩ := settle_shape d h l; rw [e]
@[simp] theorem settle_mcounters (d : Dev) (h : Hdr) (l : Bool) : (d.settle h l).mcounters = d.mcounters := by
  obtain ⟨_, _, e⟩ := settle_shape d h l; rw [e]
@[simp] theorem settle_clockMark (d : Dev) (h : Hdr) (l : Bool) : (d.settle h l).clockMark = d.clockMark := by
  obtain ⟨_, _, e⟩ := settle_shape d h l; rw [e]
@[simp] theorem settle_lifetime (d : Dev) (h : Hdr) (l : Bool) : (d.settle h l).lifetime = d.lifetime := by
  obtain ⟨_, _, e⟩ := settle_shape d h l; rw [e]
@[simp] theorem settle_res (d : Dev) (h : Hdr) (l : Bool) : (d.settle h l).res = d.res := by
  obtain ⟨_, _, e⟩ := settle_shape d h l; rw [e]
@[simp] theorem settle_samplers (d : Dev) (h : Hdr) (l : Bool) : (d.settle h l).samplers = d.samplers := by
  obtain ⟨_, _, e⟩ := settle_shape d h l; rw [e]
@[simp] theorem settle_links (d : Dev) (h : Hdr) (l : Bool) : (d.settle h l).links = d.links := by
  obtain ⟨_, _, e⟩ := settle_shape d h l; rw [e]
@[simp] theorem settle_epochDone (d : Dev) (h : Hdr) (l : Bool) : (d.settle h l).epochDone = d.epochDone := by
  obtain ⟨_, _, e⟩ := settle_shape d h l; rw [e]
@[simp] theorem settle_records (d : Dev) (h : Hdr) (l : Bool) : (d.settle h l).records = d.records := by
  obtain ⟨_, _, e⟩ := settle_shape d h l; rw [e]
@[simp] theorem settle_uses (d : Dev) (h : Hdr) (l : Bool) : (d.settle h l).uses = d.uses := by
  obtain ⟨_, _, e⟩ := settle_shape d h l; rw [e]
@[simp] theorem settle_leases (d : Dev) (h : Hdr) (l : Bool) : (d.settle h l).leases = d.leases := by
  obtain ⟨_, _, e⟩ := settle_shape d h l; rw [e]
@[simp] theorem settle_retiring (d : Dev) (h : Hdr) (l : Bool) : (d.settle h l).retiring = d.retiring := by
  obtain ⟨_, _, e⟩ := settle_shape d h l; rw [e]
@[simp] theorem settle_waits (d : Dev) (h : Hdr) (l : Bool) : (d.settle h l).waits = d.waits := by
  obtain ⟨_, _, e⟩ := settle_shape d h l; rw [e]
@[simp] theorem settle_winners (d : Dev) (h : Hdr) (l : Bool) : (d.settle h l).winners = d.winners := by
  obtain ⟨_, _, e⟩ := settle_shape d h l; rw [e]
@[simp] theorem settle_use (d : Dev) (h : Hdr) (l : Bool) : (d.settle h l).use = d.use := by
  obtain ⟨_, _, e⟩ := settle_shape d h l; rw [e]
@[simp] theorem settle_cur (d : Dev) (h : Hdr) (l : Bool) : (d.settle h l).cur = d.cur := by
  obtain ⟨_, _, e⟩ := settle_shape d h l; rw [e]
@[simp] theorem settle_verdict (d : Dev) (h : Hdr) (l : Bool) : (d.settle h l).verdict = d.verdict := by
  obtain ⟨_, _, e⟩ := settle_shape d h l; rw [e]
@[simp] theorem settle_fresh (d : Dev) (h : Hdr) (l : Bool) : (d.settle h l).fresh = d.fresh := by
  obtain ⟨_, _, e⟩ := settle_shape d h l; rw [e]

/-- The group after its tokens have moved: only its FIFOs and what it notes of the cycle have changed. -/
theorem takeTokens_grp (d : Dev) (cm : Nat) : ∃ t c, (d.takeTokens cm).grp = { d.grp with tokens := t, cyc := c } := by
  unfold takeTokens; split
  · exact ⟨_, _, rfl⟩
  · exact ⟨_, _, grp_setGrp _ _⟩

theorem settle_grp (d : Dev) (h : Hdr) (l : Bool) :
    ∃ t r c, (d.settle h l).grp = { d.grp with tokens := t, tokenRes := r, cyc := c } := by
  unfold settle
  split
  · exact ⟨_, _, _, rfl⟩
  · obtain ⟨t, c, ht⟩ := takeTokens_grp d h.cm
    split
    · unfold reserveToken; split
      · exact ⟨t, d.grp.tokenRes, c, ht⟩
      · exact ⟨t, _, c, by rw [grp_setGrp, ht]⟩
    · unfold pushToken; split
      · exact ⟨t, d.grp.tokenRes, c, ht⟩
      · exact ⟨_, d.grp.tokenRes, _, by rw [grp_setGrp, ht]; rfl⟩

/-- Other groups keep their state when tokens of this one move. -/
theorem setGrp_group_ne (d : Dev) (g : Group) (k : Nat) (hk : k ≠ d.cur.key) : (d.setGrp g).group k = d.group k :=
  group_setGroup_ne d _ k g hk

theorem settle_group_ne (d : Dev) (h : Hdr) (l : Bool) (k : Nat) (hk : k ≠ d.cur.key) : (d.settle h l).group k = d.group k := by
  obtain ⟨_, _, ht⟩ := takeTokens_shape d h.cm
  have hcur : k ≠ (d.takeTokens h.cm).cur.key := by rw [ht]; exact hk
  have taken : (d.takeTokens h.cm).group k = d.group k := by
    by_cases hc : h.cm = 0
    · rw [takeTokens, if_pos hc]
    · rw [takeTokens, if_neg hc]; exact setGrp_group_ne d.advance _ k hk
  rw [settle]
  by_cases hs : (d.cur.svc || (h.cm = 0 && h.pt = 0) || (Map.find d.groups d.cur.key).isNone) = true
  · rw [if_pos hs]
  · rw [if_neg hs]
    by_cases hp : h.pt = 0 <;> cases l <;> simp [hp, reserveToken, pushToken, taken, setGrp_group_ne _ _ k hcur]

/-- Registers and the rest of the stream are as they were. -/
@[simp] theorem settle_stm (d : Dev) (h : Hdr) (l : Bool) : (d.settle h l).stm = d.stm := by
  cases hs : d.cur.svc
  · obtain ⟨t, r, c, hg⟩ := settle_grp d h l
    rw [stm_group _ (by simpa using hs), stm_group d hs, hg]
    simp only [settle_cur]
    cases d.cur.eng <;> rfl
  · have : d.settle h l = d := by simp [settle, hs]
    rw [this]

@[simp] theorem settle_reg (d : Dev) (h : Hdr) (l : Bool) (n : Nat) : (d.settle h l).reg n = d.reg n := by simp [reg, zeroReg]
@[simp] theorem settle_creg (d : Dev) (h : Hdr) (l : Bool) (n : Nat) : (d.settle h l).creg n = d.creg n := by simp [creg]
@[simp] theorem settle_breg (d : Dev) (h : Hdr) (l : Bool) (n : Nat) : (d.settle h l).breg n = d.breg n := by simp [breg]
@[simp] theorem settle_kreg (d : Dev) (h : Hdr) (l : Bool) (n : Nat) : (d.settle h l).kreg n = d.kreg n := by simp [kreg]
@[simp] theorem settle_row (d : Dev) (h : Hdr) (l : Bool) (n : Nat) : (d.settle h l).row n = d.row n := by
  obtain ⟨t, r, c, hg⟩ := settle_grp d h l
  simp [row, hg]

/-- Without tokens in the header the state is the effect itself. -/
theorem settle_plain (d : Dev) (h : Hdr) (l : Bool) (h1 : h.cm = 0) (h2 : h.pt = 0) : d.settle h l = d := by simp [settle, h1, h2]

end Dev
end Sys2Proof.Machine
end

