-- ==== Sys2Proof/Laws/Memory.lean ====
section
/-!
SUPPORT. Laws of the device's memory operations: each keeps the canonical form and leaves every byte outside the range it
writes.
-/

namespace Sys2Proof.Machine

/-- Byte writes one after another keep the canonical form, whatever decides which of them are made. -/
theorem Memory.wf_foldl {β : Type} {f : Memory → β → Memory} (hf : ∀ m x, Memory.wf m → Memory.wf (f m x)) {m : Memory}
    (h : Memory.wf m) (xs : List β) : Memory.wf (xs.foldl f m) :=
  List.foldlRecOn xs f h fun m hm x _ => hf m x hm

/-- A part of a memory is in its canonical form. -/
theorem Memory.wf_filter {m : Memory} (h : Memory.wf m) (p : Nat × Byte → Bool) : Memory.wf (m.filter p) :=
  ⟨h.1.filter _, fun c hc => h.2 c (List.mem_filter.1 hc).1⟩

theorem Memory.wf_paste {m : Memory} (h : Memory.wf m) (a n : Nat) (x : Memory) : Memory.wf (m.paste a n x) :=
  Memory.wf_foldl (fun m c hm => Memory.wf_put m _ c.2 hm) (Memory.wf_filter h _) _

/-- So is a range by its offsets. -/
theorem Memory.wf_slice {m : Memory} (h : Memory.wf m) (a n : Nat) : Memory.wf (m.slice a n) := by
  have kept := Memory.wf_filter h (fun c => a ≤ c.1 && c.1 < a + n)
  refine ⟨List.pairwise_map.2 (kept.1.imp_of_mem fun hc _ hlt => ?_), List.forall_mem_map.2 kept.2⟩
  have hb := (List.mem_filter.1 hc).2
  rw [Bool.and_eq_true, decide_eq_true_eq] at hb
  exact Nat.sub_lt_sub_right hb.1 hlt

namespace Dev

theorem wf_putBytes (d : Dev) (a : Nat) (bs : List Byte) (h : Memory.wf d.mem) : Memory.wf (d.putBytes a bs) := by
  unfold putBytes
  split
  · exact Memory.wf_writeBytes bs _ a h
  · refine Memory.wf_foldl (fun m e hm => ?_) h _
    by_cases hl : d.lostLine (lineOf (a + e.1)) = true
    · rwa [if_pos hl]
    · rw [if_neg hl]; exact Memory.wf_put m _ _ hm

theorem wf_storeBytes (d : Dev) (a : Nat) (bs : List Byte) (p : Bool) (h : Memory.wf d.mem) :
    Memory.wf (d.storeBytes a bs p).mem := by
  unfold storeBytes
  dsimp only
  split
  · exact h
  · exact wf_putBytes d a bs h

/-- Writing an area of an image keeps the form. -/
theorem wf_storeArea (d : Dev) (a n : Nat) (x : Memory) (h : Memory.wf d.mem) : Memory.wf (d.storeArea a n x).mem := by
  unfold storeArea
  dsimp only
  split
  · exact h
  · split
    · exact wf_storeBytes d a _ false h
    · exact Memory.wf_paste h a n x

theorem wf_store (d : Dev) (a n v : Nat) (p : Bool) (h : Memory.wf d.mem) : Memory.wf (d.store a n v p).mem :=
  wf_storeBytes d a _ p h

theorem wf_writePieces (ps : List (Nat × Nat)) (d : Dev) (bs : List Byte) (p : Bool) (h : Memory.wf d.mem) :
    Memory.wf (d.writePieces bs p ps).mem := by
  induction ps generalizing d bs with
  | nil => exact h
  | cons x ps ih =>
    obtain ⟨a, n⟩ := x
    exact ih _ _ (wf_storeBytes d a _ p h)

/-- A range write leaves every byte outside the range. -/
theorem byte_putBytes_out (d : Dev) (a : Nat) (bs : List Byte) (x : Nat) (h : x < a ∨ a + bs.length ≤ x) :
    Memory.byte (d.putBytes a bs) x = Memory.byte d.mem x := by
  unfold putBytes
  split
  · exact Memory.byte_writeBytes_out bs d.mem a x h
  · have key : ∀ (l : List (Nat × Byte)) (m : Memory), (∀ e ∈ l, e.1 < bs.length) →
        Memory.byte (l.foldl (fun m e => if d.lostLine (lineOf (a + e.1)) then m else m.put (a + e.1) e.2) m) x = Memory.byte m x := by
      intro l
      induction l with
      | nil => intros; rfl
      | cons e l ih =>
        intro m hl
        rw [List.foldl_cons, ih _ (fun e' he' => hl e' (by simp [he']))]
        have := hl e (by simp)
        split
        · rfl
        · exact Memory.byte_put_ne _ _ _ _ (by omega)
    refine key _ _ (fun e he => ?_)
    have := (List.of_mem_zip he).1
    simpa using this

theorem byte_storeBytes_out (d : Dev) (a : Nat) (bs : List Byte) (p : Bool) (x : Nat) (h : x < a ∨ a + bs.length ≤ x) :
    Memory.byte (d.storeBytes a bs p).mem x = Memory.byte d.mem x := by
  unfold storeBytes
  dsimp only
  split
  · rfl
  · exact byte_putBytes_out d a bs x h

theorem byte_store_out (d : Dev) (a n v : Nat) (p : Bool) (x : Nat) (h : x < a ∨ a + n ≤ x) :
    Memory.byte (d.store a n v p).mem x = Memory.byte d.mem x := byte_storeBytes_out d a _ p x (by simpa using h)

@[simp] theorem storeBytes_cur (d : Dev) (a : Nat) (bs : List Byte) (p : Bool) : (d.storeBytes a bs p).cur = d.cur := by
  unfold storeBytes; dsimp only; split <;> rfl
@[simp] theorem storeBytes_queues (d : Dev) (a : Nat) (bs : List Byte) (p : Bool) : (d.storeBytes a bs p).queues = d.queues := by
  unfold storeBytes; dsimp only; split <;> rfl
@[simp] theorem storeBytes_ctxs (d : Dev) (a : Nat) (bs : List Byte) (p : Bool) : (d.storeBytes a bs p).ctxs = d.ctxs := by
  unfold storeBytes; dsimp only; split <;> rfl

/-! ### Translation touches no memory -/

@[simp] theorem fillTlbs_mem (d : Dev) (asid va : Nat) (l : Leaf) (ws : List WalkEntry) : (d.fillTlbs asid va l ws).mem = d.mem := rfl

@[simp] theorem count_mem (d : Dev) (i n : Nat) : (d.count i n).mem = d.mem := by
  unfold count countOn; dsimp only; split <;> rfl

@[simp] theorem count_groups (d : Dev) (i n : Nat) : (d.count i n).groups = d.groups := by
  unfold count countOn; dsimp only; split <;> rfl

@[simp] theorem count_cur (d : Dev) (i n : Nat) : (d.count i n).cur = d.cur := by
  unfold count countOn; dsimp only; split <;> rfl

end Dev

/-- The memory of the machine right after reset has the canonical form. -/
theorem reset_memory_wf : Memory.wf State.reset.dev.mem := by decide

end Sys2Proof.Machine
end

