-- ==== Sys2Proof/Laws/Rows.lean ====
section
/-!
SUPPORT. Rows and lanes: a row put together from lanes reads back lane by lane, and reads and writes of a row of a group without
recipe tags.
-/

namespace Sys2Proof.Machine
open Word

/-- The number that lanes make, lane by lane. -/
theorem fld_packLanes (w : Nat) (ls : List Nat) (i : Nat) : fld (packLanes w ls) (w * i) w = ls.getD i 0 % 2 ^ w := by
  unfold fld
  induction ls generalizing i with
  | nil => simp [packLanes]
  | cons x xs ih =>
    cases i with
    | zero => simp [packLanes, Nat.add_mul_mod_self_left]
    | succ n =>
      have h : packLanes w (x :: xs) / 2 ^ w = packLanes w xs := by
        rw [packLanes, Nat.add_mul_div_left _ _ (Nat.two_pow_pos w), Nat.div_eq_of_lt (Nat.mod_lt _ (Nat.two_pow_pos w)), Nat.zero_add]
      rw [Nat.mul_succ, Nat.add_comm, Nat.pow_add, ← Nat.div_div_eq_div_mul, h, ih]
      rfl

theorem packLanes_lt (w : Nat) (ls : List Nat) : packLanes w ls < 2 ^ (w * ls.length) := by
  induction ls with
  | nil => simp [packLanes]
  | cons x xs ih =>
    have h1 : x % 2 ^ w < 2 ^ w := Nat.mod_lt _ (Nat.two_pow_pos w)
    have h2 : 2 ^ w * (packLanes w xs + 1) ≤ 2 ^ w * 2 ^ (w * xs.length) := Nat.mul_le_mul_left _ ih
    rw [packLanes, List.length_cons, Nat.mul_succ, Nat.add_comm (w * _), Nat.pow_add]
    rw [Nat.mul_add, Nat.mul_one] at h2
    omega

/-- A lane of a row made from lanes (R44). -/
theorem laneAt_rowOf (t : Nat) (ls : List Nat) (i : Nat) (h : laneBits t * ls.length ≤ 16384) :
    laneAt t (rowOf (laneBits t) ls) i = ls.getD i 0 % 2 ^ laneBits t := by
  have h1 : packLanes (laneBits t) ls < 2 ^ 16384 :=
    Nat.lt_of_lt_of_le (packLanes_lt _ _) (Nat.pow_le_pow_right (by decide) h)
  simp only [laneAt, rowOf, BitVec.toNat_ofNat, Nat.mod_eq_of_lt h1]
  exact fld_packLanes _ _ _

/-- The lanes of a row, one by one. -/
theorem getD_lanesOf (w n : Nat) (v : RowBits) (i : Nat) (h : i < n) : (lanesOf w n v).getD i 0 = fld v.toNat (w * i) w := by
  simp [lanesOf, h]

@[simp] theorem length_lanesOf (w n : Nat) (v : RowBits) : (lanesOf w n v).length = n := by simp [lanesOf]

/-- Lane results put together, lane by lane (R115). -/
theorem getD_mergeLanes (act : List Bool) (os : List Nat) (rs : List (Nat × Nat)) (i : Nat) (h1 : os.length = act.length)
    (h2 : rs.length = act.length) (hi : i < act.length) :
    (mergeLanes act os rs).1.getD i 0 = if act.getD i false then (rs.getD i (0, 0)).1 else os.getD i 0 := by
  induction act generalizing os rs i with
  | nil => simp at hi
  | cons a as ih =>
    obtain ⟨o, os', rfl⟩ := List.exists_cons_of_length_eq_add_one h1
    obtain ⟨r, rs', rfl⟩ := List.exists_cons_of_length_eq_add_one h2
    cases i with
    | zero => cases a <;> simp [mergeLanes]
    | succ n =>
      have := ih os' rs' n (by simpa using h1) (by simpa using h2) (by simpa using hi)
      cases a <;> simpa [mergeLanes] using this

theorem length_mergeLanes (act : List Bool) (os : List Nat) (rs : List (Nat × Nat)) (h1 : os.length = act.length)
    (h2 : rs.length = act.length) : (mergeLanes act os rs).1.length = act.length := by
  induction act generalizing os rs with
  | nil => simpa [mergeLanes] using h1
  | cons a as ih =>
    obtain ⟨o, os', rfl⟩ := List.exists_cons_of_length_eq_add_one h1
    obtain ⟨r, rs', rfl⟩ := List.exists_cons_of_length_eq_add_one h2
    have := ih os' rs' (by simpa using h1) (by simpa using h2)
    cases a <;> simpa [mergeLanes] using this

/-- Which lanes of a type are active (R115). -/
theorem active_getD (d : Dev) (v : VField) (t i : Nat) (h : i < laneCount t) :
    (d.active v (laneCount t)).getD i false = d.laneOn v t i := by
  unfold Dev.active Dev.laneOn
  cases v.me <;> simp [h]

@[simp] theorem length_active (d : Dev) (v : VField) (n : Nat) : (d.active v n).length = n := by
  unfold Dev.active; split <;> simp

/-! ### Rows of a group without tags -/

theorem row_tag (d : Dev) (h : d.untagged) (r : Nat) : (d.row r).tag = .live := by
  rw [Dev.row, Map.get_eq_find]
  cases hf : Map.find d.grp.rows r with
  | none => rfl
  | some x => exact h _ (Map.mem_of_find hf)

theorem isDropped_untagged (d : Dev) (h : d.untagged) (r : Nat) : Dev.isDropped (d.row r) = false := by
  simp [Dev.isDropped, row_tag d h r]

theorem dependents_untagged (d : Dev) (h : d.untagged) (r : Nat) : Dev.dependents d.grp r = [] := by
  unfold Dev.dependents
  rw [List.map_eq_nil_iff, List.filter_eq_nil_iff]
  intro e he
  simp [h e he, Dev.RowTag.id?]

/-- A read of a row of the window gives its bits and its poison (R49). -/
theorem readRow_ok (d : Dev) (h : d.untagged) (r : Nat) (hr : d.hasRow r) : d.readRow r = .ok ⟨(d.row r).v, (d.row r).p⟩ := by
  have h1 : ¬ d.grp.rowsN ≤ r := Nat.not_le.mpr hr.1
  simp only [Dev.readRow, Dev.inBounds, trapIf, h1, isDropped_untagged d h r]
  rfl

/-- A source that names a row of the window (R28). -/
theorem src_ok (d : Dev) (h : d.untagged) (r : Nat) (hr : d.hasRow r) : d.src r = .ok (⟨(d.row r).v, (d.row r).p⟩, d) := by
  simp only [Dev.src, hr.2, ↓reduceIte, readRow_ok d h r hr]
  rfl

theorem old_ok (d : Dev) (h : d.untagged) (r : Nat) (hr : d.hasRow r) (full : Bool) : d.old r full = .ok (d.row r).v := by
  have h1 : ¬ d.grp.rowsN ≤ r := Nat.not_le.mpr hr.1
  simp only [Dev.old, hr.2, ↓reduceIte, Dev.inBounds, trapIf, h1, isDropped_untagged d h r, Bool.and_false]
  rfl

/-- The rows of the group replaced: what is read of them, and the stream as it was. -/
theorem setRows_row (d : Dev) (rows : Map Row) (k : Nat) : (d.setGrp { d.grp with rows := rows }).row k = Map.get {} rows k := by
  simp [Dev.row]
theorem setRows_stm (d : Dev) (rows : Map Row) : (d.setGrp { d.grp with rows := rows }).stm = d.stm := by
  cases hs : d.cur.svc
  · exact Dev.stm_setGrp_same d _ hs (by cases d.cur.eng <;> rfl)
  · rw [Dev.stm_core _ (by simpa using hs), Dev.stm_core d hs]; rfl

/-- Where no row has a recipe, a write only says so of its row (R61). -/
theorem clearTags_ok (d : Dev) (h : d.untagged) (r : Nat) (full : Bool) :
    d.clearTags r full = .ok (d.setGrp { d.grp with rows := Map.upd {} d.grp.rows r (fun y => { y with tag := .live }) }) := by
  simp only [Dev.clearTags, isDropped_untagged d h r, dependents_untagged d h r]
  rfl

/-- A write of a row of the window (R51): that row, with the poison of R51, and nothing else that claims speak of. -/
theorem dst_ok (d : Dev) (h : d.untagged) (r : Nat) (hr : d.hasRow r) (v : RowBits) (p full : Bool) :
    ∃ d', d.dst r v p full = .ok d' ∧ d'.row r = d.written r v (if full then p else p || (d.row r).p)
      ∧ (∀ k, k ≠ r → d'.row k = d.row k) ∧ (∃ rows, d'.grp = { d.grp with rows := rows } ∧ ∀ e ∈ rows, e.2.tag = .live)
      ∧ d'.stm = d.stm ∧ d'.cur = { d.cur with wrote := r :: d.cur.wrote } ∧ d.sameOutside d' := by
  have inside : d.inBounds r = .ok () := by simp [Dev.inBounds, trapIf, Nat.not_le.mpr hr.1]
  let rows := Map.upd {} d.grp.rows r (fun y => { y with tag := .live })
  let d1 := d.setGrp { d.grp with rows := rows }
  let y : Row := { d1.row r with v := v, p := if full then p else p || (d1.row r).p, sat := false, dirty := true }
  let d2 := d1.setGrp { d1.grp with rows := Map.set d1.grp.rows r y }
  have kept : d1.grp.rows = rows := by simp [d1]
  have hy : y = d.written r v (if full then p else p || (d.row r).p) := by
    simp only [y, d1, rows, setRows_row, Map.upd, Map.get_set_same]; rfl
  refine ⟨{ d2 with cur := { d2.cur with wrote := r :: d2.cur.wrote } }, ?_, ?_, fun k hk => ?_, ⟨Map.set rows r y, ?_, ?_⟩, ?_, rfl, ?_⟩
  · rw [Dev.dst, if_pos hr.2, Dev.writeRow, inside, clearTags_ok d h]; rfl
  · exact ((setRows_row d1 _ r).trans (Map.get_set_same _ _ _ _)).trans hy
  · refine (setRows_row d1 _ k).trans ?_
    rw [Map.get_set_ne _ _ _ _ _ hk, kept]
    exact Map.get_set_ne _ _ _ _ _ hk
  · change d2.grp = _
    simp [d2, d1]
  · exact Map.forall_set (Map.forall_set h rfl) (by rw [hy])
  · exact (setRows_stm d1 _).trans (setRows_stm d rows)
  · unfold Dev.sameOutside; simp [d2, d1]

/-- What sticky flags leave (R80). -/
theorem raiseF_fflags (d : Dev) (b fl : Nat) : (d.raiseF b fl).grp.fflags = d.grp.fflags ||| fflagBits b fl := by simp [Dev.raiseF]
theorem raiseF_rows (d : Dev) (b fl : Nat) : (d.raiseF b fl).grp.rows = d.grp.rows := by simp [Dev.raiseF]
theorem raiseF_rowsN (d : Dev) (b fl : Nat) : (d.raiseF b fl).grp.rowsN = d.grp.rowsN := by simp [Dev.raiseF]
theorem raiseF_row (d : Dev) (b fl r : Nat) : (d.raiseF b fl).row r = d.row r := by simp [Dev.row, raiseF_rows]
theorem raiseF_stm (d : Dev) (b fl : Nat) : (d.raiseF b fl).stm = d.stm := by
  cases hs : d.cur.svc
  · exact Dev.stm_setGrp_same d _ hs (by rw [Dev.noteFlags_stream]; cases d.cur.eng <;> rfl)
  · rw [Dev.stm_core _ (by simpa using hs), Dev.stm_core d hs]; rfl

theorem outside_trans {a b c : Dev} (h1 : a.sameOutside b) (h2 : b.sameOutside c) : a.sameOutside c := by
  unfold Dev.sameOutside at *
  simp only [h1, h2, and_self]
theorem outside_raiseF (d : Dev) (b fl : Nat) : d.sameOutside (d.raiseF b fl) := by simp [Dev.sameOutside, Dev.raiseF]
theorem outside_settle (d : Dev) (h : Hdr) (l : Bool) : d.sameOutside (d.settle h l) := by simp [Dev.sameOutside]

/-- An instruction whose body ends with its flags and the write of a row of the window. -/
theorem writesRow_of (i : Instr) (s : State) (h : Hdr) (r : Nat) (v : RowBits) (p full : Bool) (fl : Nat)
    (hu : s.dev.untagged) (hr : s.dev.hasRow r)
    (hx : ∀ d, (s.dev.raiseF 0 fl).dst r v p full = .ok d → exec i s = .next (s.after h d)) :
    WritesRow i s r v (if full then p else p || (s.dev.row r).p) fl := by
  obtain ⟨d', h1, h2, h3, ⟨rows, h4, h4'⟩, h5, h6, h7⟩ := dst_ok (s.dev.raiseF 0 fl) (by simpa [Dev.untagged, raiseF_rows] using hu) r (by simpa [Dev.hasRow, raiseF_rowsN] using hr) v p full
  have hs : d'.stm = s.dev.stm := h5.trans (raiseF_stm _ _ _)
  have hc : d'.cur.eng = s.dev.cur.eng := by rw [h6]; rfl
  obtain ⟨t, q, c, ht⟩ := Dev.settle_grp d' h (Dev.began s.dev d')
  refine ⟨_, hx d' h1, rfl, ?_, ?_, ?_, ?_, ?_, ?_, ?_, ?_⟩
  · change (d'.settle h _).row r = _
    simp [h2, raiseF_row, Dev.written]
  · change (d'.settle h _).grp.fflags = _
    rw [ht]; simp [h4, raiseF_fflags]
  · intro k hk
    change (d'.settle h _).row k = _
    simp at hk
    simp [h3 k hk, raiseF_row]
  · intro n; change (d'.settle h _).reg n = _; simp [Dev.reg, Dev.zeroReg, hs, hc]
  · intro n; change (d'.settle h _).creg n = _; simp [Dev.creg, hs]
  · intro n; change (d'.settle h _).breg n = _; simp [Dev.breg, hs]
  · intro n; change (d'.settle h _).kreg n = _; simp [Dev.kreg, hs]
  · exact outside_trans (outside_trans (outside_raiseF _ _ _) h7)
      (outside_settle d' h (Dev.began s.dev d'))

theorem argRow_zero (d : Dev) (a : Nat) (l : List Nat) : d.argRow (a :: l) 0 = (d.row a).v := rfl
theorem argRow_one (d : Dev) (a b : Nat) (l : List Nat) : d.argRow (a :: b :: l) 1 = (d.row b).v := rfl
theorem argRow_nil (d : Dev) (n : Nat) : d.argRow [] n = 0 := by
  simp only [Dev.argRow, List.getElem?_nil, Option.map_none, Option.getD_none]
theorem argRow_none (d : Dev) (a : Nat) : d.argRow [a] 1 = 0 := by
  simp only [Dev.argRow, List.getElem?_cons_succ, List.getElem?_nil, Option.map_none, Option.getD_none]

/-- The shared operation of row functions, on rows of the window (R115, R116). -/
theorem rowOp_eq (d : Dev) (v : VField) (types : List Nat) (whole : Bool) (fD : Nat) (srcs : List Nat) (f : RowFn) (t : Nat)
    (hu : d.untagged) (hD : d.hasRow fD) (hS : ∀ r ∈ srcs, d.hasRow r) (hn : srcs.length ≤ 2) (ht : d.vtype types v.t = .ok t) :
    d.rowOp v types whole fD srcs f =
      (d.raiseF 0 (f t (d.active v (laneCount t)) (d.argRow srcs 0) (d.argRow srcs 1) (d.row fD).v).fl).dst fD
        (f t (d.active v (laneCount t)) (d.argRow srcs 0) (d.argRow srcs 1) (d.row fD).v).v
        (d.maskP v || srcs.any (fun r => (d.row r).p)) (whole || (d.active v (laneCount t)).all id) := by
  unfold Dev.rowOp
  rw [ht]
  dsimp only [bind, Except.bind]
  rw [old_ok _ hu fD hD]
  dsimp only
  match srcs, hS, hn with
  | [], _, _ => simp only [argRow_nil, List.any_nil, Bool.or_false]
  | [a], hS, _ =>
    dsimp only
    rw [src_ok _ hu a (hS a (List.mem_singleton.mpr rfl))]
    simp only [argRow_zero, argRow_none, List.any_cons, List.any_nil, Bool.or_false]
  | [a, b], hS, _ =>
    dsimp only
    rw [src_ok _ hu a (hS a (List.mem_cons_self ..))]
    dsimp only
    rw [src_ok _ hu b (hS b (List.mem_cons_of_mem _ (List.mem_singleton.mpr rfl)))]
    simp only [argRow_zero, argRow_one, List.any_cons, List.any_nil, Bool.or_false, Bool.or_assoc]

end Sys2Proof.Machine
end

