-- ==== Sys2Proof/Tests/Slice0.lean ====
section
/-!
SUPPORT. Tests. Expected results come from the spec: its encoding tables and worked words, and the values its rules give. The
witnesses at the end show, for each statement with hypotheses, a state and operands that meet them.
-/

namespace Sys2Proof.Tests
open Sys2Proof.Machine Sys2Proof.Word

set_option maxRecDepth 20000
set_option Elab.async false

/-! ### Helpers -/

/-- The header of an instruction that stands alone (R21): S = 1, no FL, no tokens. -/
def one : Hdr := ⟨true, 0, 0, 0⟩

/-- A vector m field of a type without a mask. -/
def ty (t : Nat) : VField := ⟨t, false, 0⟩

/-- A word from its class, its opcode and its fields, each with its lowest bit and its value (R21); S = 1. -/
def word (cls opc : Nat) (fs : List (Nat × Nat)) : Nat :=
  2 ^ 63 + cls * 2 ^ 59 + opc * 2 ^ 52 + fs.foldl (fun a f => a + f.2 * 2 ^ f.1) 0

/-- A step-program word from its opcode and its fields (R350). -/
def stepWord (op : Nat) (fs : List (Nat × Nat)) : Nat := op * 2 ^ 27 + fs.foldl (fun a f => a + f.2 * 2 ^ f.1) 0

/-- Every word of a list decodes to its instruction. -/
def decodes (n : Nat) (l : List (Nat × Instr)) : Bool := l.all (fun x => decodeTableWord n x.1 == some x.2)

/-! ### Decoding: one word for each stream instruction, field by field from the encoding tables -/

/-- R91: fd at [44:39], fa at [38:33], fb at [32:27], m from bit 0. -/
theorem test_decode_integer : decodes 64 [
    (word 0 0x00 [(39, 33), (33, 34), (27, 35)], .add one 33 34 35), (word 0 0x01 [(39, 33), (33, 34), (27, 35)], .sub one 33 34 35),
    (0x0020028A00000010, .addi ⟨false, 0, 0, 0⟩ 5 5 16), (word 0 0x02 [(39, 5), (33, 6), (0, 2 ^ 33 - 1)], .addi one 5 6 (-1)),
    (word 0 0x03 [(39, 1), (33, 2), (27, 3)], .mul one 1 2 3), (word 0 0x04 [(39, 1), (33, 2), (27, 3), (0, 1)], .mulh one true 1 2 3),
    (word 0 0x05 [(39, 1), (33, 2), (27, 3)], .div one false 1 2 3), (word 0 0x06 [(39, 1), (33, 2), (27, 3), (0, 1)], .rem one true 1 2 3),
    (word 0 0x07 [(39, 1), (33, 2), (27, 3)], .andR one 1 2 3), (word 0 0x08 [(39, 1), (33, 2), (27, 3)], .orR one 1 2 3),
    (word 0 0x09 [(39, 1), (33, 2), (27, 3)], .xorR one 1 2 3), (word 0 0x0A [(39, 1), (33, 2), (27, 3)], .andnR one 1 2 3)] = true := by
  decide +kernel

theorem test_decode_shifts : decodes 64 [
    (word 0 0x0B [(39, 1), (33, 2), (27, 3)], .shl one 1 2 3), (word 0 0x0B [(39, 1), (33, 2), (1, 1), (2, 63)], .shlImm one 1 2 63),
    (word 0 0x0C [(39, 1), (33, 2), (27, 3)], .shr one 1 2 3), (word 0 0x0C [(39, 1), (33, 2), (1, 1), (2, 62)], .shrImm one 1 2 62),
    (word 0 0x0D [(39, 1), (33, 2), (27, 3)], .sar one 1 2 3), (word 0 0x0D [(39, 1), (33, 2), (1, 1), (2, 61)], .sarImm one 1 2 61),
    (word 0 0x0E [(39, 1), (33, 2), (27, 3)], .rot one 1 2 3), (word 0 0x0E [(39, 1), (33, 2), (1, 1), (2, 60)], .rotImm one 1 2 60),
    (word 0 0x0F [(39, 1), (33, 2)], .clz one 1 2), (word 0 0x10 [(39, 1), (33, 2)], .popc one 1 2),
    (word 0 0x11 [(39, 1), (33, 2), (27, 3), (0, 1)], .minR one true 1 2 3), (word 0 0x12 [(39, 1), (33, 2), (27, 3)], .maxR one false 1 2 3),
    (word 0 0x13 [(33, 2), (27, 3), (0, 1), (1, 5), (4, 15)], .cmp one true 5 15 2 3),
    (word 0 0x14 [(39, 1), (33, 2), (27, 3), (0, 9)], .sel one 1 2 3 9), (0x8150030000000064, .li one 6 100),
    (word 0 0x16 [(39, 1), (0, 0x1ABCDEF)], .lih one 1 0x1ABCDEF), (word 0 0x17 [(39, 1), (33, 2)], .mov one 1 2),
    (word 0 0x18 [(39, 1), (33, 2), (0, 1), (1, 20), (7, 43)], .ext one true 1 2 20 43),
    (word 0 0x19 [(39, 1), (33, 2), (1, 20), (7, 7)], .ins one 1 2 20 7)] = true := by decide +kernel

/-- R94. -/
theorem test_decode_float : decodes 64 [
    (word 1 0x00 [(39, 1), (33, 2), (27, 3), (0, 1)], .fadd one 1 1 2 3), (word 1 0x01 [(39, 1), (33, 2), (27, 3), (0, 4)], .fsub one 4 1 2 3),
    (word 1 0x02 [(39, 1), (33, 2), (27, 3), (0, 4)], .fmul one 4 1 2 3),
    (word 1 0x03 [(39, 1), (33, 2), (27, 3), (0, 1), (4, 60)], .ffma one 1 1 2 3 60),
    (word 1 0x04 [(39, 1), (33, 2), (27, 3), (0, 4)], .fdiv one 4 1 2 3), (word 1 0x05 [(39, 1), (33, 2), (0, 1)], .fsqrt one 1 1 2),
    (word 1 0x06 [(39, 1), (33, 2), (27, 3), (0, 1)], .fmin one 1 1 2 3), (word 1 0x07 [(39, 1), (33, 2), (27, 3), (0, 1)], .fmax one 1 1 2 3),
    (word 1 0x08 [(33, 2), (27, 3), (0, 4), (4, 7), (7, 14)], .fcmp one 4 7 14 2 3),
    (word 1 0x09 [(39, 1), (33, 2), (0, 7), (4, 3)], .fcvt one 7 3 1 2), (word 1 0x0A [(39, 1), (33, 2), (0, 4)], .fclass one 4 1 2)] = true := by
  decide +kernel

/-- R100; the words of LD, CAS, FENCE and ST are the spec's own. -/
theorem test_decode_memory : decodes 64 [
    (0x9000020E00001027, .ld one 7 2 4 7 0x40), (0x90100AA800000030, .st one 0 3 21 20 0),
    (word 2 0x02 [(39, 1), (33, 2), (6, 2 ^ 21 - 8), (4, 1), (0, 5)], .lda one 5 1 1 2 (-8)),
    (word 2 0x03 [(39, 1), (33, 2), (6, 8), (4, 2), (0, 6)], .stl one 6 2 1 2 8),
    (word 2 0x04 [(39, 1), (33, 2), (6, 8), (0, 8)], .lds one 8 0 1 2 8), (word 2 0x05 [(39, 1), (33, 2), (6, 8), (0, 9)], .chkl one 9 0 1 2 8),
    (word 2 0x06 [(33, 2), (6, 2 ^ 21 - 64), (0, 2)], .pref one 2 2 (-64)),
    (word 2 0x07 [(39, 1), (33, 2), (27, 3), (6, 9), (4, 3), (0, 4)], .amo one 4 3 9 1 2 3),
    (0x9080029230000080, .cas one 0 0 2 5 9 6), (0x909000000000000F, .fence one 0 15), (0x9090000000000032, .fence one 3 2),
    (word 2 0x0A [(39, 1), (33, 2), (27, 3), (0, 7)], .smap one 1 2 3 7), (word 2 0x0B [(6, 1), (4, 2), (3, 1)], .sflush one 2 8 true),
    (word 2 0x0B [(4, 1), (0, 5)], .sflush one 1 5 false), (word 2 0x0C [(33, 2), (27, 3), (4, 3), (0, 2)], .cinv one 3 2 3 2)] = true := by
  decide +kernel

/-- R241; all but SLK, BRL and SPAWN are the spec's own words. -/
theorem test_decode_control : decodes 64 [
    (0x9800008000000010, .pbr one 1 16), (word 3 0x00 [(39, 0xA), (33, 44)], .pbrReg one 2 44), (0x9810000000000089, .br one 1 1 1 0),
    (0x9810000000000002, .br one 2 0 0 0), (word 3 0x02 [(0, 3), (3, 9), (7, 2), (9, 6), (12, 5)], .brl one 3 5 9 2 6),
    (0x9830000500000000, .loop one true 2 0), (word 3 0x03 [(0, 2 ^ 32 - 1)], .loop one false 0 (2 ^ 32 - 1)), (0x9840000000000000, .lend one),
    (word 3 0x05 [(0, 3)], .rdv one 3), (0x9860000000000000, .wfe one), (0x9870000C00000002, .sev one 6 2), (0x9880000000000020, .pause one 32),
    (0x9890000000000000, .nop one), (0x98A0000A00000111, .bari one true 17 5), (0x98B0000000000111, .bara one true 17),
    (0x98C0000000000111, .barw one true 17), (word 3 0x0D [(39, 1), (33, 2), (27, 3), (0, 0x100)], .spawn one 1 2 3 0x100),
    (word 3 0x0D [(39, 1), (33, 2), (27, 3), (9, 1)], .spawnPstart one 1 2 3),
    (word 3 0x0D [(39, 1), (33, 2), (27, 3), (9, 2)], .spawnPdrain one 1 2 3), (0x98E0000000000000, .retire one),
    (word 3 0x0F [(0, 0xFFFF)], .slk one 0xFFFF)] = true := by decide +kernel

/-- R205, R322. -/
theorem test_decode_system : decodes 64 [
    (0xA000000000000015, .trap one 0x15), (word 4 0x01 [], .eret one), (0xA020020000000040, .csrr one 4 0x40),
    (word 4 0x03 [(33, 2), (0, 0x803)], .csrw one 2 0x803), (0xA040039200000024, .csrx one 7 9 0x24),
    (0xA0500BAAB0000000, .tlbi one 0 23 21 22), (0xA060000000000000, .tlbs one), (word 4 0x07 [(39, 1), (33, 2)], .ctxsStop one 1 2),
    (word 4 0x07 [(39, 1), (33, 2), (0, 1)], .ctxsCheckpoint one 1 2), (word 4 0x08 [(39, 1), (33, 2)], .ctxl one 1 2)] = true := by
  decide +kernel

/-- R118, R114: fD at [44:33], fA at [32:21], fB at [20:9], T at m[8:5], ME at m[4], K at m[3:0]. -/
theorem test_decode_vector : decodes 64 [
    (0xA809001400900620, .vadd ⟨true, 2, 2, 0⟩ (ty 1) 10 4 0x803), (word 5 0x01 [(33, 7), (21, 8), (9, 9), (5, 2), (4, 1), (0, 3)], .vsub one ⟨2, true, 3⟩ 7 8 9),
    (word 5 0x02 [(33, 7), (21, 0xA01), (9, 9), (5, 1)], .vmul one (ty 1) 7 0xA01 9), (word 5 0x03 [(33, 7), (21, 8), (9, 9), (5, 1)], .vfma one (ty 1) 7 8 9),
    (word 5 0x04 [(33, 7), (21, 8), (9, 9), (5, 5)], .vmin one (ty 5) 7 8 9), (word 5 0x05 [(33, 7), (21, 8), (9, 9), (5, 0xA)], .vmax one (ty 0xA) 7 8 9),
    (word 5 0x06 [(33, 7), (21, 8), (5, 7)], .vabs one (ty 7) 7 8), (word 5 0x07 [(33, 7), (21, 8), (5, 1)], .vneg one (ty 1) 7 8),
    (word 5 0x08 [(33, 7), (21, 8), (5, 1)], .vexp2 one (ty 1) 7 8), (word 5 0x09 [(33, 7), (21, 8), (5, 2)], .vlog2 one (ty 2) 7 8),
    (word 5 0x0A [(33, 7), (21, 8), (5, 1)], .vrcp one (ty 1) 7 8), (word 5 0x0B [(33, 7), (21, 8), (5, 1)], .vrsq one (ty 1) 7 8),
    (word 5 0x0C [(33, 7), (21, 8), (9, 9), (5, 1)], .vtbi one (ty 1) 7 8 9), (0xA8D0004401001231, .vcmp one ⟨1, true, 1⟩ 2 2 8 9),
    (word 5 0x0E [(33, 7), (21, 8), (9, 9), (5, 4), (4, 1), (0, 15)], .vsel one ⟨4, true, 15⟩ 7 8 9),
    (word 5 0x0F [(33, 7), (21, 8), (9, 9), (5, 7)], .viadd one (ty 7) 7 8 9), (word 5 0x10 [(33, 7), (21, 8), (9, 9), (5, 8)], .visub one (ty 8) 7 8 9),
    (word 5 0x11 [(33, 7), (21, 8), (9, 9), (5, 9)], .vimul one (ty 9) 7 8 9), (word 5 0x12 [(33, 7), (21, 8), (9, 9), (5, 3)], .vand one (ty 3) 7 8 9)] = true := by
  decide +kernel

theorem test_decode_vector_rest : decodes 64 [
    (word 5 0x13 [(33, 7), (21, 8), (9, 9), (5, 4)], .vor one (ty 4) 7 8 9), (word 5 0x14 [(33, 7), (21, 8), (9, 9), (5, 4)], .vxor one (ty 4) 7 8 9),
    (word 5 0x15 [(33, 7), (21, 8), (9, 9), (5, 6)], .vshl one (ty 6) 7 8 9), (word 5 0x16 [(33, 7), (21, 8), (9, 9), (5, 6)], .vshr one (ty 6) 7 8 9),
    (word 5 0x17 [(33, 7), (21, 8), (9, 3), (5, 1)], .vred one (ty 1) 3 7 8), (word 5 0x18 [(33, 7), (21, 8), (11, 1), (9, 2), (5, 1)], .vscan one (ty 1) 2 true 7 8),
    (word 5 0x19 [(33, 7), (21, 8), (5, 1)], .vany one (ty 1) 7 8), (word 5 0x1A [(33, 7), (21, 8), (5, 1), (4, 1), (0, 2)], .vall one ⟨1, true, 2⟩ 7 8),
    (word 5 0x1B [(33, 7), (21, 8), (5, 1)], .vpopc one (ty 1) 7 8), (word 5 0x1C [(33, 7), (21, 8), (9, 9), (5, 1), (0, 6)], .vkop one 1 6 7 8 9)] = true := by
  decide +kernel

/-- R129. -/
theorem test_decode_vector_data : decodes 64 [
    (word 6 0x00 [(33, 7), (29, 5), (27, 2), (9, 2 ^ 18 - 4), (5, 1)], .vld one (ty 1) 2 7 5 (-4)),
    (word 6 0x01 [(33, 7), (29, 5), (27, 1), (9, 4), (5, 1)], .vst one (ty 1) 1 7 5 4),
    (word 6 0x02 [(33, 7), (29, 5), (21, 3), (9, 8), (5, 1)], .vldx one (ty 1) 3 7 5 8), (word 6 0x03 [(33, 7), (29, 5), (21, 3), (9, 8), (5, 1)], .vstx one (ty 1) 3 7 5 8),
    (word 6 0x04 [(33, 7), (21, 8), (5, 1)], .vmov one (ty 1) 7 8), (word 6 0x05 [(33, 7), (21, 8), (9, 511), (5, 1)], .vbcast one (ty 1) 7 8 511),
    (word 6 0x05 [(33, 7), (20, 1), (9, 5), (5, 1)], .vbcastAreg one (ty 1) 7 5), (word 6 0x06 [(33, 7), (9, 0xFFF), (5, 7)], .viota one (ty 7) 7 (-1)),
    (word 6 0x07 [(33, 7), (21, 8), (9, 9), (5, 1)], .vperm one (ty 1) 7 8 9),
    (word 6 0x08 [(33, 7), (21, 8), (13, 1), (9, 5), (5, 1), (4, 1), (0, 2)], .vcmpr one ⟨1, true, 2⟩ 7 8 true 5),
    (word 6 0x09 [(33, 7), (21, 8), (5, 1), (4, 1), (0, 2)], .vxpnd one ⟨1, true, 2⟩ 7 8), (word 6 0x0A [(33, 7), (21, 8), (9, 15), (5, 9)], .vhist one (ty 9) 7 8 15),
    (word 6 0x0B [(33, 7), (21, 8), (10, 1), (5, 1)], .vradix one (ty 1) 7 8 false true), (word 6 0x0C [(33, 7), (21, 8), (9, 9), (5, 1), (4, 1), (0, 8)], .vpack one 1 true 8 7 8 9),
    (word 6 0x0D [(33, 7), (21, 8), (9, 9), (5, 2), (0, 3)], .vunpk one 2 3 7 8 9), (word 6 0x0E [(33, 7), (21, 8), (13, 32), (9, 8)], .vscale one 8 32 7 8),
    (word 6 0x0F [(33, 7), (21, 8), (20, 1), (17, 1), (13, 1), (9, 2), (4, 1), (0, 4)], .vcvt one true 1 1 2 true 4 7 8),
    (word 6 0x10 [(33, 7), (29, 5), (23, 9), (21, 2), (9, 8), (5, 1)], .vamo one (ty 1) 2 9 7 5 8)] = true := by decide +kernel

/-- R32: a prefix of class 0xF and three extension words; VRED (opcode 0x17) over two levels. -/
theorem test_decode_nest :
    decodeTableWord 256 (word 0xF 0x17 [(40, 3), (36, 4), (29, 2), (5, 1), (0, 0)] + (3 * 2 ^ 16 + 5) * 2 ^ 64
        + (0x11 + 0x10 * 2 ^ 5) * 2 ^ 128 + (0x11 + 7 * 2 ^ 5) * 2 ^ 192)
      = some (.nest one false 0x17 3 4 0 2 0x20 ⟨5, 3, 0, 0, 0⟩ ⟨0x11, 0x10, 0, 0, 0⟩ ⟨0x11, 7, 0, 0, 0⟩ ⟨0, 0, 0, 0, 0⟩) := by
  decide +kernel

/-- R329, R159, R275; ORIENT3, MMT and XDEC are the spec's own words. -/
theorem test_decode_units : decodes 64 [
    (word 7 0x00 [(33, 7), (21, 8), (19, 1), (5, 4)], .orient2 one (ty 4) false true 7 8), (0xB810005002000020, .orient3 one (ty 1) false false 40 16),
    (0xB810005402100020, .orient3 one (ty 1) true false 42 16), (word 7 0x02 [(33, 7), (21, 8), (5, 1)], .incirc one (ty 1) false false 7 8),
    (word 7 0x03 [(33, 7), (21, 8), (5, 1)], .insph one (ty 1) false false 7 8), (word 7 0x04 [(33, 7), (21, 8), (5, 1)], .segx one (ty 1) false false 7 8),
    (0xC000000405001E00, .mmt one 2 0x28 0 15), (word 8 0x01 [(33, 7), (29, 5), (17, 8), (9, 7)], .mmv one 7 8 5 7),
    (word 8 0x01 [(33, 7), (29, 5), (17, 8), (16, 1), (9, 7)], .mmvHandle one 7 8 5 7),
    (word 8 0x02 [(41, 6), (33, 1), (29, 5), (27, 2), (9, 64)], .mldw one 1 2 5 6 64),
    (word 8 0x03 [(41, 6), (38, 3), (35, 4), (33, 1), (29, 5), (9, 64)], .mbcw one 1 3 4 5 6 64), (word 8 0x04 [(33, 2047)], .mzero one 2047),
    (word 8 0x05 [(33, 7), (21, 8), (9, 9), (5, 5), (4, 1), (3, 0), (2, 1)], .mdeq one 5 true false true 7 8 9),
    (word 8 0x06 [(33, 7), (21, 8), (0, 1)], .mstat one 7 1 8),
    (word 9 0x00 [(39, 1), (33, 2), (9, 2), (8, 1), (0, 0x55)], .xcopy one 2 true 0x55 1 2),
    (word 9 0x01 [(33, 7), (29, 5), (27, 1), (21, 63), (9, 8)], .xgath one 1 63 7 5 8), (word 9 0x02 [(33, 7), (29, 5), (27, 1), (21, 63), (9, 8)], .xscat one 1 63 7 5 8),
    (word 9 0x03 [(39, 1), (33, 2), (27, 3), (4, 2)], .xfill one 2 1 2 3), (0xC840030A20000000, .xdec one 0 6 5 4),
    (word 9 0x05 [(39, 1), (33, 2), (27, 3), (6, 1), (4, 2)], .xchk one 2 true 1 2 3)] = true := by decide +kernel

/-- R306, R226, R57. -/
theorem test_decode_residency_queues_recipes : decodes 64 [
    (0xD000100800648020, .gate one (ty 1) 4 1 2 3), (0xD010078C00000004, .eres one 15 6 0 1), (0xD020038C60000000, .edisp one 7 6 12 0),
    (word 0xA 0x02 [(39, 7), (33, 6), (2, 1)], .edispClose one 7 6), (word 0xA 0x03 [(39, 7), (33, 6), (0, 3)], .epin one 7 6 3),
    (word 0xA 0x04 [(39, 7), (33, 6), (0, 3)], .eunpin one 7 6 3), (word 0xA 0x05 [(39, 7), (33, 6), (0, 3), (2, 1)], .efetch one 7 6 3 1),
    (word 0xA 0x06 [(39, 7), (33, 6), (2, 1)], .eevict one 7 6 0 1), (word 0xA 0x07 [(33, 6), (0, 2), (2, 1)], .epred one 6 2 1),
    (word 0xB 0x00 [(33, 6), (0, 255)], .qpush one 255 6), (word 0xB 0x00 [(9, 2047), (8, 1), (0, 3)], .qpushRow one 3 2047),
    (0xD810020000600003, .qpop one 3 true 1 4), (word 0xB 0x01 [(22, 1), (21, 1), (9, 70), (8, 1), (0, 3)], .qpopRow one 3 true 1 70),
    (word 0xB 0x02 [(39, 4), (22, 15), (0, 3)], .qpeek one 3 15 4), (word 0xB 0x02 [(22, 15), (9, 70), (8, 1), (0, 3)], .qpeekRow one 3 15 70),
    (word 0xB 0x03 [(39, 4), (0, 3)], .qstat one 3 4), (word 0xB 0x04 [(39, 4), (33, 6), (22, 3), (0, 9)], .qbind one 9 3 4 6),
    (0xE000001800000103, .rcpdef one 3 1 12), (0xE010002800000600, .rcpset one 3 0x14), (word 0xC 0x02 [(33, 0x14), (9, 2047)], .rcpclr one 2047 0x14)] = true := by
  decide +kernel

/-- R350: OP at [31:27], gd at [26:23], ga at [22:19], gb at [18:15], imm at [14:0]; SDRAW, SEMIT and SLDC are the spec's own words. -/
theorem test_decode_step : decodes 32 [
    (0x00210000, .sldc 4 2 0), (stepWord 0x01 [(19, 5), (4, 1), (0, 9)], .spen 5 true 9), (0x10000000, .stemp), (0x18000000, .stopk), (0x20000000, .stopp),
    (0x28000000, .sminp), (0x30000000, .ssmax), (stepWord 0x07 [(19, 5), (0, 0x7FFF)], .srng 5 0x7FFF), (0x41800000, .sdraw 3),
    (stepWord 0x09 [(19, 5)], .smemb 5), (stepWord 0x0A [(19, 5), (15, 6), (0, 9)], .scnt 5 6 9), (stepWord 0x0B [(19, 5), (0, 9)], .scommit 5 9),
    (0x60000000, .sabort), (0x68180000, .semit 3), (stepWord 0x0E [(23, 4), (19, 5)], .smov 4 5),
    (stepWord 0x0E [(23, 4), (13, 1), (0, 0x1FFF)], .smovImm 4 (-1)), (stepWord 0x0E [(23, 4), (19, 5), (13, 2), (0, 3)], .smovLoad 4 5 3),
    (stepWord 0x0F [(23, 4), (19, 5), (15, 6)], .sadd 4 5 6), (stepWord 0x0F [(23, 4), (19, 5), (14, 1), (0, 0x3FFF)], .saddImm 4 5 (-1)),
    (stepWord 0x10 [(19, 5), (15, 6), (0, 5)], .scmp 5 6 5), (stepWord 0x11 [(14, 1), (0, 0x3FFE)], .sbr true (-2)), (stepWord 0x12 [(0, 7)], .sjmp 7),
    (0x98000000, .send)] = true := by decide +kernel

/-- R350, R21, R29, R30, R36: reserved encodings are refused by name of their cause. -/
theorem test_decode_refused :
    ([stepWord 0x14 [], stepWord 0x10 [(0, 6)], stepWord 0x0E [(13, 3)], stepWord 0x13 [(0, 1)]].all (fun w => decodeTableWord 32 w == none)) = true
    ∧ ([word 0 0x1A [], word 0 0x00 [(0, 1)], word 0 0x00 [(50, 3)], word 0 0x13 [(1, 6)], word 0 0x18 [(1, 40), (7, 30)], word 2 0x04 [(33, 2)],
        word 1 0x00 [(0, 0)], word 3 0x01 [(7, 3)], word 8 0x00 [(18, 3)], word 0xD 0 [], word 0xE 0 [], word 0xA 0x01 [(2, 3)]].all
          (fun w => decodeTableWord 64 w == none)) = true := by decide +kernel

/-! ### Well-formedness: a term that breaks each check, beside one that keeps them all -/

/-- A stream of engine `e` in a group that declares all four streams refuses every instruction of the list. -/
def refuses (e : Engine) (l : List Instr) : Bool := l.all (fun i => !i.wf e 15)

/-- R21, R22, R29, R30: FL 11, token fields beyond their width or naming an undeclared engine, a register beyond the stream's. -/
theorem smoke_header : refuses .S [.nop ⟨true, 3, 0, 0⟩, .nop ⟨true, 0, 8, 0⟩, .nop ⟨true, 0, 0, 4⟩, .add one 64 0 0, .sub one 0 64 0, .mov one 0 64,
      .loop ⟨true, 1, 0, 0⟩ false 0 1, .lend ⟨true, 2, 0, 0⟩] = true
    ∧ refuses .V [.add one 16 0 0, .qpush one 0 16] = true
    ∧ (Instr.nop ⟨true, 0, 1, 0⟩).wf .S 1 = false ∧ (Instr.nop ⟨true, 0, 0, 2⟩).wf .S 3 = false
    ∧ (Instr.nop ⟨true, 2, 1, 1⟩).wf .S 3 = true ∧ (Instr.add one 63 63 63).wf .S 1 = true ∧ (Instr.add one 15 0 0).wf .V 2 = true := by decide +kernel

/-- R91, R94, R100: the scalar classes. -/
theorem smoke_scalar : refuses .S [.addi one 1 1 (2 ^ 32), .shlImm one 1 1 64, .cmp one true 6 0 0 0, .cmp one true 0 16 0 0, .sel one 0 0 0 16,
      .li one 1 (-2 ^ 38 - 1), .lih one 1 (2 ^ 25), .ext one true 1 1 40 30, .ins one 1 1 64 0, .fadd one 0 1 1 1, .ffma one 1 1 1 1 64,
      .fclass one 2 1 1, .fcmp one 1 8 0 1 1, .fcvt one 1 1 1 1, .fcvt one 7 10 1 1, .ld one 1 0 1 1 0, .st one 0 4 1 1 0, .lds one 0 0 0 1 0,
      .ld one 0 0 1 1 (2 ^ 20), .pref one 3 1 0, .amo one 1 0 0 1 1 1, .amo one 0 0 10 1 1 1, .cas one 5 0 0 1 1 1, .fence one 0 0, .smap one 1 1 1 8,
      .sflush one 0 9 true, .cinv one 0 1 1 3] = true
    ∧ [Instr.addi one 1 1 (2 ^ 32 - 1), .ext one true 1 1 40 23, .lds one 0 0 1 1 (-2 ^ 20), .amo one 4 3 9 1 1 1, .sflush one 0 8 true].all (·.wf .S 1) = true := by
  decide +kernel

/-- R241, R205, R322: control and system. -/
theorem smoke_control : refuses .S [.pbr one 8 0, .pbr one 0 (2 ^ 38), .br one 0 1 0 0, .br one 0 0 3 0, .br one 0 0 0 7, .brl one 0 8 0 0 0, .loop one false 1 0,
      .loop one false 0 (2 ^ 32), .rdv one 0, .rdv one 2, .sev one 0 16, .pause one 65536, .slk one 65536, .bari one false 64 0, .bara one true 256,
      .spawn one 0 0 0 128, .spawn one 0 0 0 257, .trap one 65536, .csrr one 0 4096, .tlbi one 4 0 0 0, .tlbi one 1 0 1 0, .tlbi one 2 1 0 0] = true
    ∧ (Instr.rdv one 3).wf .S 1 = false
    ∧ [Instr.br one 7 15 2 6, .rdv one 15, .bari one true 255 0, .spawn one 0 0 0 256, .tlbi one 2 0 1 1].all (·.wf .S 15) = true := by decide +kernel

/-- R28, R114, R118, R129, R33: the vector classes. -/
theorem smoke_vector : refuses .V [.vadd one (ty 5) 1 1 1, .vadd one ⟨1, false, 1⟩ 1 1 1, .vadd one ⟨1, true, 16⟩ 1 1 1, .vadd one (ty 1) 0xA00 1 1, .vadd one (ty 1) 1 0x900 1,
      .vfma one (ty 1) 0x800 1 1, .viadd one (ty 1) 1 1 1, .vabs one (ty 8) 1 1, .vcmp one (ty 5) 6 0 1 1, .vsel one (ty 1) 1 1 1, .vred one (ty 1) 4 1 1,
      .vscan one (ty 1) 3 true 1 1, .vany one (ty 1) 16 0, .vkop one 11 0 0 0 0, .vld one (ty 1) 4 1 0 0, .vst one (ty 1) 0 1 0 (2 ^ 17), .vbcast one (ty 1) 1 1 2048,
      .viota one (ty 1) 1 0, .vcmpr one (ty 1) 1 1 true 0, .vcmpr one ⟨1, true, 0⟩ 1 1 false 1, .vxpnd one (ty 1) 1 1, .vhist one (ty 9) 1 1 16, .vhist one (ty 7) 1 1 0,
      .vpack one 1 false 9 1 1 1, .vpack one 1 false 0 1 1 0x800, .vunpk one 5 0 1 1 1, .vscale one 0 33 1 1, .vcvt one false 0 1 1 false 0 1 1, .vcvt one false 2 1 2 false 0 1 1,
      .vamo one (ty 1) 0 0 1 0 1, .vamo one (ty 7) 0 0 0x800 0 1] = true
    ∧ refuses .V [.nest ⟨false, 0, 0, 0⟩ false 0 0 0 0 1 0x20 ⟨1, 0, 0, 0, 0⟩ ⟨0, 0, 0, 0, 0⟩ ⟨0, 0, 0, 0, 0⟩ ⟨0, 0, 0, 0, 0⟩,
      .nest one false 0xD 0 0 0 1 0x20 ⟨1, 0, 0, 0, 0⟩ ⟨0, 0, 0, 0, 0⟩ ⟨0, 0, 0, 0, 0⟩ ⟨0, 0, 0, 0, 0⟩,
      .nest one false 0 0 0 0 6 0x20 ⟨1, 0, 0, 0, 0⟩ ⟨0, 0, 0, 0, 0⟩ ⟨0, 0, 0, 0, 0⟩ ⟨0, 0, 0, 0, 0⟩,
      .nest one false 0 0 0 0 1 0x20 ⟨1, 2, 0, 0, 0⟩ ⟨0, 0, 0, 0, 0⟩ ⟨0, 0, 0, 0, 0⟩ ⟨0, 0, 0, 0, 0⟩,
      .nest one false 0 0 0 0 1 0x20 ⟨1, 0, 0, 0, 0⟩ ⟨0x12, 0, 0, 0, 0⟩ ⟨0, 0, 0, 0, 0⟩ ⟨0, 0, 0, 0, 0⟩,
      .nest one false 0x17 0 0 1 1 0x20 ⟨1, 0, 0, 0, 0⟩ ⟨0, 0, 0, 0, 0⟩ ⟨0, 0, 0, 0, 0⟩ ⟨0, 0, 0, 0, 0⟩] = true
    ∧ [Instr.vadd one ⟨2, true, 15⟩ 0x8FF 0xA01 0x7FF, .vhist one (ty 9) 1 1 15, .vamo one (ty 1) 3 9 1 15 0xA00,
      .nest one false 0x17 0 0 0 1 0x20 ⟨0, 0, 0, 0, 0⟩ ⟨0x11, 0, 0, 0, 0⟩ ⟨0x10, 0, 0, 0, 0⟩ ⟨0, 0, 0, 0, 0⟩].all (·.wf .V 2) = true := by decide +kernel

/-- R329, R159, R275, R306, R226, R57, R350: the other classes. -/
theorem smoke_units : refuses .V [.orient2 one (ty 2) false false 1 1, .segx one (ty 1) false false 0x900 1, .gate one (ty 1) 256 0 0 1, .gate one (ty 1) 0 8 0 1,
      .rcpset one 256 1, .rcpclr one 2048 1, .qpopRow one 0 false 1 1, .qpushRow one 0 2048] = true
    ∧ refuses .M [.mmt one 2048 0 0 0, .mmt one 0 0x8F8 0 0, .mmt one 0 0 3 0, .mmv one 0 0 0 8, .mldw one 2 0 0 0 0, .mbcw one 0 8 0 0 0 0, .mzero one 2048,
      .mdeq one 4 false false false 0 0 0, .mdeq one 1 false false true 0 0 1, .mdeq one 1 true false true 0x8F9 0 0, .mstat one 0 2 0, .mstat one 0 0 1] = true
    ∧ refuses .X [.xcopy one 0 false 256 0 0, .xgath one 4 0 1 0 1, .xscat one 0 64 1 0 1, .xfill one 0 16 0 0] = true
    ∧ refuses .S [.eres one 0 0 0 3, .epin one 0 0 4, .efetch one 0 0 0 2, .qpop one 0 false 1 1, .qpushRow one 0 0, .qstat one 256 0, .qbind one 0 0 0 1, .rcpdef one 0 4 0,
      .sldc 0 0 4, .spen 1 false 0, .smovImm 0 4096, .scmp 0 0 6, .sjmp 8192, .ctxCreate 64, .ctxBadCommand 0 7, .queBadCommand 0 3, .peerLakeAccess 0 (.release 0),
      .unknownCommand (.transport false) 0xC000, .siteFreeze 0 9, .registerWrite 0 2 0] = true
    ∧ [Instr.qpop one 255 true 15 63, .rcpdef one 255 3 63, .sjmp (-8192), .ctxCreate 63, .ctxBadCommand 0 0, .registerWrite 0 8 0].all (·.wf .S 1) = true := by
  decide +kernel

/-! ### States to run one instruction in -/

/-- Group 0 of context 0 on core 0 with all four streams; engine `e` stands at 0x1000, whose page of 4 KiB maps to Lake. -/
def at_ (e : Engine) : State :=
  let s := State.reset.withStreamWord e 0
  { s with dev := { s.dev with cur := { eng := e, key := keyOf 0 0, pc := 0x1000, group := 0x1000, next := 0x1008, link := 0x1018 } } }

/-- The device of a state changed. -/
def upd (s : State) (f : Dev → Dev) : State := { s with dev := f s.dev }

/-- The group that runs changed. -/
def inGrp (s : State) (f : Group → Group) : State := upd s (fun d => d.setGrp (f d.grp))

/-- The stream that runs changed. -/
def inStm (s : State) (f : Stream → Stream) : State := upd s (fun d => d.setStm (f d.stm))

/-- A stream of engine `e` with registers. -/
def regs (e : Engine) (l : List (Nat × Reg)) : State := inStm (at_ e) (fun x => { x with r := l })

/-- A register value without poison, and with poison. -/
def clean (v : Word) : Reg := ⟨v, false⟩
def tainted (v : Word) : Reg := ⟨v, true⟩

/-- The context of the group changed. -/
def inCtx (s : State) (f : Ctx → Ctx) : State := upd s (fun d => d.setCtx 0 (f (d.ctx 0)))

/-- A V stream whose window holds rows. -/
def rows (l : List (Nat × Row)) : State := inGrp (at_ .V) (fun g => { g with rows := l })

/-- The next state of an outcome has a property. -/
def holds (o : Host.Outcome State Fault Refusal) (p : State → Bool) : Bool :=
  match o with
  | .next u => p u
  | _ => false

/-- The instruction took a fault of a cause with an address field. -/
def faulted (c : Nat) (a : Word) (u : State) : Bool :=
  match u.dev.verdict with
  | .trapped t => t.cause == c && t.addr == a
  | _ => false

/-- A computation gives a result with a property. -/
def gives {α : Type} (r : Res α) (p : α → Bool) : Bool :=
  match r with
  | .ok x => p x
  | _ => false

/-- A computation stops at a fault of a cause. -/
def traps {α : Type} (r : Res α) (c : Nat) : Bool :=
  match r with
  | .error (.trap t) => t.cause == c
  | _ => false

theorem gives_ok {α : Type} {r : Res α} {p : α → Bool} (h : gives r p = true) : ∃ x, r = .ok x ∧ p x = true := by
  cases r with
  | ok x => exact ⟨x, rfl, h⟩
  | error e => cases h

theorem traps_cause {α : Type} {r : Res α} {c : Nat} (h : traps r c = true) : ∃ t, r = .error (.trap t) ∧ t.cause = c := by
  cases r with
  | ok x => cases h
  | error e =>
    cases e with
    | wait w => cases h
    | trap t => exact ⟨t, rfl, by simpa [traps] using h⟩

/-! ### Scalar instructions: results by hand from R92, R96 to R99, R102 to R108 -/

theorem test_add_wraps_with_poison :
    holds (exec (.add one 3 1 2) (regs .S [(1, clean (BitVec.allOnes 64)), (2, tainted 1)])) (fun u => u.dev.reg 3 == tainted 0) = true := by decide

theorem test_zero_register : holds (exec (.li one 0 5) (at_ .S)) (fun u => u.dev.reg 0 == {} && u.dev.stm.r == []) = true
    ∧ holds (exec (.li one 0 5) (at_ .V)) (fun u => u.dev.reg 0 == clean 5) = true := by decide

theorem test_div_by_zero_and_overflow :
    holds (exec (.div one false 3 1 2) (regs .S [(1, clean 7)])) (fun u => u.dev.reg 3 == clean (BitVec.allOnes 64)) = true
    ∧ holds (exec (.rem one false 3 1 2) (regs .S [(1, clean (BitVec.ofInt 64 (-7))), (2, clean 2)])) (fun u => u.dev.reg 3 == clean (BitVec.ofInt 64 (-1))) = true := by
  decide

theorem test_mulh_signed :
    holds (exec (.mulh one false 3 1 2) (regs .S [(1, clean (BitVec.allOnes 64)), (2, clean 2)])) (fun u => u.dev.reg 3 == clean (BitVec.allOnes 64)) = true
    ∧ holds (exec (.mulh one true 3 1 2) (regs .S [(1, clean (BitVec.allOnes 64)), (2, clean 2)])) (fun u => u.dev.reg 3 == clean 1) = true := by decide

theorem test_shift_takes_six_bits :
    holds (exec (.shl one 3 1 2) (regs .S [(1, clean 1), (2, clean 65)])) (fun u => u.dev.reg 3 == clean 2) = true
    ∧ holds (exec (.sarImm one 3 1 63) (regs .S [(1, clean (BitVec.ofNat 64 (2 ^ 63)))])) (fun u => u.dev.reg 3 == clean (BitVec.allOnes 64)) = true := by decide

theorem test_rotate_and_insert :
    holds (exec (.rotImm one 3 1 4) (regs .S [(1, clean 0x1F)])) (fun u => u.dev.reg 3 == clean 0xF000000000000001) = true
    ∧ holds (exec (.ins one 3 1 4 7) (regs .S [(1, clean 0xABC), (3, clean 0x1111)])) (fun u => u.dev.reg 3 == clean 0x1BC1) = true := by decide

theorem test_ext_and_lih :
    holds (exec (.ext one false 3 1 4 3) (regs .S [(1, clean 0xF0)])) (fun u => u.dev.reg 3 == clean (BitVec.allOnes 64)) = true
    ∧ holds (exec (.lih one 3 0x1FFFFFF) (regs .S [(3, clean 5)])) (fun u => u.dev.reg 3 == clean 0xFFFFFF8000000005) = true := by decide

theorem test_counts :
    holds (exec (.clz one 3 0) (at_ .S)) (fun u => u.dev.reg 3 == clean 64) = true
    ∧ holds (exec (.popc one 3 1) (regs .S [(1, clean (BitVec.allOnes 64))])) (fun u => u.dev.reg 3 == clean 64) = true := by decide

theorem test_cmp_and_select :
    holds (exec (.cmp one true 2 5 1 2) (regs .S [(1, clean 1), (2, clean (BitVec.allOnes 64))])) (fun u => u.dev.creg 5 == ⟨true, false⟩) = true
    ∧ holds (exec (.cmp one false 2 5 1 2) (regs .S [(1, clean 1), (2, clean (BitVec.allOnes 64))])) (fun u => u.dev.creg 5 == ⟨false, false⟩) = true
    ∧ holds (exec (.sel one 3 1 2 5) (regs .S [(1, clean 7), (2, clean 8)])) (fun u => u.dev.reg 3 == clean 8) = true := by decide

/-- 1 + 2 = 3 in FP32. -/
theorem test_float_add : holds (exec (.fadd one 1 3 1 2) (regs .S [(1, clean 0x3F800000), (2, clean 0x40000000)])) (fun u => u.dev.reg 3 == clean 0x40400000) = true := by
  decide

/-- The three conversions that R98 works out: 3.0 × 10^9 in FP64 to .s32, .z32 and .f16. -/
theorem test_fcvt_examples :
    holds (exec (.fcvt one 7 4 5 4) (regs .S [(4, clean 0x41E65A0BC0000000)])) (fun u => u.dev.reg 5 == clean 0x7FFFFFFF && u.dev.grp.sflags == fOF) = true
    ∧ holds (exec (.fcvt one 10 4 5 4) (regs .S [(4, clean 0x41E65A0BC0000000)])) (fun u => u.dev.reg 5 == clean 0xB2D05E00 && u.dev.grp.sflags == 0) = true
    ∧ holds (exec (.fcvt one 3 4 5 4) (regs .S [(4, clean 0x41E65A0BC0000000)])) (fun u => u.dev.reg 5 == clean 0x7C00 && u.dev.grp.sflags == fOF ||| fNX) = true := by
  decide

theorem test_fclass_negative_zero : holds (exec (.fclass one 1 3 1) (regs .S [(1, clean 0x80000000)])) (fun u => u.dev.reg 3 == clean 8) = true := by decide

/-- R102: a byte stored is the low byte; a sign-extended load of it reads back. -/
theorem test_store_byte : holds (exec (.st one 5 0 1 2 3) (regs .S [(1, clean 0x1FF), (2, clean 0x1100)]))
    (fun u => Memory.byte u.dev.mem 0x1103 == 0xFF && Memory.byte u.dev.mem 0x1104 == 0) = true := by decide +kernel

theorem test_load_signed : holds (exec (.ld one 5 0 3 2 0) (upd (regs .S [(2, clean 0x1100)]) (fun d => { d with mem := d.mem.writeBytes 0x1100 [0x80, 0x7F] })))
    (fun u => u.dev.reg 3 == clean 0xFFFFFFFFFFFFFF80) = true := by decide +kernel

/-- R101: a misaligned address is cause 0x05, a page without a translation 0x08, a non-canonical address 0x0B. -/
theorem test_load_faults :
    holds (exec (.ld one 0 0 3 2 0) (regs .S [(2, clean 0x1004)])) (faulted 5 0x1004) = true
    ∧ holds (exec (.ld one 0 0 3 2 0) (regs .S [(2, clean 0x5000)])) (faulted 8 0x5000) = true
    ∧ holds (exec (.ld one 0 0 3 2 0) (regs .S [(2, clean 0x4000000000000000)])) (faulted 0xB 0x4000000000000000) = true := by decide +kernel

/-- R107, R108: AMO adds and returns the old value; CAS stores where the value is the expected one. -/
theorem test_atomics :
    holds (exec (.amo one 0 0 0 3 2 1) (upd (regs .S [(1, clean 5), (2, clean 0x1100)]) (fun d => { d with mem := d.mem.writeBytes 0x1100 [0xFF] })))
      (fun u => u.dev.reg 3 == clean 0xFF && Memory.read u.dev.mem 0x1100 8 == 0x104) = true
    ∧ holds (exec (.cas one 0 0 4 3 2 1) (regs .S [(1, clean 5), (2, clean 0x1100), (3, clean 1)]))
      (fun u => u.dev.reg 3 == clean 0 && u.dev.creg 4 == ⟨false, false⟩ && Memory.read u.dev.mem 0x1100 8 == 0) = true := by decide +kernel

/-! ### Control, barriers and the system (R206 to R209, R243 to R250, R265 to R267) -/

theorem test_prepare_and_branch :
    holds (exec (.pbr one 1 (-2)) (at_ .S)) (fun u => u.dev.breg 1 == 0xFF0) = true
    ∧ holds (exec (.br one 1 0 0 0) (inStm (at_ .S) (fun x => { x with b := [(1, 0x2000)] }))) (fun u => u.dev.stm.pend == some ⟨0x2000, 2, 0, none⟩) = true
    ∧ holds (exec (.brl one 1 2 0 0 0) (at_ .S)) (fun u => u.dev.breg 2 == 0x1018) = true := by decide

theorem test_loop_runs_and_ends :
    holds (exec (.loop one true 1 1) (regs .S [(1, clean 2)])) (fun u => u.dev.stm.loops == [⟨0x1008, 3, 1⟩]) = true
    ∧ holds (exec (.loop one false 0 0) (at_ .S)) (fun u => u.dev.stm.skip == some (0, 0x1008)) = true
    ∧ holds (exec (.lend one) (inStm (at_ .S) (fun x => { x with loops := [⟨0x1000, 3, 1⟩] }))) (fun u => u.dev.stm.loops == [⟨0x1000, 2, 2⟩] && u.dev.stm.pc == 0x1000) = true
    ∧ holds (exec (.lend one) (at_ .S)) (faulted 2 0x1000) = true := by decide

/-- R265 to R267: a barrier of one arrival is released by it; BARW of a past phase goes on. -/
theorem test_barrier :
    holds (exec (.bari one false 3 1) (regs .S [(1, clean 2)])) (fun u => u.dev.barrier false 3 == ⟨.armed, 0, 2, 2, 0⟩) = true
    ∧ holds (exec (.bara one false 3) (upd (at_ .S) (fun d => d.setBarrier false 3 ⟨.armed, 0, 1, 1, 0⟩)))
      (fun u => (u.dev.barrier false 3).state == .released && (u.dev.barrier false 3).phase == 1 && u.dev.stm.arrival.isSome) = true
    ∧ holds (exec (.barw one false 3) (at_ .S)) (faulted 0x19 3) = true := by decide

theorem test_retire_and_event :
    holds (exec (.retire one) (at_ .M)) (fun u => u.dev.stm.retired && (Map.find u.dev.groups 0).isSome) = true
    ∧ holds (exec (.sev one 0 9) (at_ .V)) (fun u => u.dev.grp.streamS.event && u.dev.grp.streamX.event && !u.dev.grp.streamV.event) = true
    ∧ holds (exec (.wfe one) (at_ .S)) (fun u => u.dev.verdict == .waiting .event) = true := by decide

/-- R206: TRAP holds the group with cause 0x20 and its code as the address, and returns behind itself. -/
theorem test_trap : holds (exec (.trap one 0x15) (at_ .S)) (fun u => faulted 0x20 0x15 u && u.dev.grp.state == .held && u.dev.grp.heldBy == some 0x20) = true := by
  decide +kernel

theorem test_csr :
    holds (exec (.csrw one 1 0x028) (inGrp (regs .S [(1, clean 3)]) (fun g => { g with sflags := 0x1F }))) (fun u => u.dev.grp.sflags == 0x1C) = true
    ∧ holds (exec (.csrr one 3 0x803) (at_ .S)) (faulted 9 0x1000) = true ∧ holds (exec (.csrr one 3 0x111) (at_ .S)) (faulted 4 0x111) = true := by decide +kernel

/-- R207: in service mode ERET leaves it; outside it is cause 0x09. -/
theorem test_eret : holds (exec (.eret one) (upd (at_ .S) (fun d => { d with cur := { d.cur with svc := true }, cores := [(0, { d.core 0 with service := true })] })))
      (fun u => !(u.dev.core 0).service) = true
    ∧ holds (exec (.eret one) (at_ .S)) (faulted 9 0x1000) = true := by decide +kernel

/-! ### Rows: results by hand from R115 to R144 -/

/-- A row from its lowest 32-bit lanes. -/
def row32 (l : List Nat) : Row := { v := rowOf 32 l }

/-- Lane `j` of 32 bits of a row of the group. -/
def lane32 (u : State) (r j : Nat) : Nat := laneAt 7 (u.dev.row r).v j

theorem test_integer_lanes :
    holds (exec (.viadd one (ty 7) 3 1 2) (rows [(1, row32 [0xFFFFFFFF, 5]), (2, row32 [1, 7])])) (fun u => lane32 u 3 0 == 0 && lane32 u 3 1 == 12 && lane32 u 3 511 == 0) = true
    ∧ holds (exec (.vmin one (ty 7) 3 1 2) (rows [(1, row32 [0xFFFFFFFF]), (2, row32 [1])])) (fun u => lane32 u 3 0 == 0xFFFFFFFF) = true
    ∧ holds (exec (.vmin one (ty 10) 3 1 2) (rows [(1, row32 [0xFFFFFFFF]), (2, row32 [1])])) (fun u => lane32 u 3 0 == 1) = true := by decide +kernel

theorem test_shifts_and_products :
    holds (exec (.vshr one (ty 7) 3 1 2) (rows [(1, row32 [0x80000000, 0x80000000]), (2, row32 [31, 32])])) (fun u => lane32 u 3 0 == 0xFFFFFFFF && lane32 u 3 1 == 0xFFFFFFFF) = true
    ∧ holds (exec (.vshl one (ty 7) 3 1 2) (rows [(1, row32 [1, 1]), (2, row32 [31, 32])])) (fun u => lane32 u 3 0 == 0x80000000 && lane32 u 3 1 == 0) = true
    ∧ holds (exec (.vimul one (ty 5) 3 1 2) (rows [(1, row32 [0x03FF]), (2, row32 [0x0302])])) (fun u => lane32 u 3 0 == 0x09FE) = true := by decide +kernel

theorem test_float_lanes :
    holds (exec (.vadd one (ty 1) 3 1 2) (rows [(1, row32 [0x3F800000]), (2, row32 [0x40000000])])) (fun u => lane32 u 3 0 == 0x40400000) = true
    ∧ holds (exec (.vneg one (ty 1) 3 1) (rows [(1, row32 [0x3F800000])])) (fun u => lane32 u 3 0 == 0xBF800000 && lane32 u 3 1 == 0x80000000) = true
    ∧ holds (exec (.vabs one (ty 7) 3 1) (rows [(1, row32 [0xFFFFFFFB])])) (fun u => lane32 u 3 0 == 5) = true := by decide +kernel

theorem test_mask_keeps_lanes :
    holds (exec (.vmov one ⟨7, true, 1⟩ 3 1) (inStm (rows [(1, row32 [7, 8]), (3, { row32 [1, 2] with p := true })]) (fun x => { x with k := [(1, ⟨1, false⟩)] })))
      (fun u => lane32 u 3 0 == 7 && lane32 u 3 1 == 2 && (u.dev.row 3).p) = true := by decide +kernel

theorem test_reduce_and_scan :
    holds (exec (.vred one (ty 7) 0 3 1) (rows [(1, row32 [1, 2, 3])])) (fun u => lane32 u 3 0 == 6) = true
    ∧ holds (exec (.vscan one (ty 7) 0 true 3 1) (rows [(1, row32 [1, 2, 3])])) (fun u => lane32 u 3 0 == 0 && lane32 u 3 2 == 3 && lane32 u 3 5 == 6) = true := by decide +kernel

theorem test_permute_and_iota :
    holds (exec (.vperm one (ty 7) 3 1 2) (rows [(1, row32 [1, 512]), (2, row32 [9, 8])])) (fun u => lane32 u 3 0 == 8 && lane32 u 3 1 == 0 && lane32 u 3 2 == 9) = true
    ∧ holds (exec (.viota one (ty 7) 3 (-1)) (at_ .V)) (fun u => lane32 u 3 0 == 0xFFFFFFFF && lane32 u 3 1 == 0) = true := by decide +kernel

theorem test_compress_and_expand :
    holds (exec (.vcmpr one ⟨7, true, 1⟩ 3 1 true 2) (inStm (rows [(1, row32 [7, 8, 9])]) (fun x => { x with k := [(1, ⟨5, false⟩)] })))
      (fun u => lane32 u 3 0 == 7 && lane32 u 3 1 == 9 && u.dev.reg 2 == clean 2) = true
    ∧ holds (exec (.vxpnd one ⟨7, true, 1⟩ 3 1) (inStm (rows [(1, row32 [7, 8])]) (fun x => { x with k := [(1, ⟨5, false⟩)] })))
      (fun u => lane32 u 3 0 == 7 && lane32 u 3 1 == 0 && lane32 u 3 2 == 8) = true := by decide +kernel

theorem test_compare_writes_mask :
    holds (exec (.vcmp one (ty 7) 2 3 1 2) (rows [(1, row32 [1, 5]), (2, row32 [4, 4])])) (fun u => u.dev.kreg 3 == ⟨1, false⟩) = true
    ∧ holds (exec (.vpopc one (ty 7) 3 1) (inStm (at_ .V) (fun x => { x with k := [(1, ⟨BitVec.ofNat 1024 (2 ^ 511 + 2 ^ 512), false⟩)] }))) (fun u => u.dev.reg 3 == clean 1) = true := by
  decide +kernel

/-- R28: a row outside the window is cause 0x04; R115: the port operand 0x803 needs a binding (R219). -/
theorem test_operand_faults :
    holds (exec (.vmov one (ty 7) 3 100) (inGrp (at_ .V) (fun g => { g with rowsN := 64 }))) (faulted 4 0x1000) = true
    ∧ holds (exec (.vmov one (ty 7) 3 0x803) (at_ .V)) (faulted 0x16 3) = true := by decide +kernel

theorem test_load_row :
    holds (exec (.vld one ⟨7, true, 1⟩ 0 3 2 4) (upd (inStm (at_ .V) (fun x => { x with r := [(2, clean 0x1100)], k := [(1, ⟨3, false⟩)] }))
        (fun d => { d with mem := d.mem.writeBytes 0x1104 (toBytes 8 0x500000004) })))
      (fun u => lane32 u 3 0 == 4 && lane32 u 3 1 == 5) = true := by decide +kernel

theorem test_store_row :
    holds (exec (.vst one ⟨7, true, 1⟩ 0 3 2 0) (inStm (rows [(3, row32 [1, 2, 3])]) (fun x => { x with r := [(2, clean 0x1100)], k := [(1, ⟨5, false⟩)] })))
      (fun u => Memory.read u.dev.mem 0x1100 4 == 1 && Memory.read u.dev.mem 0x1104 4 == 0 && Memory.read u.dev.mem 0x1108 4 == 3) = true := by decide +kernel

/-! ### Matrix, queues, recipes, transfers, residency -/

theorem test_mzero_clears_its_tile :
    holds (exec (.mzero one 1) (inGrp (at_ .M) (fun g => { g with view := ⟨32, 16, 1⟩, rows := [(47, row32 [1]), (48, { row32 [2] with sat := true, p := true }), (64, row32 [3])] })))
      (fun u => u.dev.row 48 == { dirty := true } && lane32 u 47 0 == 1 && lane32 u 64 0 == 3) = true := by decide +kernel

/-- R172: the index lanes and then the queue's format word; without one the group faults with cause 0x11. -/
theorem test_mmt_without_format : holds (exec (.mmt one 0 1 0 0) (at_ .M)) (faulted 0x11 0) = true := by decide +kernel

/-- A word queue 7 bound to port 3 in both directions, with entries. -/
def queued (e : Engine) (wide : Bool) (es : List Entry) : State :=
  upd (inGrp (at_ e) (fun g => { g with ports := [(3, ⟨7, 3, 0⟩)] }))
    (fun d => d.setQueue 7 { state := .opened, logd := 1, wide := wide, entries := es })

theorem test_queue_words :
    holds (exec (.qpush one 3 1) (inStm (queued .S false [⟨1, false⟩]) (fun x => { x with r := [(1, tainted 5)] }))) (fun u => (u.dev.queue 7).entries == [⟨1, false⟩, ⟨5, true⟩]) = true
    ∧ holds (exec (.qpush one 3 0) (queued .S false [{}, {}])) (fun u => u.dev.verdict == .waiting (.queue 3)) = true
    ∧ holds (exec (.qpop one 3 true 1 4) (queued .S false [⟨9, false⟩])) (fun u => u.dev.reg 4 == clean 9 && (u.dev.queue 7).entries == [] && u.dev.creg 1 == ⟨false, false⟩) = true
    ∧ holds (exec (.qpeek one 3 1 4) (queued .S false [])) (fun u => u.dev.creg 1 == ⟨false, false⟩) = true := by decide +kernel

theorem test_queue_rows :
    holds (exec (.qpopRow one 3 false 0 5) (queued .V true [⟨rowOf 32 [6], false⟩])) (fun u => lane32 u 5 0 == 6) = true
    ∧ holds (exec (.qpush one 3 1) (queued .S true [])) (faulted 0x16 3) = true := by decide +kernel

/-- R228, R229: bits of QSTAT; a bind of a queue that is FREE answers 1. -/
theorem test_qstat_and_qbind :
    holds (exec (.qstat one 3 4) (queued .S false [{}])) (fun u => (u.dev.reg 4).v == BitVec.ofNat 64 (1 + 2 * 2 ^ 13 + 2 ^ 26)) = true
    ∧ holds (exec (.qbind one 9 1 4 1) (inStm (at_ .S) (fun x => { x with r := [(1, clean 7)] }))) (fun u => u.dev.reg 4 == clean 1) = true := by decide +kernel

/-- R57 to R60: a recipe of one VMOV; its row tagged; tagging with an entry that is not valid is cause 0x15. -/
theorem test_recipe_entry :
    holds (exec (.rcpset one 3 0x14) (at_ .V)) (faulted 0x15 0x14) = true
    ∧ holds (exec (.rcpset one 3 0x14) (inGrp (at_ .V) (fun g => { g with recipes := [(3, { valid := true, words := [word 6 4 [(33, 0x900), (21, 5), (5, 1)]] })] })))
      (fun u => (u.dev.row 0x14).tag == .tagged 3) = true := by decide +kernel

/-- CRC-32C of nothing is the value it started from (R291); a fill of no bytes retires at once (R290). -/
theorem test_short_transfers :
    holds (exec (.xchk one 0 true 3 1 2) (inStm (at_ .X) (fun x => { x with r := [(1, clean 0x1100), (3, clean 0x123456789)] }))) (fun u => u.dev.reg 3 == clean 0x23456789) = true
    ∧ holds (exec (.xfill one 0 3 1 2) (inStm (at_ .X) (fun x => { x with r := [(1, clean 0x1104)] }))) (faulted 5 0x1104) = true := by decide +kernel

/-- R274, R290: one step fills the bytes up to the next page boundary and the end. -/
theorem test_fill_step :
    holds (exec (.transferStepComplete 0) (inStm (at_ .X) (fun x => { x with op := some ⟨.xfill one 0 3 1 2, 0, 0x1000, 0, [0x1100, 8, 0x0102030405060708, 0], [], [], {}, false, [], []⟩ })))
      (fun u => Memory.read u.dev.mem 0x1100 8 == 0x0102030405060708 && u.dev.grp.streamX.op == none) = true := by decide +kernel

/-- The check value of CRC-32C: the ASCII digits 1 to 9 give 0xE3069283. -/
theorem test_crc : crc32c ((List.range 9).map (fun i => BitVec.ofNat 8 (0x31 + i))) 0 = 0xE3069283 := by decide +kernel

/-- R292: an identifier of a model that the context may not use is cause 0x09; a poisoned one commits. -/
theorem test_residency_faults :
    holds (exec (.epin one 3 1 0) (at_ .S)) (faulted 9 0) = true
    ∧ holds (exec (.epin one 3 1 0) (regs .S [(1, tainted 0)])) (fun u => faulted 0x10 0 u && (u.dev.ctx 0).state == .killed) = true := by decide +kernel

/-- R331, R332: the points (0, 0), (1, 0), (0, 1) turn left. -/
theorem test_orient2_sign : (queryLanes qOrient2 false 1 1 ([[0], [0], [0x3F800000], [0], [0], [0x3F800000]].map (fun l => ⟨rowOf 32 l, false⟩))).head?.map
    (fun x => x.map (fun y => y.map (·.sign))) = some (some (some 1)) := by decide +kernel

/-! ### Steps of the sampler -/

/-- A step of unit 0 with registers and a list. -/
def stepping (g : List (Nat × Reg)) (l : List (Nat × Nat)) (prob : Bool) : State :=
  { State.reset with dev := State.reset.dev.setSampler 0 { run := some { g := g, list := l, prob := prob } } }

/-- A property of the step after an instruction. -/
def stepHolds (i : Instr) (s : State) (p : StepRun → Bool) : Bool := holds (exec i s) (fun u => ((u.dev.sampler 0).run.map p).getD false)

theorem test_step_registers :
    stepHolds (.sadd 3 1 2) (stepping [(1, clean 5), (2, tainted 6)] [] false) (fun r => r.reg 3 == tainted 11 && r.pc == 1) = true
    ∧ stepHolds (.smovImm 0 5) (stepping [] [] false) (fun r => r.reg 0 == {}) = true
    ∧ stepHolds (.semit 1) (stepping [(1, clean 0x100000007)] [] false) (fun r => r.emits == [7]) = true
    ∧ stepHolds (.sjmp (-1)) (stepping [] [] false) (fun r => r.ended == some 3) = true
    ∧ stepHolds .send (stepping [] [] false) (fun r => r.ended == some 0) = true := by decide +kernel

/-- R351 to R353: top-p keeps candidates until their sum reaches p; SSMAX of equal logits gives equal probabilities. -/
theorem test_step_lists :
    stepHolds .ssmax (stepping [] [(4, 0), (7, 0)] false) (fun r => r.list == [(4, 0x3F000000), (7, 0x3F000000)] && r.prob) = true
    ∧ stepHolds .stemp (stepping [] [(4, 0)] true) (fun r => r.ended == some 6) = true
    ∧ stepHolds .ssmax (stepping [] [(4, 0xFF800000)] false) (fun r => r.ended == some 1 && r.emits == [0]) = true := by decide +kernel

/-! ### Events -/

/-- R11, R12: power good leaves OFF for ROM-BOOT; a failed die seals the module off with cause 0x01. -/
theorem test_boot :
    holds (exec .allRailsGood { State.reset with mod := { State.reset.mod with life := .off } }) (fun u => u.mod.life == .romBoot) = true
    ∧ holds (exec (.selfTestDone ⟨false, true, [], 0, 0⟩) State.reset) (fun u => u.mod.life == .sealedOff && u.mod.sealCause == 1) = true := by decide +kernel

/-- R383: an idle port trains, and comes up DEGRADED at half its width. -/
theorem test_links :
    holds (exec (.lnkTrain 1) State.reset) (fun u => (u.dev.link 1).state == .training) = true
    ∧ holds (exec (.trainingDone 1 64 4 false) (upd State.reset (fun d => d.setLink 1 { state := .training }))) (fun u => (u.dev.link 1).state == .degraded) = true := by
  decide +kernel

/-- R193: CREATE of a slot without an image has status 4; a stop of a FREE slot has status 2. -/
theorem test_context_commands :
    holds (exec (.ctxCreate 5) (upd State.reset (fun d => d.setCtx 5 { asid := 9, maxgrp := 1, clumask := 1, fqBase := 1 }))) (fun u => (u.dev.ctx 5).cmdst == 2) = true
    ∧ holds (exec (.ctxCreate 5) { (upd State.reset (fun d => d.setCtx 5 { asid := 9, maxgrp := 1, clumask := 1, fqBase := 1 })) with mod := { State.reset.mod with life := .ready } })
        (fun u => (u.dev.ctx 5).cmdst == 4 && (u.dev.ctx 5).state == .free) = true
    ∧ holds (exec (.ctxStop 5) State.reset) (fun u => (u.dev.ctx 5).cmdst == 2) = true := by decide +kernel

/-- R364, R373: FREEZE of the spare of cluster 0 maps it out; QUIESCE leaves ACTIVE; WAKE in ACTIVE has status 2. -/
theorem test_sites_and_power :
    holds (exec (.siteFreeze 0 8) State.reset) (fun u => (u.dev.site 8).state == .mappedOut) = true
    ∧ holds (exec (.pwrQuiesce 0 false) State.reset) (fun u => (u.dev.cluster 0).power == .quiescing) = true
    ∧ holds (exec (.pwrWake 0 false) State.reset) (fun u => (u.dev.cluster 0).pwrCmdst == 2) = true := by decide +kernel

/-- R387: a write of counter 49 of the last site, kept to 48 bits; the module block clears its overflow bits. -/
theorem test_counters :
    holds (exec (.obsCntWrite 143 49 (BitVec.allOnes 64)) State.reset) (fun u => Map.get 0 (u.dev.block 143).vals 49 == 2 ^ 48 - 1) = true
    ∧ holds (exec (.obsOvfClear 144 1) (upd State.reset (fun d => { d with mcounters := { vals := [], ovf := 3 } }))) (fun u => (u.dev.block 144).ovf == 2) = true := by
  decide +kernel

/-- R206, R210, R211: a group saved to its image and placed again has its registers as the image holds them then. -/
theorem test_image :
    let d0 := (State.reset.withStreamWord .S 5).dev
    let d1 := { d0 with ctxs := Map.set d0.ctxs 0 { d0.ctx 0 with img := 0x10 } }
    let d2 := (d1.setGroup 0 { d1.group 0 with streamS := { (d1.group 0).streamS with r := [(3, ⟨0x1234, true⟩)] } }).suspend 0
    let d3 := { d2 with mem := d2.mem.write 0x11020 8 0x55AA }
    (((d2.place 0 0).group 0).streamS.r, ((d3.place 0 0).group 0).streamS.r, ((d3.place 0 0).group 0).streamS.pc)
      = ([(3, ⟨0x1234, true⟩)], [(3, ⟨0x1234, true⟩), (4, ⟨0x55AA, false⟩)], 0x1000) := by decide +kernel

/-! ### One step: fetch, decode, execute -/

/-- The step of a placed word runs it: LI s6, 100, with the PC behind it. -/
theorem test_step_li : holds (step (State.reset.withFetchWord 64 0x8150030000000064)) (fun u => u.dev.reg 6 == clean 100 && u.dev.stm.pc == 0x1008) = true := by
  decide +kernel

/-- A word of a class that no engine has is a fault of cause 0x01 or 0x02 at its address (R35, R36). -/
theorem test_step_refused_word : holds (step (State.reset.withFetchWord 64 (word 0xD 0 []))) (fun u => faulted 1 0x1000 u || faulted 2 0x1000 u) = true := by
  decide +kernel

/-- The step of a step-program word: SEMIT g3 emits a zero token. -/
theorem test_step_semit : holds (step (State.reset.withFetchWord 32 0x68180000)) (fun u => ((u.dev.sampler 0).run.map (·.emits)) == some [0]) = true := by
  decide +kernel

/-! ### Witnesses: for each statement of the obligations, states and operands that meet its hypotheses, clause by clause -/

/-- The stream in service mode on core 0. -/
def serving (s : State) : State :=
  upd s (fun d => { d with cur := { d.cur with svc := true }, cores := [(0, { d.core 0 with service := true, svc := d.grp.streamS })] })

/-- A core whose TLB also maps 0x2000 to the MMIO window. -/
def withMmio (s : State) : State :=
  upd s (fun d => d.setCore 0 { d.core 0 with tlb := (d.core 0).tlb ++ [⟨1, 12, 0x2000, 0xFF000000000, true, true, false, false, false, false⟩] })

/-- Context 0 with a residency window whose copy 0 of expert 0 holds 100 bytes in Pond. -/
def withWindow (s : State) (c : Copy) : State :=
  upd s (fun d => { d.setCtx 0 { d.ctx 0 with resPol := 1 + 5 * 2 ^ 42 } with
    res := { d.res with copies := [(0, c)], models := [(0, { valid := true, ctxmask := 1 })] } })

/-- An address of the window of `withWindow`. -/
def windowEa (x : Nat) : Word := BitVec.ofNat 64 (5 * 2 ^ 42 + x)

/-- `Dev.lets` as a computation. -/
def lets (s : State) (h : Hdr) : Bool := !s.dev.suppressed h && gives (s.dev.tokensReady h) (fun _ => true)

theorem lets_meets {s : State} {h : Hdr} (x : lets s h = true) : s.dev.lets h := by
  rw [lets, Bool.and_eq_true] at x
  obtain ⟨u, hu, -⟩ := gives_ok x.2
  exact ⟨by simpa using x.1, hu⟩

/-- A header with every field in use: last iteration only, tokens of V and X, a token to M. -/
def busyHdr : Hdr := ⟨true, 2, 5, 2⟩

/-- `lets` holds in every stream, in service mode, and of a header that waits for tokens in a loop once they are there. -/
theorem wit_lets : (∀ e ∈ engines, lets (at_ e) one) ∧ lets (serving (at_ .S)) one
    ∧ lets (inStm (inGrp (at_ .S) (fun g => { g with tokens := [(3, 1), (9, 1)] })) (fun x => { x with loops := [⟨0x1000, 1, 4⟩] })) busyHdr := by decide +kernel

theorem wit_IntegerResults : lets (regs .S [(1, clean 5), (2, tainted 7)]) one := by decide

theorem wit_ShiftAndFieldResults : lets (regs .S [(1, clean 5), (2, clean 64)]) one ∧ 63 < 64 ∧ 5 < 6 ∧ 0 + 63 < 64 ∧ 2 ^ 25 - 1 < 2 ^ 25
    ∧ 63 + 0 < 64 := by decide

theorem wit_IntegerResults_division :
    let s (a b : Word) := regs .S [(1, clean a), (2, clean b)]
    lets (s 5 0) one ∧ ((s 5 0).dev.reg 2).v = 0
    ∧ lets (s (BitVec.ofNat 64 (2 ^ 63)) (BitVec.allOnes 64)) one
    ∧ ((s (BitVec.ofNat 64 (2 ^ 63)) (BitVec.allOnes 64)).dev.reg 1).v.toInt = -2 ^ 63 ∧ ((s (BitVec.ofNat 64 (2 ^ 63)) (BitVec.allOnes 64)).dev.reg 2).v.toInt = -1
    ∧ lets (s 5 (BitVec.allOnes 64)) one ∧ ((s 5 (BitVec.allOnes 64)).dev.reg 2).v ≠ 0 ∧ ((s 5 (BitVec.allOnes 64)).dev.reg 1).v.toInt ≠ -2 ^ 63
    ∧ (at_ .S).dev.cur.eng = .S ∧ (at_ .V).dev.cur.eng ≠ .S ∧ lets (at_ .V) one := by decide

theorem wit_FloatResults : lets (regs .S [(1, clean 0x3F800000)]) one := by decide

theorem wit_FloatNaNAndRange :
    let s := regs .S [(1, clean 0x7FC00001), (2, clean 0x3F800000)]
    let nan (r : Nat) := (valF (fmtOf 1) (s.dev.fp 1 r)).isNan
    lets s one ∧ nan 1 = true ∧ nan 2 = false ∧ (∀ t ∈ [1, 2, 3, 4], lets s one ∧ t ∈ [1, 2, 3, 4]) := by decide

theorem wit_FloatCompareAndClass :
    let s := regs .S [(1, clean 0x7FC00000), (2, clean 0x80000000)]
    lets s one ∧ 7 < 8 ∧ (valF (fmtOf 1) (s.dev.fp 1 1)).isNan = true ∧ (valF (fmtOf 1) (s.dev.fp 1 2)).isNan = false
    ∧ (∃ u d, valF (fmtOf 1) (s.dev.fp 1 2) = .fin u 0 d) ∧ (∃ u d, valF (fmtOf 1) (s.dev.fp 1 0) = .fin u 0 d) := by
  refine ⟨by decide, by decide, by decide, by decide, ⟨true, 2 ^ 149, ?_⟩, ⟨false, 2 ^ 149, ?_⟩⟩ <;> decide

theorem wit_LoadResults :
    let s := withWindow (withMmio (regs .S [(1, tainted 0), (2, clean 0x1FF8), (3, clean 0x2000), (4, clean (windowEa 128)), (5, clean (windowEa 0))])) { size := 100, inPond := true, pond := [3] }
    let ok (r : Nat) (a : Acc) (t : Target) := gives (s.dev.accessS (s.dev.eaOf r 0) 8 8 a (s.dev.eaOf r 0)) (fun x => targetOf x.1 == t)
    lets s one ∧ (∀ r ∈ [2, 3, 4, 5], (s.dev.reg r).p = false) ∧ (s.dev.reg 1).p = true
    ∧ ok 2 .load .lake ∧ ok 3 .load .mmio ∧ ok 4 .load .zeros ∧ ok 5 .load .pond ∧ s.dev.stm.hoist = []
    ∧ ok 2 .advanced .lake ∧ traps (s.dev.accessS (s.dev.eaOf 3 0) 8 8 .advanced (s.dev.eaOf 3 0)) 9
    ∧ (inStm s (fun x => { x with hoist := [⟨6, 0x1FF8, 0, 0, 0x7F⟩] })).dev.stm.hoist.any (fun e => e.reg == 6 && e.ea == s.dev.eaOf 2 0 && e.t == 0 && e.sc == 0) := by
  decide +kernel

/-- A site of the cluster is frozen: accesses wait (R368). A peer page in reach of a port that is DOWN is cause 0x30, one of a port that trains waits. -/
theorem wit_LoadResults_stops :
    let s := regs .S [(2, clean 0x1FF8), (3, clean 0x2000), (4, clean 0x5000)]
    let frozen := upd s (fun d => d.setSite 1 { state := .frozen })
    let far (l : Link) := upd s (fun d => (d.setLink 1 { l with win := 1 }).setCore 0 { d.core 0 with tlb := (d.core 0).tlb ++ [⟨1, 12, 0x2000, 0x200000000000, true, true, false, false, false, false⟩] })
    let waits (s : State) (r : Nat) (a : Acc) : Bool := match s.dev.accessS (s.dev.eaOf r 0) 8 8 a (s.dev.eaOf r 0) with
      | .error (.wait _) => true
      | _ => false
    let stops (s : State) (r : Nat) (a : Acc) (c : Nat) : Bool := traps (s.dev.accessS (s.dev.eaOf r 0) 8 8 a (s.dev.eaOf r 0)) c
    lets frozen one ∧ waits frozen 2 .load = true ∧ waits frozen 2 .advanced = true ∧ lets (far {}) one ∧ stops (far {}) 3 .load 0x30 = true ∧ stops (far {}) 3 .advanced 0x30 = true
    ∧ waits (far { state := .training }) 3 .load = true ∧ waits (far { state := .up }) 3 .advanced = true ∧ stops s 4 .load 8 = true ∧ stops s 4 .advanced 8 = true := by decide +kernel

theorem wit_StoreResults :
    let s := withMmio (regs .S [(1, tainted 9), (2, clean 0x1FFF), (3, clean 0x2000)])
    lets s one ∧ (s.dev.reg 2).p = false ∧ (s.dev.reg 3).p = false ∧ ¬((s.dev.reg 1).p = true ∧ (2 : Nat) = 3) ∧ s.dev.lakeMask = 0
    ∧ gives (s.dev.accessS (s.dev.eaOf 2 0) 1 1 .store (s.dev.eaOf 2 0)) (fun x => targetOf x.1 == .lake)
    ∧ gives (s.dev.accessS (s.dev.eaOf 3 0) 8 8 .store (s.dev.eaOf 3 0)) (fun x => targetOf x.1 == .mmio)
    ∧ holds (exec (.st one 5 2 1 2 0) s) (fun u => u.dev.verdict == .done) = true := by decide +kernel

theorem wit_AtomicResults :
    let s := upd (regs .S [(1, tainted 9), (2, clean 0x1FF8), (3, clean 7), (4, clean 8)]) (fun d => { d with mem := d.mem.writeBytes 0x1FF8 [7] })
    lets s one ∧ (s.dev.reg 2).p = false
    ∧ gives (s.dev.accessS 0x1FF8 8 8 .atomic 0x1FF8) (fun x => x.2.ld x.1 8 == 7 && !x.2.linePoisoned (lineOf x.1)) = true
    ∧ (s.dev.reg 3).v.toNat % 2 ^ 64 = 7 ∧ (s.dev.reg 4).v.toNat % 2 ^ 64 ≠ 7 ∧ ¬((0 : Nat) = 3 ∧ (s.dev.reg 1).p = true) := by decide +kernel

theorem wit_CacheControl :
    let s := regs .S [(1, clean 0x1000), (2, clean 0), (3, clean (BitVec.ofNat 64 (2 ^ 20))), (4, clean 100)]
    lets s one ∧ s.dev.cur.svc = false ∧ (serving s).dev.cur.svc = true ∧ (∀ r ∈ [1, 2, 3, 4], (s.dev.reg r).p = false)
    ∧ canonical (s.dev.reg 1).v.toNat = true ∧ (s.dev.reg 2).v = 0 ∧ (s.dev.reg 4).v ≠ 0 ∧ (1 : Nat) < 2
    ∧ gives ((s.dev.cacheRuns 0x1000 0x1080).2.cleanRuns 0 1 (s.dev.cacheRuns 0x1000 0x1080).1) (fun _ => true) = true
    ∧ (s.dev.reg 1).v.toNat % 4096 = 0 ∧ (s.dev.reg 3).v.toNat % 4096 = 0 ∧ (s.dev.reg 3).v.toNat ≤ 2 ^ 20 ∧ (s.dev.reg 3).v.toNat ≠ 0
    ∧ (let d := s.dev.setGrp (Dev.dropWindow s.dev.grp 0)
       d.mappedBytes d.cur.core + 2 ^ 20 ≤ 2 ^ 20 ∧ ¬ d.grp.windows.any (fun x => x.2.1 < 0x1000 + 2 ^ 20 && 0x1000 < x.2.1 + x.2.2)) := by decide +kernel

theorem wit_BranchResults :
    let s := inStm (regs .S [(1, clean 0x2000), (2, clean 0x2004), (3, clean 0x4000000000000000), (4, tainted 0)]) (fun x => { x with c := [(1, ⟨true, false⟩), (2, ⟨false, true⟩)] })
    lets s one ∧ (let t : Word := s.dev.cur.pc + BitVec.ofInt 64 (-2 * 8)
      canonical t.toNat = true ∧ t.toNat % 8 = 0)
    ∧ (s.dev.reg 1).p = false ∧ canonical (s.dev.reg 1).v.toNat = true ∧ (s.dev.reg 1).v.toNat % 8 = 0
    ∧ (s.dev.reg 2).p = false ∧ canonical (s.dev.reg 2).v.toNat = true ∧ (s.dev.reg 2).v.toNat % 8 ≠ 0
    ∧ (s.dev.reg 3).p = false ∧ canonical (s.dev.reg 3).v.toNat = false ∧ (s.dev.reg 4).p = true
    ∧ s.dev.stm.pend = none ∧ (s.dev.creg 2).p = true ∧ (s.dev.creg 1).p = false ∧ (s.dev.creg 1).v = true ∧ (s.dev.creg 0).p = false ∧ (s.dev.creg 0).v = false
    ∧ 0 ≤ s.dev.stm.loops.length ∧ s.dev.cur.svc = false
    ∧ lets (inStm s (fun x => { x with pend := some ⟨0x2000, 2, 0, some 3⟩ })) one ∧ (inStm s (fun x => { x with pend := some ⟨0x2000, 2, 0, some 3⟩ })).dev.stm.pend.isSome = true
    ∧ ({} : Stream).pend = none := by
  decide +kernel

theorem wit_BranchResults_more :
    let s := regs .S []
    canonical (s.dev.cur.pc + BitVec.ofInt 64 (2 ^ 58 * 8) : Word).toNat = false ∧ s.dev.stm.loops.length < 1 ∧ (s.dev.creg 0).p = false ∧ (s.dev.creg 0).v = false
    ∧ (0 : Nat) = 0 ∧ (1 : Nat) ≠ 0 := by decide +kernel

theorem wit_LoopResults :
    let s (n : Nat) (k : Word) := inStm (regs .S [(1, tainted 2)]) (fun x => { x with loops := List.replicate n ⟨0x1000, k, 1⟩ })
    lets (s 0 0) one ∧ (s 0 0).dev.stm.pend = none ∧ ((s 0 0).dev.reg 1).p = true ∧ ((s 0 0).dev.reg 2).p = false
    ∧ lets (s 6 2) one ∧ (s 6 2).dev.stm.loops.length = 6 ∧ lets (s 5 2) one ∧ (s 5 2).dev.stm.loops.length ≠ 6
    ∧ ((if true then ((s 0 0).dev.reg 2).v else 0) + BitVec.ofNat 64 0 : Word) = 0 ∧ ((0 : Word) + BitVec.ofNat 64 1) ≠ 0
    ∧ lets (s 1 1) one ∧ ¬ (1 < (1 : Word).toNat) ∧ lets (s 1 2) one ∧ 1 < (2 : Word).toNat := by decide

theorem wit_SynchronizationResults :
    let s := at_ .S
    let go (x : Stream) : Stream := { x with rdvGo := true, event := true }
    let met := inGrp s (fun g => { g with streamV := { g.streamV with wait := .rendezvous 3, rdv := some 3 } })
    lets s one ∧ lets (inStm s go) one ∧ (inStm s go).dev.stm.event = true ∧ s.dev.stm.event = false ∧ s.dev.cur.svc = false ∧ (s.dev.reg 0).v = 0
    ∧ s.dev.stm.pend = none ∧ (inStm s go).dev.stm.rdvGo = true ∧ s.dev.stm.rdvGo = false ∧ s.dev.stm.op = none
    ∧ lets met one ∧ met.dev.partners 3 = [.V] ∧ (∀ e ∈ met.dev.partners 3, Dev.rdvMask (met.dev.grp.stream e) = some 3)
    ∧ (∀ e ∈ met.dev.partners 3, (met.dev.grp.stream e).op = none ∧ (met.dev.grp.stream e).retired = false)
    ∧ (∀ e ∈ engines, e ≠ met.dev.cur.eng → e ∉ met.dev.partners 3 → Dev.rdvMask (met.dev.grp.stream e) = none)
    ∧ ¬ Dev.allRetired ((s.dev.setStm { s.dev.stm with retired := true }).settle one false).grp
    ∧ Dev.allRetired (((inGrp s (fun g => { g with streamV := {}, streamM := {}, streamX := {} })).dev.setStm { s.dev.stm with retired := true }).settle one false).grp := by
  decide +kernel

theorem wit_SynchronizationResults_more :
    let s := inStm (regs .S [(1, clean (BitVec.ofNat 64 (2 ^ 18))), (2, clean (BitVec.ofNat 64 (2 ^ 19)))]) (fun x => { x with event := true })
    let meets (m : Nat) := inGrp s (fun g => { g with streamV := { g.streamV with wait := .rendezvous m, rdv := some m } })
    let gone := inGrp s (fun g => { g with streamV := { g.streamV with retired := true } })
    let busy := inStm s (fun x => { x with op := some { ins := .nop one, word := 0, pc := 0, step := 0, n := [], regs := [], rows := [], mask := {}, p := false, res := [] } })
    let control := upd s (fun d => d.setCore 0xF0 { d.core 0xF0 with slots := [(0, keyOf 0 0)] })
    let off (s : State) : Bool := engines.all (fun e => e == s.dev.cur.eng || (Dev.rdvMask (s.dev.grp.stream e)).isNone)
    (s.dev.reg 1).v.toNat = 2 ^ 18 + 0 ∧ 0 < 2 ^ 16 ∧ (s.dev.reg 2).v.toNat = 2 ^ 19 + 0 ∧ 0 < 2 ∧ control.dev.controlGroup (0xF0 + 0) = some (keyOf 0 0) ∧ ctxOf (keyOf 0 0) = control.dev.myCtx
    ∧ lets busy one ∧ busy.dev.stm.busy = true ∧ s.dev.stm.busy = false ∧ lets (meets 7) one ∧ Dev.rdvMask ((meets 7).dev.grp.stream .V) = some 7 ∧ (7 : Nat) ≠ 3 ∧ flag 3 Engine.V.num = true
    ∧ (∀ e ∈ engines, e ≠ .V → Dev.rdvMask ((meets 7).dev.grp.stream e) = none) ∧ lets gone one ∧ gone.dev.partners 3 = [.V] ∧ (gone.dev.grp.stream .V).retired = true ∧ off gone = true
    ∧ (serving s).dev.cur.svc = true ∧ lets (serving s) one ∧ off (serving s) = true ∧ (serving s).dev.stm.pend = none ∧ (serving s).dev.stm.rdvGo = false
    ∧ off s = true ∧ (∀ e ∈ s.dev.partners 3, (s.dev.grp.stream e).retired = false) ∧ (Map.find s.dev.groups s.dev.cur.key).isSome = true ∧ s.dev.grp.state ≠ .pending
    ∧ (s.dev.grp.stream .V).declared = true := by decide +kernel

theorem wit_BarrierResults :
    let s (x : Barrier) := upd (inStm (regs .S [(1, clean 65535), (2, clean 0)]) (fun y => { y with arrival := some ⟨false, 63, 0, 7⟩ })) (fun d => d.setBarrier false 63 x)
    let ok (x : Barrier) : Prop := lets (s x) one ∧ (s x).dev.noBarrier false = false ∧ (s x).dev.barrier false 63 = x
    ok {} ∧ ok ⟨.armed, 0, 1, 1, 7⟩ ∧ ok ⟨.counting, 0, 2, 1, 7⟩ ∧ ok ⟨.armed, 0, 2, 2, 65535⟩ ∧ ok ⟨.released, 0, 2, 2, 8⟩ ∧ (s {}).dev.myCtx = 0 ∧ (s {}).dev.stm.op = none
    ∧ ((s {}).dev.reg 1).v.toNat = 65535 ∧ ((s {}).dev.reg 2).v.toNat = 0 ∧ (s {}).dev.stm.arrival = some ⟨false, 63, Dev.clusterOf (s {}).dev.cur.core, 7⟩
    ∧ (at_ .S).dev.stm.arrival = none ∧ (at_ .S).dev.noBarrier true = false := by decide +kernel

theorem wit_BarrierResults_more :
    let s := at_ .S
    let held := upd s (fun d => d.setSite 3 { state := .migrating })
    let busy := inStm s (fun x => { x with load := some { ins := .nop one, word := 0, pc := 0, step := 0, n := [], regs := [], rows := [], mask := {}, p := false, res := [] } })
    let control := upd s (fun d => { d with cur := { d.cur with core := 0xF0 } })
    let other := inStm s (fun y => { y with arrival := some ⟨false, 63, 1, 7⟩ })
    lets held one ∧ held.dev.noBarrier false = false ∧ held.dev.barrierHeld false = true ∧ held.dev.barrierHeld true = false ∧ s.dev.barrierHeld false = false ∧ lets busy one ∧ busy.dev.stm.busy = true
    ∧ busy.dev.barrierHeld false = false ∧ lets (serving s) one ∧ (serving s).dev.noBarrier true = true ∧ control.dev.noBarrier false = true ∧ control.dev.noBarrier true = false
    ∧ other.dev.stm.arrival = some ⟨false, 63, 1, 7⟩ ∧ ¬((1 : Nat) = Dev.clusterOf other.dev.cur.core) ∧ 65536 ≤ ((regs .S [(1, clean 65536)]).dev.reg 1).v.toNat
    ∧ ((regs .S [(1, clean 1)]).dev.reg 1).v.toNat < 65536 := by decide +kernel

/-- Words of 8 bytes put into memory. -/
def poke (s : State) (a : Nat) (ws : List Nat) : State :=
  upd s (fun d => { d with mem := ws.foldl (fun (m : Memory × Nat) w => (m.1.writeBytes m.2 (toBytes 8 w), m.2 + 8)) (d.mem, a) |>.1 })

/-- A kernel object of an S stream (R230) with 8 bytes of code, in memory at 0x1400. -/
def withKernel (s : State) : State :=
  poke s 0x1400 [0x4E4B4441 + 2 ^ 32 + 2 ^ 48, 2 ^ 32 + 16 * 2 ^ 40, 0x40, 0, 0, 0, 0, 0x48]

theorem wit_SpawnResults :
    let s := inCtx (withKernel (regs .S [(1, clean 0x1400), (2, clean 0x1500)])) (fun c => { c with maxgrp := 2, clumask := 1 })
    let t := poke s 0x1500 [0x45504950 + 2 ^ 32, 0, 0x1400, 2 ^ 32 * 0xFFFFFFFF, 0xFFFFFFFFFFFFFFFF, 0xFFFFFFFFFFFFFFFF]
    lets s one ∧ s.dev.cur.svc = false ∧ s.dev.stm.pend = none ∧ (s.dev.reg 1).p = false ∧ s.dev.myCtx = 0
    ∧ gives (s.dev.verify (Dev.rdWord s.mod) 0 0x1400) (fun x => (x.2.kernel 0 x.1).regs ≤ 2048 && !x.2.isAbsent 0 && flag (x.2.ctx 0).clumask (7 / 8)
        && x.2.groupCount 0 < (x.2.ctx 0).maxgrp) = true
    ∧ gives ((inCtx s (fun c => { c with maxgrp := 1 })).dev.verify (Dev.rdWord s.mod) 0 0x1400) (fun x => (x.2.ctx 0).maxgrp ≤ x.2.groupCount 0) = true
    ∧ gives ((upd s (fun d => { d with lcores := [(127, 255)] })).dev.verify (Dev.rdWord s.mod) 0 0x1400) (fun x => x.2.isAbsent 127) = true
    ∧ gives (readWords (Dev.rdWord s.mod) t.dev 0x1500 2) (fun x => x.1 == [(0x45504950 + 2 ^ 32, false), (0, false)]) = true
    ∧ fld (0x45504950 + 2 ^ 32) 0 32 = 0x45504950 ∧ fld (0x45504950 + 2 ^ 32) 32 8 = 1 ∧ fld (0x45504950 + 2 ^ 32) 40 24 = 0
    ∧ Map.fresh (t.dev.ctx 0).pipes 16 = some 0 ∧ Map.find (s.dev.ctx 0).pipes (0x1400 % 16) = none
    ∧ (let u := inCtx s (fun c => { c with pipes := [(0, { stages := [] })] })
       ((Map.find (u.dev.ctx 0).pipes (0x1400 % 16)).map (·.draining)) = some false) := by decide +kernel

/-- The stages of that descriptor: one kernel, for group counts of 1 and 1. With 16 pipelines in use none is left. -/
theorem wit_SpawnResults_stages :
    let s := inCtx (withKernel (regs .S [(1, clean 0x1400), (2, clean 0x1500)])) (fun c => { c with maxgrp := 2, clumask := 1 })
    let t := poke s 0x1500 [0x45504950 + 2 ^ 32, 0, 0x1400, 1 + 2 ^ 16]
    let full := inCtx t (fun c => { c with pipes := (List.range 16).map (fun i => (i, { stages := [] })) })
    let ends (s : State) (f : Option Nat → Bool) : Bool := gives (Dev.readStages (Dev.rdWord s.mod) s.dev 0x1500 0 1) (fun r =>
      let v := Dev.verifyStages (Dev.rdWord s.mod) r.2 0 r.1
      v.2.2.isNone && v.2.1.length == 1 && f (Map.fresh (v.1.ctx 0).pipes 16))
    lets t one ∧ ends t (· == some 0) = true ∧ ends full (· == none) = true
    ∧ ((Map.find ((inCtx s (fun c => { c with pipes := [(0, { stages := [], draining := true })] })).dev.ctx 0).pipes (0x1400 % 16)).map (·.draining)) = some true := by decide +kernel

theorem wit_SystemResults :
    let s := serving (regs .S [(1, clean 0x1000), (2, clean 64), (3, clean 0xFFFF), (4, tainted 0)])
    lets s one ∧ gives (s.dev.csrRead 0xFFF) (fun _ => true) = false ∧ gives (s.dev.csrRead 0x803) (fun _ => true) = true ∧ gives (s.dev.csrWrite 0x803 0x2000) (fun _ => true) = true
    ∧ s.dev.cur.svc = true ∧ (∀ r ∈ [1, 2, 3], (s.dev.reg r).p = false) ∧ Dev.tlbiCheck 0 0x1000 64 0xFFFF = none
    ∧ lets (regs .V []) one ∧ gives ((regs .V []).dev.csrRead 0x040) (fun _ => true) = true := by decide +kernel

/-- An access of the V stream that waits for a link and holds a translation that an invalidation has removed. -/
def goneWait : AccWait := ⟨.stream 0 .V, some 1, [], [], [⟨0x1000, .load, 0x1000, ⟨1, 12, 0x1000, 0x1000, true, true, false, false, false, true⟩⟩]⟩

/-- With it, TLBS and an invalidation have something to wait for. -/
theorem wit_SystemResults_drains :
    let s := upd (serving (at_ .S)) (fun d => { d with waits := [goneWait] })
    lets s one ∧ s.dev.cur.svc = true ∧ s.dev.drains = true ∧ (serving (at_ .S)).dev.drains = false := by decide +kernel

theorem wit_PrivilegeAndCsrWrites :
    let s := regs .S [(1, clean 0x1F)]
    lets s one ∧ s.dev.cur.svc = false ∧ s.dev.cur.eng = .S ∧ 0x800 ≤ 0x800 ∧ 0x7FF < 0x800
    ∧ 0x7FF ≠ 0x060 ∧ 0x7FF ∉ [0x020, 0x021, 0x022, 0x023, 0x024, 0x025, 0x026, 0x027, 0x028, 0x030, 0x040, 0x050, 0x051]
    ∧ lets (serving s) one ∧ (serving s).dev.cur.svc = true ∧ -13 ≤ sext 0x13 5 ∧ sext 0x0D 5 ≤ 13 := by decide +kernel

theorem wit_FaultsOutsideService :
    let s := upd (inCtx (at_ .S) (fun c => { c with fqBase := 4, tail := 15 })) (fun d => d.setCore 0 { d.core 0 with svec := 0x8000 })
    let t : Trap := { cause := 5, addr := 0x1004 }
    s.dev.cur.svc = false ∧ t.other = none ∧ t.cause ≠ 0x10 ∧ t.cause ≠ 0x30 ∧ (Map.find s.dev.groups s.dev.cur.key).isSome = true ∧ s.dev.lakeMask = 0
    ∧ (s.dev.ctx 0).state = .running ∧ (s.dev.ctx 0).waiting = [] ∧ s.dev.myCtx = 0 ∧ Dev.fqFull { s.dev.ctx 0 with head := 1 } = false
    ∧ Dev.fqFull { s.dev.ctx 0 with tail := 14 } = false ∧ Dev.fqFull (s.dev.ctx 0) = true ∧ (s.dev.core 0).svec ≠ 0
    ∧ (Map.find s.dev.groups 0).map (·.core) = some 0 := by decide +kernel

theorem wit_ServiceModeFaults :
    let s := inCtx (at_ .S) (fun c => { c with fqBase := 4 })
    let t : Trap := { cause := 0x10, poison := true, pkind := 1 }
    s.dev.cur.svc = false ∧ t.other = none ∧ t.cause = 0x10 ∧ (s.dev.ctx 0).state ≠ .free ∧ (s.dev.ctx 0).state ≠ .killed ∧ Dev.fqFull (s.dev.ctx 0) = false
    ∧ (serving s).dev.cur.svc = true ∧ ((serving s).dev.core 0).nest = 0 ∧ (serving s).dev.siteOf 0 ≠ 255
    ∧ ((upd (serving s) (fun d => d.setCore 0 { d.core 0 with nest := 5 })).dev.core 0).nest ≠ 0 := by decide +kernel

theorem wit_ServiceEntry :
    let e : Pending := ⟨0, .V, 5, 0x1000, 0, 0x4000, 3, 0, false⟩
    let s (v : Word) := upd (at_ .S) (fun d => d.setCore 0 { d.core 0 with pending := [e, { e with seq := 2 }], svec := v })
    ((s 0x8000).dev.core 0).pending = [e, { e with seq := 2 }] ∧ ((s 0x8000).dev.core 0).service = false ∧ (0 : Nat) < 128 ∧ (s 0x8000).dev.siteRuns 0 = true
    ∧ ((s 0x8000).dev.core 0).svec ≠ 0 ∧ ((s 0).dev.core 0).svec = 0 ∧ (s 0).dev.siteRuns 0 = true := by decide +kernel

/-- A V stream that the hypotheses of the row statements are about: a full window, a mask, a view of FP32. -/
def vec : State := inStm (rows [(1, row32 [0xFFFFFFFF, 5]), (2, { row32 [1] with p := true })]) (fun x => { x with k := [(1, ⟨5, true⟩)], r := [(2, clean 0x1100), (3, tainted 0)] })

theorem wit_VectorRowResults :
    let i : Instr := .viadd one ⟨0, true, 1⟩ 2047 1 2
    let s := inGrp vec (fun g => { g with view := ⟨0, 16, 7⟩ })
    i.hdr? = some one ∧ (rowForm i).isSome = true ∧ lets s one ∧ s.dev.untagged ∧ s.dev.hasRow 2047 ∧ (∀ r ∈ [1, 2], s.dev.hasRow r)
    ∧ s.dev.vtype WellFormed.tInt 0 = .ok 7 ∧ ((rowForm i).map (fun f => (f.types, f.fD, f.srcs))) = some (WellFormed.tInt, 2047, [1, 2]) := by
  and_intros <;> first | decide +kernel | rfl

theorem wit_VectorLanes : lets vec one ∧ vec.dev.untagged ∧ vec.dev.hasRow 0 ∧ vec.dev.hasRow 2047 ∧ vec.dev.vtype (List.range' 5 6) 10 = .ok 10 ∧ vec.dev.vtype (List.range' 5 6) 5 = .ok 5
    ∧ isSigned 7 = true ∧ vec.dev.vtype WellFormed.tAll 10 = .ok 10 ∧ vec.dev.vtype WellFormed.tAll 5 = .ok 5 := by
  and_intros <;> first | decide +kernel | rfl

theorem wit_VectorMasks : lets vec one ∧ vec.dev.untagged ∧ vec.dev.hasRow 1 ∧ vec.dev.hasRow 2 ∧ 7 < 8 ∧ vec.dev.vtype WellFormed.tAll 10 = .ok 10
    ∧ vec.dev.vtype (if 5 < 6 then WellFormed.tFloatInt else WellFormed.tFloat) 10 = .ok 10 ∧ vec.dev.vtype (if 7 < 6 then WellFormed.tFloatInt else WellFormed.tFloat) 2 = .ok 2 := by
  and_intros <;> first | decide +kernel | rfl

theorem wit_VectorDataResults :
    lets vec one ∧ vec.dev.untagged ∧ (∀ r ∈ [0, 1, 2, 2047], vec.dev.hasRow r) ∧ vec.dev.vtype WellFormed.tFloat 1 = .ok 1 ∧ vec.dev.vtype WellFormed.tAll 1 = .ok 1
    ∧ 511 < laneCount 1 ∧ laneCount 1 ≤ 512 ∧ vec.dev.vtype [9, 10] 9 = .ok 9 ∧ 15 < laneBits 9 ∧ laneBits 9 ≤ 16
    ∧ (rowUnpk 0 0 1 0 0).isSome = true ∧ (rowUnpk 0 0 1 0 (rowOf 32 [0xFF0])).isNone = true
    ∧ gives (vec.dev.cvtTypes 2 1 0) (fun _ => true) = true := by
  and_intros <;> first | decide +kernel | rfl

/-- VPACK of zeros under zero scales gives a row, and a reserved scale code gives none. -/
theorem wit_VectorDataResults_pack : (rowPack 0 0 (fun _ => none) 1 0 0).isSome = true ∧ (rowPack 0 0 (fun _ => none) 1 0 (rowOf 32 [0xFF0])).isNone = true := by decide +kernel

theorem wit_OperandForms :
    let s := queued .V true [⟨rowOf 32 [6], false⟩]
    let i : Instr := .viadd one (ty 7) 0x803 0x803 0xA00
    i.hdr? = some one ∧ lets s one ∧ s.dev.vtype WellFormed.tInt 7 = .ok 7 ∧ gives (s.dev.old 0x803 true) (fun _ => true)
    ∧ gives (s.dev.readSrcs [0x803, 0xA00]) (fun _ => true) ∧ gives (s.dev.resolve 3 false true .operand) (fun q => gives (s.dev.pop1 3 q) (fun _ => true))
    ∧ gives (s.dev.resolve 3 true true .operand) (fun _ => true) ∧ gives (s.dev.dst 0x803 0 false true) (fun _ => true)
    ∧ gives ((inGrp s (fun g => { g with rowsN := 2016 })).dev.old 2015 true) (fun _ => true) = true ∧ 2016 ≤ 2016 ∧ 2047 < 0x800
    ∧ gives ((inGrp s (fun g => { g with rowsN := 2016 })).dev.readSrcs [0xA01, 0]) (fun _ => true) = true
    ∧ (rowForm (.viadd one (ty 7) 0x803 0xA00 0x900)).map (·.srcs) = some [0xA00, 0x900] ∧ gives (s.dev.src 0xA00) (fun _ => true) = true ∧ gives (s.dev.src 0x900) (fun _ => true) = false := by
  and_intros <;> first | decide +kernel | rfl

theorem wit_VectorMemory :
    let s := inStm vec (fun x => { x with k := [(1, ⟨5, false⟩)] })
    let act := s.dev.active ⟨7, true, 1⟩ 512
    lets s one ∧ s.dev.untagged ∧ (∀ r ∈ [0, 1, 2047], s.dev.hasRow r) ∧ s.dev.vtype WellFormed.tAll 7 = .ok 7 ∧ (s.dev.reg 3).p = true ∧ (s.dev.reg 2).p = false
    ∧ gives (s.dev.lanesAccess .advanced 4 (Dev.laneEas act 0x1100 4)) (fun x => x.1.length == 2) = true
    ∧ gives (s.dev.lanesAccess .laneStore 4 (Dev.laneEas act 0x1100 4)) (fun _ => true) = true
    ∧ gives (s.dev.lanesAccess .advanced 4 (Dev.indexEas act 0x1100 4 (rowOf 32 [0, 0, 9]))) (fun _ => true) = true
    ∧ gives (s.dev.lanesAccess .laneStore 4 (Dev.indexEas act 0x1100 4 (rowOf 32 [0, 0, 9]))) (fun _ => true) = true
    ∧ gives (s.dev.dst 0 0 false false) (fun _ => true) = true ∧ (s.dev.row 2).p = true ∧ (s.dev.row 1).p = false := by
  and_intros <;> first | decide +kernel | rfl

theorem wit_VectorAtomics :
    let s := inStm vec (fun x => { x with k := [(1, ⟨5, false⟩)] })
    let act := s.dev.active ⟨7, true, 1⟩ 512
    let es := Dev.indexEas act 0x1100 4 (rowOf 32 [0, 0, 9])
    lets s one ∧ s.dev.untagged ∧ s.dev.hasRow 1 ∧ s.dev.vtype (if (0 : Nat) = 9 then [1] else [7, 10]) 7 = .ok 7 ∧ s.dev.vtype (if (9 : Nat) = 9 then [1] else [7, 10]) 1 = .ok 1
    ∧ (s.dev.reg 3).p = true ∧ (s.dev.reg 2).p = false ∧ (s.dev.row 2).p = true ∧ (s.dev.row 1).p = false
    ∧ gives (s.dev.lanesAccess .atomic 4 es) (fun x =>
        let ls := (es.zip x.1).map (fun e => (e.1.1, e.1.2, e.2.2))
        (x.2.amoLanes 0 0 false (s.dev.row 1).v [] false ls).2.2.2.isNone && ls.length == 2) = true
    ∧ (let p := upd s (fun d => d.setLinePoison 0x44 true)
       gives (p.dev.lanesAccess .atomic 4 es) (fun x =>
        let ls := (es.zip x.1).map (fun e => (e.1.1, e.1.2, e.2.2))
        (x.2.amoLanes 3 0 false (p.dev.row 1).v [] false ls).2.2.2.isSome) = true) := by
  and_intros <;> first | decide +kernel | rfl

theorem wit_NestForms :
    let s := inStm (at_ .V) (fun x => { x with r := [(3, clean 0x1100), (4, clean 0x1200), (5, clean 0x1FFC)] })
    let z : Five := ⟨0, 0, 0, 0, 0⟩
    let u : Five := ⟨0x11, 0x11, 0x11, 0x11, 0x11⟩
    let stage (ba e : Nat) (x : Five) (s5 : Five) := s.dev.nestStage false 6 3 ba 0 e 0xE0 x s5 s5 z
    lets s one ∧ s.dev.stm.load = none ∧ 1 ≤ 1 ∧ 5 ≤ 5
    ∧ gives (stage 4 1 ⟨2, 0, 0, 0, 0⟩ ⟨0x11, 0, 0, 0, 0⟩) (fun f => f.steps == 2 && (s.dev.nestGo f 0 f.steps).2.2.isNone) = true
    ∧ gives (stage 5 1 ⟨2, 0, 0, 0, 0⟩ ⟨0x11, 0, 0, 0, 0⟩) (fun f => ((s.dev.nestGo f 0 f.steps).2.2.map (·.1)) == some 1) = true
    ∧ gives (stage 4 5 ⟨2, 3, 0, 1, 1⟩ u) (fun f => f.ext.any (· == 0) && f.ext.length == 5) = true := by decide +kernel

/-- A store nest on a core whose cluster has a frozen site waits at its first element. -/
theorem wit_NestForms_waits :
    let s := upd (inStm (at_ .V) (fun x => { x with r := [(3, clean 0x1100), (4, clean 0x1200)] })) (fun d => d.setSite 1 { state := .frozen })
    lets s one ∧ s.dev.stm.load = none
    ∧ gives (s.dev.nestStage false 6 3 4 0 1 0xE0 ⟨2, 0, 0, 0, 0⟩ ⟨0x11, 0, 0, 0, 0⟩ ⟨0x11, 0, 0, 0, 0⟩ ⟨0, 0, 0, 0, 0⟩) (fun f => match (s.dev.nestGo f 0 f.steps).2.2 with
        | some (0, .wait _) => true
        | _ => false) = true := by decide +kernel

theorem wit_QueryResults :
    let q := qOrient2
    let s := rows [(17, row32 [1]), (18, row32 [0x7F800000, 2]), (22, row32 [0, 1]), (23, row32 [1, 1]), (24, row32 [2, 2])]
    let m (s : State) (k : Nat) := inStm s (fun x => { x with k := [(1, ⟨BitVec.ofNat 1024 k, false⟩)] })
    let v : VField := ⟨1, true, 1⟩
    let on (s : State) (j : Nat) := decide (j < 512) && s.dev.laneOn v 1 j
    let t (n : Nat) : List RowData := (List.range 9).map (fun j => ⟨((m s n).dev.row (16 + j)).v, false⟩)
    (Instr.orient2 one v true false 2046 16, q) ∈ [(Instr.orient2 one v true false 2046 16, qOrient2), (.orient3 one v true false 2046 16, qOrient3)]
    ∧ lets (m s 3) one ∧ (m s 3).dev.untagged ∧ s.dev.vtype [1, 4] 1 = .ok 1 ∧ 2046 < 0x800 ∧ 2046 + 1 < s.dev.grp.rowsN ∧ 16 + 9 ≤ s.dev.grp.rowsN
    ∧ s.dev.stm.op = none ∧ s.dev.unitBusy .V (fun x => (queryKind x).isSome) = false
    ∧ (inStm s (fun x => { x with op := some (Dev.mbcwLoad (.retire one) 0 0 0 0 0 0) })).dev.stm.op ≠ none ∧ on (m s 2) 1 = true ∧ on (m s 2) 0 = false
    ∧ duplicate ((laneIndices q 1 (t 2)).getD 1 []) = some 1 ∧ nonFinite (((laneCoords q 1 (t 1)).getD 0 []).getD 2 0) = true
    ∧ duplicate ((laneIndices q 1 (t 1)).getD 0 []) = none ∧ (inGrp s (fun g => { g with rowsN := 2016 })).dev.grp.rowsN ≤ 2015 + 1 := by
  and_intros <;> first | decide +kernel | rfl

/-- A query in progress whose only step is stage A, and one that goes on to stage C. -/
theorem wit_QueryResults_steps :
    let o (z : Nat) : LongOp :=
      { ins := .orient2 one (ty 1) false false 30 16, word := 0, pc := 0x1000, step := 0, n := Dev.qStaged 1 false 30 true, regs := [],
        rows := ([[0], [0], [z], [0], [2 * z], [0]].map (fun l => ⟨rowOf 32 l, false⟩)), mask := ⟨1, false⟩, p := false, res := [] }
    let s (z : Nat) := inStm (at_ .V) (fun x => { x with op := some (o z) })
    (s 0).dev.opOf 0 .V = some (o 0) ∧ queryKind (o 0).ins = some qOrient2 ∧ querySteps (queryLanes qOrient2 false 1 1 (o 0).rows) ≤ 0 + 1
    ∧ 0 + 1 < querySteps (queryLanes qOrient2 false 1 1 ([[0x3F800000], [0x3F800000], [0x40000000], [0x40000000], [0x40400000], [0x40400000]].map (fun l => ⟨rowOf 32 l, false⟩)))
    ∧ (∀ e ∈ ((s 0).dev.group 0).rows, e.2.tag = .live) ∧ ((s 0).dev.group 0).lent = []
    ∧ (let rs : List RowData := [[0x7B800000], [0x7B800000], [0x30800000], [0x30800000], [0x3F800000], [0x3F800000]].map (fun l => ⟨rowOf 32 l, false⟩)
       qOrient2.coords ≤ rs.length ∧ 0 < laneCount 1 ∧ (1 : MaskBits).getLsbD 0 = true ∧ (∀ c ∈ (laneCoords qOrient2 1 rs).getD 0 [], nonFinite c = false)
         ∧ ((queryLanes qOrient2 false 1 1 rs).getD 0 none).map (·.map (·.stage)) = some (some 2)) := by
  and_intros <;> first | decide +kernel | rfl

theorem wit_TileResults :
    let s := inGrp (at_ .M) (fun g => { g with view := ⟨1024, 64, 1⟩ })
    lets s one ∧ s.dev.stm.op = none ∧ s.dev.tileOk 16 = false ∧ s.dev.tileOk 15 = true ∧ (∀ e ∈ s.dev.grp.rows, Dev.isDropped e.2 = false) ∧ s.dev.untagged
    ∧ s.dev.vtype [1, 2, 3, 5, 6, 7] 0 = .ok 1 ∧ 960 + 64 ≤ s.dev.grp.rowsN ∧ 1984 < 0x800 ∧ 1984 + 64 ≤ s.dev.grp.rowsN ∧ s.dev.hasRow 2046 ∧ 2046 + 1 < s.dev.grp.rowsN := by
  and_intros <;> first | decide +kernel | rfl

theorem wit_TileResults_array :
    let s := at_ .M
    let mat : LongOp := { ins := .mmt one 0 1 0 0, word := 0, pc := 0, step := 0, n := [0, 1], regs := [], rows := [], mask := {}, p := false, res := [] }
    let busy := inStm s (fun x => { x with op := some mat })
    gives s.dev.arrayFree (fun _ => true) = true ∧ gives busy.dev.arrayFree (fun _ => true) = false ∧ lets busy one ∧ busy.dev.vtype [1, 2, 3, 5, 6, 7] 1 = .ok 1 := by
  and_intros <;> first | decide +kernel | rfl

/-- A format word of R153: 8-bit weights without scales, one column of one slab; and one of four strips and two slabs. -/
def fw1 : Nat := 4 * 2 ^ 60 + planes 4 * 2 ^ 57
def fwBig : Nat := fw1 + 511 * 2 ^ 24 + 256 * 2 ^ 33

theorem wit_MatrixIssue :
    let s (f : Nat) := inGrp (inStm (at_ .M) (fun x => { x with r := [(1, clean 0x1FC0), (2, clean 0x1FC4), (3, clean (windowEa 64))] })) (fun g => { g with q248 := [clean (BitVec.ofNat 64 f)], q249 := [{}], rows := [(1, row32 [0])] })
    let free (s : State) : Bool := gives s.dev.arrayFree (fun _ => true)
    let tileReady (f m : Nat) : Bool := (s f).dev.tileOk 127 && decide (m ≤ (s f).dev.grp.view.trows)
    let ready (f m : Nat) : Bool := tileReady f m && ((s f).dev.laneFault f ((s f).dev.row 1).v m).isNone
    let other := upd (s fw1) (fun d => d.setCore 0 { d.core 0 with weights := some 7 })
    let away := withWindow (s fw1) { size := 32768, fmt := 68 }
    lets (s 0) one ∧ (s 0).dev.untagged ∧ free (s 0) ∧ (s 0).dev.hasRow 1 ∧ (at_ .M).dev.grp.q248 = [] ∧ (at_ .M).dev.grp.q249 = [] ∧ fwOk fw1 = true ∧ fwOk fwBig = true ∧ fwOk (fw1 + 1) = false
    ∧ free (inStm (s fw1) (fun x => { x with op := some (Dev.mbcwLoad (.retire one) 0 0 0 0 0 0) })) = false
    ∧ Dev.loadsHalf (s fw1).dev.stm 1 = false ∧ Dev.loadsHalf (inStm (s fw1) (fun x => { x with load := some (Dev.mbcwLoad (.retire one) 1 0 0 0 0 0) })).dev.stm 1 = true
    ∧ (other.dev.core 0).weights ≠ none ∧ (other.dev.core 0).weights ≠ some other.dev.cur.key
    ∧ ((s fw1).dev.readyEntries .q248).length = 1 ∧ (at_ .M).dev.readyEntries .q248 = [] ∧ ((s fw1).dev.readyEntries .q249).length = 1 ∧ (at_ .M).dev.readyEntries .q249 = []
    ∧ ((s fw1).dev.readyEntries .q248).map (fun w => (w.v.setWidth 64 : Word).toNat) = [fw1] ∧ ready fw1 16 = true ∧ tileReady fw1 17 = false ∧ ((s fw1).dev.core 0).weights = none ∧ imageSize fw1 ≤ 131072 ∧ 131072 < imageSize fwBig
    ∧ tileReady fw1 1 = true ∧ ((inGrp (s fw1) (fun g => { g with rowsN := 1024, rows := [(1, row32 [1024])] })).dev.laneFault fw1 (rowOf 32 [1024]) 1) = some (1024, 0)
    ∧ ready fwBig 1 = true ∧ (s fw1).dev.grp.q249 = [{}] ∧ ((s fw1).dev.reg 1).p = false ∧ ((s fw1).dev.reg 1).v.toNat % 64 = 0 ∧ ((s fw1).dev.reg 2).v.toNat % 64 ≠ 0
    ∧ ((inStm (s fw1) (fun x => { x with r := [(1, tainted 0)] })).dev.reg 1).p = true
    ∧ (match Dev.handleReady 3 away.dev with | .error (.wait (.copy e)) => e == 0 | _ => false) = true
    ∧ gives (Dev.handleReady 3 (withWindow (s fw1) { size := 32768, inPond := true, pond := [3], fmt := 4 }).dev) (fun _ => true) = true
    ∧ gives (Dev.handleMore 3 (withWindow (s fw1) { size := 32768, inPond := true, pond := [3], fmt := 4 }).dev fw1) (fun _ => true) = true := by
  decide +kernel

theorem wit_WeightLoads :
    let s := inStm (at_ .M) (fun x => { x with r := [(1, clean 0x1000), (2, clean 64), (3, clean 0x1020), (4, clean 131136), (5, tainted 64)] })
    let other : Group := { state := .running, core := 1 }
    let x : Session := { ctx := 0, ea := 0x1000, len := 64, count := 2, joined := [⟨1, 0⟩] }
    let ses (x : Session) := upd s (fun d => (d.setGroup 1 other).setSession 0 3 x)
    let free (s : State) : Bool := gives s.dev.loaderFree (fun _ => true)
    let busy := inStm s (fun x => { x with load := some (Dev.mbcwLoad (.retire one) 0 3 1 0x1000 64 0) })
    let mat : LongOp := { ins := .mmt one 0 1 0 0, word := 0, pc := 0, step := 0, n := [0, 1], regs := [], rows := [], mask := {}, p := false, res := [] }
    lets s one ∧ free s ∧ free busy = false ∧ free (ses x) ∧ Dev.readsHalf s.dev.stm 1 = false ∧ Dev.readsHalf (inStm s (fun y => { y with op := some mat })).dev.stm 1 = true
    ∧ (∀ r ∈ [1, 2, 3, 4], (s.dev.reg r).p = false) ∧ (s.dev.reg 5).p = true ∧ 0x1020 % 64 ≠ 0 ∧ 131136 % 64 = 0 ∧ 131072 < 131136 ∧ (s.dev.core 0).weights = none
    ∧ ((upd s (fun d => d.setCore 0 { d.core 0 with weights := some 7 })).dev.core 0).weights = some 7 ∧ s.dev.cur.key ≠ 7
    ∧ gives ((s.dev.setCore 0 { s.dev.core 0 with weights := some 0 }).accessLinesS .load (Dev.linesOf 0x1000 64)) (fun _ => true) = true := by decide +kernel

theorem wit_WeightLoads_sessions :
    let s := inStm (at_ .M) (fun x => { x with r := [(1, clean 0x1000), (2, clean 64), (3, clean 0x1020), (4, clean 131136), (5, tainted 64)] })
    let other : Group := { state := .running, core := 1 }
    let x : Session := { ctx := 0, ea := 0x1000, len := 64, count := 2, joined := [⟨1, 0⟩] }
    let ses (x : Session) := upd s (fun d => (d.setGroup 1 other).setSession 0 3 x)
    let found (x : Session) : Prop := Map.find ((ses x).dev.cluster 0).sessions 3 = some x
    let busy := inStm s (fun x => { x with load := some (Dev.mbcwLoad (.retire one) 0 3 1 0x1000 64 0) })
    let full := upd busy (fun d => d.setSession 0 3 { x with count := 1, joined := [⟨0, 0⟩] })
    Map.find (s.dev.cluster 0).sessions 3 = none ∧ Dev.clusterOf s.dev.grp.core = 0 ∧ ctxOf s.dev.cur.key = 0 ∧ found x ∧ found { x with count := 0, joined := [⟨0, 0⟩] }
    ∧ found { x with count := 0 } ∧ found { x with ctx := 1 } ∧ found { x with len := 128 } ∧ (1 : Nat) ≠ s.dev.cur.key ∧ ((ses x).dev.group 1).core ≠ (ses x).dev.grp.core
    ∧ found { x with count := 1 } ∧ ({ x with count := 1 } : Session).joined.length = 0 + 1
    ∧ ((upd (ses x) (fun d => d.setGroup 1 { other with core := 0 })).dev.group 1).core = (ses x).dev.grp.core
    ∧ full.dev.siteRuns (full.dev.group 0).core = true ∧ full.dev.takesBeats ⟨0, 0⟩ = true
    ∧ gives ((full.dev.curOfLoad 0).accessLines .load (Dev.linesOf 0x1000 64)) (fun _ => true) = true := by decide +kernel

/-- R176: what another stream wrote to a row between two slabs is overwritten from the staged accumulator. -/
theorem test_staged_accumulator :
    let x : MatOp := { row := 0, ws := 0, m := 1, fw := fw1, base := 0, entry := 0, chosen := false, staged := true, ran := 0, report := 0, pass := 0, p := false, carryP := false, carry := [], index := 0, acts := [{}], scales := [], acc := [⟨(row32 [0x3F800000]).v, false⟩] }
    let s := inStm (inGrp (at_ .M) (fun g => { g with rows := [(0, row32 [0x40000000])] })) (fun y => { y with op := some (MatOp.pack x (.mmt one 0 1 0 0) 0) })
    let t := inStm (inGrp (at_ .M) (fun g => { g with rows := [(0, row32 [0x40000000])] })) (fun y => { y with op := some (MatOp.pack { x with staged := false } (.mmt one 0 1 0 0) 0) })
    holds (exec (.slabComplete 0) s) (fun u => lane32 u 0 0 == 0x3F800000) = true ∧ holds (exec (.slabComplete 0) t) (fun u => lane32 u 0 0 == 0x40000000) = true := by decide +kernel

theorem wit_MatrixEvents :
    let x : MatOp := { row := 0, ws := 0, m := 1, fw := fw1, base := 0, entry := 0, chosen := false, staged := true, ran := 0, report := 0, pass := 0, p := false, carryP := false, carry := [], index := 0, acts := [{}], scales := [], acc := [{}] }
    let o (k : Nat) : LongOp := MatOp.pack x (.mmt one 0 1 0 0) k
    let s (k : Nat) := upd (inStm (at_ .M) (fun y => { y with op := some (o k) })) (fun d => d.setCore 0 { d.core 0 with weights := some 0 })
    let image (d : Dev) (x : MatOp) (f : Option (Nat × Bool) × MatOp × Dev → Bool) : Bool :=
      gives (d.restage x) (fun r => gives (r.2.slabImage r.1 0) f)
    let d := (s 0).dev.curOf 0 .M
    let scaled : MatOp := { x with fw := fw1 + 2 ^ 53, scales := [⟨rowOf 32 [0xFF0], false⟩] }
    (at_ .M).dev.opOf 0 .M = none ∧ (s 0).dev.opOf 0 .M = some (o 0) ∧ isMat (o 0).ins = true ∧ slabsOf (MatOp.unpack (o 1)).fw ≤ (o 1).step ∧ (o 0).step < slabsOf (MatOp.unpack (o 0)).fw
    ∧ image d (MatOp.unpack (o 0)) (fun r => match r.1 with
        | some (b, p) => decide r.2.2.untagged && decide (0 < r.2.1.m ∧ 0 < fwN r.2.1.fw)
            && gives (r.2.2.slabRows r.2.1 0 b p) (fun u => decide (slabsOf (Dev.slabDone u.2.1).fw ≤ 0 + 1))
        | none => false) = true
    ∧ (0 : Nat) + 1 < slabsOf fwBig
    ∧ image (d.setCore 0 { d.core 0 with weights := some 7 }) x (fun r => r.1.isNone) = true
    ∧ gives (d.restage { x with ws := 3, base := 0x5000, chosen := true }) (fun r => traps (r.2.slabImage r.1 0) 8) = true
    ∧ image d scaled (fun r => match r.1 with
        | some (b, p) => traps (r.2.2.slabRows r.2.1 0 b p) 4
        | none => false) = true
    ∧ (let w := upd (inStm (at_ .M) (fun y => { y with wait := .swap })) (fun d => d.setCore 0 { d.core 0 with weights := some 7 })
       (w.dev.core 0).weights = some 7 ∧ (7 : Nat) ≠ 0 ∧ (w.dev.group 0).core = 0 ∧ (w.dev.group 0).state = .running ∧ w.dev.siteRuns 0 = true ∧ (w.dev.group 0).streamM.wait = .swap)
    ∧ (let y : Session := { ctx := 1, ea := 0, len := 64, count := 2, joined := [⟨9, 0⟩] }
       let w := upd (inStm (at_ .M) (fun z => { z with wait := .session 3 })) (fun d => { d.setSession 0 3 y with time := 65536 })
       Map.find (w.dev.cluster 0).sessions 3 = some y ∧ y.joined.length < y.count ∧ ctxOf 0 ≠ y.ctx
       ∧ w.dev.groups.any (fun e => e.1 == 0 && Dev.clusterOf e.2.core == 0 && w.dev.waitsChannel e.2 3) = true) := by decide +kernel

/-- A stream descriptor at 0x1500 with its table of one code at 0x1600. -/
def withStreamDescriptor (s : State) : State := poke (poke s 0x1500 [0x1600, 4096 + 128 * 2 ^ 16, 0, 0]) 0x1600 [1]

/-- A transfer descriptor at 0x1800: 64 bytes from 0x1400 to 0x1440. -/
def withTransferDescriptor (s : State) (len : Nat) : State := poke s 0x1800 [0x1400, 0x1440, 0, 0, 0, 0, len, 0]

theorem wit_TransferIssue :
    let s := withTransferDescriptor (withStreamDescriptor (inStm (at_ .X) (fun x => { x with
      r := [(0, tainted 8), (1, clean 0x1400), (2, clean 8), (3, clean 0x1404), (4, clean 0), (5, clean (BitVec.ofNat 64 (2 ^ 40 + 8))), (6, clean 0x1500), (7, clean (BitVec.ofNat 64 (2 ^ 20))),
        (8, clean (BitVec.ofNat 64 (2 ^ 20 + 1))), (9, clean 0x1800), (10, clean (BitVec.ofNat 64 (2 ^ 40)))] }))) 64
    let desc (n : Nat) := gives ((withTransferDescriptor s n).dev.xWords s.mod 0x1800 8) (fun r => (xdescFault 0 (fun i => r.1.getD i 0) false).isNone)
    lets s one ∧ s.dev.stm.op = none ∧ (s.dev.reg 0).p = true ∧ (∀ r ∈ List.range' 1 10, (s.dev.reg r).p = false) ∧ 0x1404 % 8 ≠ 0 ∧ 0x1404 % 16 ≠ 0 ∧ 0x1404 % 64 ≠ 0
    ∧ 0x1400 % 64 = 0 ∧ (2 ^ 40 + 8) % 8 = 0 ∧ (s.dev.reg 10).v.toNat = 2 ^ 40 ∧ (s.dev.reg 7).v.toNat = 2 ^ 20 ∧ (s.dev.reg 8).v.toNat = 2 ^ 20 + 1
    ∧ gives (s.dev.readSdesc s.mod 0x1500) (fun _ => true) = true ∧ desc 64 = true ∧ desc 32 = false ∧ flag 0 2 = false ∧ s.dev.untagged ∧ s.dev.hasRow 2047
    ∧ 1984 < 0x800 ∧ 1984 + (63 + 1) ≤ s.dev.grp.rowsN ∧ s.dev.grp.rowsN < 1985 + (63 + 1) := by decide +kernel

theorem wit_TransferSteps :
    let op (i : Instr) (k : Nat) (n : List Nat) (rs : List RowData) : LongOp := ⟨i, 0, 0x1000, k, n, [], rs, {}, false, [], []⟩
    let s (o : LongOp) := inStm (at_ .X) (fun x => { x with op := some o })
    let st (o : LongOp) := ((s o).dev.curOf 0 .X).transferStep (s o).mod 0 o
    let fill := op (.xfill one 0 3 1 2) 0 [0x1100, 8, 5, 0] []
    let fill2 := op (.xfill one 0 3 1 2) 0 [0x1F00, 0x200, 5, 0] []
    let chk := op (.xchk one 0 false 3 1 2) 0 [0x1100, 8, 0] []
    let scat := op (.xscat one 0 0 5 1 6) 0 [0x1000, 1, 0, 0] [{}, {}]
    let dec (n k : Nat) (rs : List RowData) := op (.xdec one 0 3 1 2) k ([0x1400, n, 0x1400, k, 32] ++ ({} : SDesc).pack) rs
    (s fill).dev.opOf 0 .X = some fill ∧ gives (st fill) (fun _ => true) = true ∧ traps (st (op (.xfill one 0 3 1 2) 0 [0x5000, 8, 5, 0] [])) 8 = true ∧ 8 ≠ 0x12 ∧ 8 ≠ 0x13
    ∧ 0 < Dev.rangeSteps 0x1100 8 ∧ Dev.rangeSteps 0x1100 8 ≤ 0 + 1 ∧ ¬ Dev.rangeSteps 0x1F00 0x200 ≤ 0 + 1 ∧ gives (st fill2) (fun _ => true) = true
    ∧ gives (((s fill).dev.curOf 0 .X).xPieces .store (0x1100 + (Dev.rangeStep 0x1100 8 0).1) (Dev.rangeStep 0x1100 8 0).2) (fun _ => true) = true
    ∧ gives (((s chk).dev.curOf 0 .X).xLoad (s chk).mod (0x1100 + (Dev.rangeStep 0x1100 8 0).1) (Dev.rangeStep 0x1100 8 0).2) (fun _ => true) = true
    ∧ gives (((s scat).dev.curOf 0 .X).xPieces .store (Dev.rowAddr 0x1000 0 0) 2048) (fun _ => true) = true
    ∧ (s (dec 2 1 [{}])).dev.opOf 0 .X = some (dec 2 1 [{}]) ∧ (dec 2 1 [{}]).rows ≠ [] ∧ ((s (dec 2 1 [{}])).dev.group 0).q249.length + 1 ≤ 32 ∧ (dec 2 1 [{}]).n.getD 1 0 ≤ 1 + 1
    ∧ 0 + 1 < (dec 2 0 [{}]).n.getD 1 0 ∧ (dec 2 0 []).rows = [] ∧ (dec 2 0 []).step = (dec 2 0 []).n.getD 3 0
    ∧ 32 < ((inGrp (s (dec 2 0 [{}])) (fun g => { g with q249 := List.replicate 32 {} })).dev.group 0).q249.length + 1 := by decide +kernel

/-- A fill into a peer page whose port has no answer yet waits; a fill of poison at scope .sy commits. -/
theorem wit_TransferSteps_link :
    let o : LongOp := ⟨.xfill one 0 3 1 2, 0, 0x1000, 0, [0x2000, 8, 5, 0], [], [], {}, false, [], []⟩
    let s := upd (inStm (at_ .X) (fun x => { x with op := some o })) (fun d => (d.setLink 1 { state := .up, win := 1 }).setCore 0 { d.core 0 with
      tlb := (d.core 0).tlb ++ [⟨1, 12, 0x2000, 0x200000000000, true, true, false, false, false, false⟩] })
    (match (s.dev.curOf 0 .X).transferStep s.mod 0 o with | .error (.wait (.link 1 _ _)) => true | _ => false) = true
    ∧ ({ o with p := true, n := [0x1100, 8, 5, 3] } : LongOp).p = true ∧ ({ o with p := true, n := [0x1100, 8, 5, 3] } : LongOp).n.getD 3 0 = 3 := by decide +kernel

theorem wit_QueueResults :
    let s (e : Engine) (w : Bool) (n : Nat) := queued e w (List.replicate n {})
    let shut (e : Engine) (w : Bool) (n : Nat) := upd (s e w n) (fun d => d.setQueue 7 { d.queue 7 with state := .closed })
    let res (s : State) (push wide : Bool) := gives (s.dev.resolve 3 push wide .instr) (fun q => q == .pool 7)
    let f : Fifo := .pool 7
    lets (s .S false 1) one ∧ res (s .S false 1) true false ∧ (s .S false 1).dev.isOpen f = true ∧ gives ((s .S false 1).dev.pushPoison f true) (fun _ => true)
    ∧ 1 ≤ (s .S false 1).dev.roomOf f ∧ (s .S false 2).dev.roomOf f = 0 ∧ 1 ≤ (s .S false 2).dev.depthOf f ∧ res (shut .S false 0) true false ∧ (shut .S false 0).dev.isOpen f = false
    ∧ lets (s .V true 1) one ∧ res (s .V true 1) true true ∧ (s .V true 1).dev.untagged ∧ 2047 < (s .V true 1).dev.grp.rowsN ∧ 1 ≤ (s .V true 1).dev.roomOf f
    ∧ (inGrp (at_ .V) (fun g => { g with rowsN := 2016 })).dev.grp.rowsN ≤ 2016 ∧ res (s .S false 1) false false ∧ (s .S false 1).dev.entriesOf f ≠ [] ∧ (s .S false 0).dev.entriesOf f = []
    ∧ res (shut .S false 0) false false ∧ (shut .S false 0).dev.endOfWork f = true ∧ res (s .V true 0) false true ∧ (shut .V true 0).dev.endOfWork f = true
    ∧ gives (((s .V true 1).dev.dropHead 1 f).writeRow 2047 0 false true) (fun _ => true)
    ∧ (s .S false 0).dev.statPort 9 = none ∧ (s .S false 1).dev.statPort 3 = some f ∧ (s .S false 1).dev.depthOf f < 2 ^ 13 ∧ ((s .S false 1).dev.queue 7).entries.length < 2 ^ 13
    ∧ 248 ≤ 248 ∧ 247 < 248 ∧ ((s .S false 0).dev.queue 4095).state = .free ∧ ((s .S false 0).dev.queue 7).state ≠ .free
    ∧ 3 &&& (s .S false 0).dev.widestMode 0 7 = 3 ∧ (let t := upd (s .S false 0) (fun d => d.setQueue 7 { d.queue 7 with cctx := 1 }); 3 &&& t.dev.widestMode 0 7 ≠ 3) := by
  decide +kernel

/-- Room as a group finds it that has popped the only entry of a full queue before it pushes (R220), and an entry poisoned for another
context's consumer (R222). -/
theorem wit_QueueResults_room :
    let s := queued .S false (List.replicate 2 {})
    let f : Fifo := .pool 7
    let popped := upd s (fun d => (d.dropHead 1 f).notePops 1 f)
    let other := upd (queued .S false []) (fun d => d.setQueue 7 { d.queue 7 with cctx := 1 })
    s.dev.roomBefore f = 0 ∧ popped.dev.roomOf f = 1 ∧ popped.dev.roomBefore f = 0 ∧ 1 ≤ other.dev.roomBefore f ∧ (other.dev.queue 7).cctx ≠ other.dev.myCtx ∧ other.dev.isOpen f = true
    ∧ gives (other.dev.resolve 3 true false .instr) (fun q => q == f) = true ∧ gives (s.dev.resolve 9 true false .instr) (fun _ => true) = false
    ∧ s.dev.readyEntries f ≠ [] ∧ s.dev.servesOther (8 * s.dev.fifoNum f) = false ∧ s.dev.servesOther (8 * s.dev.fifoNum f + 1) = false
    ∧ (upd s (fun d => { d with use := { at_ := d.time + 1, served := [(8 * d.fifoNum f, 99)] } })).dev.servesOther (8 * s.dev.fifoNum f) = true := by decide +kernel

theorem wit_QueueCommands :
    let q : Queue := { logd := 1, own := 0, pctx := 0, cctx := 0, base := 1 }
    let s (x : Queue) := inCtx (upd (at_ .S) (fun d => d.setQueue 4095 x)) (fun c => { c with maxq := 1 })
    4095 < 4096 ∧ ((s q).dev.queue 4095).state = .free ∧ (s q).dev.openOk q = true ∧ (s { q with kind := 3 }).dev.openOk { q with kind := 3 } = false ∧ ((s { q with state := .opened }).dev.queue 4095).state = .opened
    ∧ ((s { q with state := .closed }).dev.queue 4095).state ≠ .opened ∧ ¬(1 ≤ 0 % 16 ∧ 0 % 16 ≤ 3) ∧ ¬(1 ≤ 4 % 16 ∧ 4 % 16 ≤ 3)
    ∧ 1 ≤ 19 % 16 ∧ 19 % 16 ≤ 3 ∧ ((s { q with state := .closed }).dev.queue 4095).state ≠ .free
    ∧ (let t := s { q with kind := 3, state := .opened }
       (t.dev.queue 4095).kind = 3 ∧ (t.dev.queue 4095).entries = [] ∧ (∀ e ∈ t.dev.groups, ∀ b ∈ e.2.ports, ¬(b.2.queue = 4095 ∧ b.2.round = (t.dev.queue 4095).round))) := by
  decide +kernel

theorem wit_RecipeResults :
    let body := word 6 4 [(33, 0x900), (21, 5), (5, 1)]
    let s := poke (regs .S [(1, clean 0x1400), (2, clean 0x1404), (3, tainted 0)]) 0x1400 [body]
    let v := inGrp (at_ .V) (fun g => { g with recipes := [(3, { valid := true, words := [body] })] })
    let tagged (g : Group) := { g with rows := Map.upd {} g.rows 2047 (fun x => { x with tag := .tagged 3 }) }
    let dropped := inStm (inGrp v (fun g => { g with rows := [(6, { tag := .dropped 3 })] })) (fun x => { x with wait := .replay 6 [] })
    lets s one ∧ (s.dev.reg 3).p = true ∧ (s.dev.reg 1).p = false ∧ 0x1404 % 8 ≠ 0 ∧ 0x1400 % 8 = 0 ∧ 255 < s.dev.grp.recipesN
    ∧ gives (readWords (Dev.rdWord s.mod) s.dev 0x1400 1) (fun x => x.1 == [(body, false)] && (bodyFault x.2.grp.rowsN [body]).isNone) = true
    ∧ (bodyFault 2048 [0]).isSome = true ∧ (∀ x ∈ s.dev.grp.rows, x.2.tag ≠ .dropped 3) ∧ lets v one ∧ 2047 < 0x800 ∧ 2047 < v.dev.grp.rowsN
    ∧ (Map.get {} v.dev.grp.recipes 4).valid = false ∧ (Map.get {} v.dev.grp.recipes 3).valid = true ∧ Dev.depthOk (tagged v.dev.grp) = true
    ∧ (let deep := inGrp v (fun g => { g with recipes := [(3, { valid := true, words := [body] }), (4, { valid := true, words := [word 6 4 [(33, 0x900), (21, 6), (5, 1)]] }),
          (7, { valid := true, words := [word 6 4 [(33, 0x900), (21, 7), (5, 1)]] })], rows := [(6, { tag := .tagged 3 }), (7, { tag := .tagged 4 })] })
       lets deep one ∧ Dev.depthOk { deep.dev.grp with rows := Map.upd {} deep.dev.grp.rows 8 (fun x => { x with tag := .tagged 7 }) } = false)
    ∧ Dev.isDropped (v.dev.row 2047) = false ∧ (bodySources [body]).any (fun x => v.dev.cur.wrote.contains x) = false ∧ (0x800 : Nat) ≤ 0x8FF
    ∧ 0 + (2047 + 1) ≤ v.dev.grp.rowsN ∧ v.dev.stm.resumeStep = 0 ∧ (∀ x ∈ v.dev.grp.rows, Dev.isDropped x.2 = false)
    ∧ (dropped.dev.group 0).state = .running ∧ Dev.replayWaiters (dropped.dev.group 0) 6 ≠ [] ∧ (Dev.rowIn (dropped.dev.group 0) 6).tag = .dropped 3
    ∧ (dropped.dev.group 0).lent = [] ∧ (dropped.dev.replayRow 0 6 4).isSome = true ∧ Dev.replayWaiters (v.dev.group 0) 6 = [] := by decide +kernel

/-- The replay of a dropped row whose tag is in error, and of one whose recipe needs a row outside the window, fails; a stream that waits for a granule. -/
theorem wit_RecipeResults_replay :
    let body := word 6 4 [(33, 0x900), (21, 5), (5, 1)]
    let s (bad : Bool) (w : Wait) := inStm (inGrp (at_ .V) (fun g => { g with recipes := [(3, { valid := true, words := [body] })], rows := [(6, { tag := .dropped 3, bad := bad })] })) (fun x => { x with wait := w })
    let ok := (s false (.replay 6 [])).dev
    let bad := (s true (.replay 6 [])).dev
    gives (ok.replayRows 0 [] [6]) (fun _ => true) = true ∧ traps (bad.replayRows 0 [] [6]) 0x15 = true ∧ (Dev.rowIn (bad.group 0) 6).bad = true ∧ ok.siteRuns (ok.group 0).core = true
    ∧ Dev.waitsGranule (ok.group 0) 6 = false ∧ Dev.waitsGranule ((s false (.granule 6)).dev.group 0) 6 = true ∧ Dev.isDropped ((at_ .V).dev.row 6) = false
    ∧ lets (s false .none) one ∧ Dev.isDropped ((s false .none).dev.row (5 + 1)) = true ∧ Dev.isDropped ((s false .none).dev.row (5 + 0)) = false := by decide +kernel

theorem wit_GateResults :
    let s := inStm (queued .V false []) (fun x => { x with r := [(2, clean 0)] })
    let k2 := upd s (fun d => d.setQueue 7 { d.queue 7 with kind := 2 })
    lets s one ∧ s.dev.untagged ∧ s.dev.hasRow 2047 ∧ s.dev.vtype [1, 2] 0 = .ok 1 ∧ 3 < 256 ∧ s.dev.resolve 3 true false .instr = .ok (.pool 7) ∧ (s.dev.queue 7).kind < 2
    ∧ s.dev.isOpen (.pool 7) = true ∧ 1 + 1 ≤ s.dev.roomOf (.pool 7) ∧ s.dev.pushPoison (.pool 7) true = .ok () ∧ k2.dev.resolve 3 true false .instr = .ok (.pool 7) ∧ 2 ≤ (k2.dev.queue 7).kind := by
  and_intros <;> first | decide +kernel | rfl

theorem wit_GateResults_room :
    let s (n : Nat) := queued .V false (List.replicate n {})
    let shut := upd (s 0) (fun d => d.setQueue 7 { d.queue 7 with state := .closed })
    let other := upd (s 0) (fun d => d.setQueue 7 { d.queue 7 with cctx := 1 })
    2 ≤ (s 0).dev.depthOf (.pool 7) ∧ (s 0).dev.depthOf (.pool 7) < 2 + 1 ∧ (s 1).dev.roomBefore (.pool 7) < 1 + 1 ∧ 1 + 1 ≤ (s 0).dev.roomBefore (.pool 7)
    ∧ shut.dev.isOpen (.pool 7) = false ∧ gives (shut.dev.resolve 3 true false .instr) (fun q => q == .pool 7) = true ∧ (other.dev.queue 7).cctx ≠ other.dev.myCtx ∧ 256 ≤ 256 := by decide +kernel

/-- An S stream with the identifier of expert 0 in s1 and a copy of it. -/
def withCopy (c : Copy) : State :=
  withWindow (regs .S [(1, clean 0), (2, tainted 0), (3, clean (windowEa 0)), (4, clean 0xFFFFFFFF), (5, clean 2047)]) c

theorem wit_ResidencyRequests :
    let home : Copy := { size := 100, fmt := 0x40 }
    let s := withCopy home
    let with_ (f : Copy → Copy) : State := withWindow s (f home)
    let pinned := inCtx (with_ (fun c => { c with pins := 1, inPond := true, pond := [0] })) (fun c => { c with pins := [(0, 1)] })
    lets s one ∧ (s.dev.reg 2).p = true ∧ (s.dev.reg 1).p = false ∧ gives (s.dev.checkCopy 0 0) (fun _ => true) = true ∧ (s.dev.takeEntry 0 0).isSome = true
    ∧ flag (s.dev.ctx 0).resPol 0 = true ∧ flag ((inCtx s (fun c => { c with resPol := 0 })).dev.ctx 0).resPol 0 = false
    ∧ gives ((with_ (fun c => { c with state := .faulted })).dev.checkCopy 0 0) (fun _ => true) = true ∧ ((with_ (fun c => { c with state := .faulted })).dev.copyAt 0).state = .faulted
    ∧ ((with_ (fun c => { c with state := .faulted })).dev.copyAt 0).refetch = none ∧ (s.dev.copyAt 0).state ≠ .faulted ∧ (s.dev.copyAt 0).pins < 65535 ∧ (s.dev.ctx 0).pins.length < 256
    ∧ s.dev.pinnedFrames + framesOf (s.dev.copyAt 0) ≤ 3072 ∧ (pinned.dev.copyAt 0).pins ≠ 0 ∧ (Map.find (pinned.dev.ctx 0).pins 0).isSome = true
    ∧ (s.dev.copyAt 0).state = .resident ∧ (pinned.dev.copyAt 0).inPond = true ∧ s.dev.findCopy 0 0 = some 0
    ∧ (pinned.dev.findCopy 0 0) = some 0 ∧ Map.find (pinned.dev.ctx 0).pins 0 = some 1 ∧ (s.dev.copyAt 0).pins = 0
    ∧ ((with_ (fun c => { c with state := .fetching })).dev.copyAt 0).state = .fetching ∧ ((with_ (fun c => { c with inPond := true })).dev.copyAt 0).inPond = true
    ∧ canonical (s.dev.reg 3).v.toNat = true ∧ s.dev.inWindow ((s.dev.reg 3).v.toNat % 2 ^ 54) = true ∧ (Map.find s.dev.res.copies (fld (s.dev.reg 3).v.toNat 26 16)).isSome = true := by
  decide +kernel

/-- An identifier whose record lies at the foot of its table, with no tag entry yet: copy 0 has a home in Lake of 64 bytes. -/
def withRecord : State :=
  let s := poke (regs .S [(1, clean 0)]) 0x2000 [2 ^ 32, 0, 0x4000, 64, 0]
  upd s (fun d => { d with res := { d.res with models := [(0, { valid := true, ctxmask := 1, etbase := 2 })] } })

theorem wit_ResidencyRequests_new : withRecord.dev.findCopy 0 0 = none ∧ gives (withRecord.dev.checkCopy 0 0) (fun _ => true) = true ∧ (withRecord.dev.takeEntry 0 0).isSome = true := by
  decide +kernel

theorem wit_DispatchResults :
    let here : Copy := { size := 100, fmt := 0x40, inPond := true, pond := [0] }
    let s := inCtx (withCopy here) (fun c => { c with maxq := 1, resTq := 1 + 2 ^ 8 + 5 * 2 ^ 52 })
    let with_ (c : Copy) : State := withWindow s c
    let open_ (n : Nat) := upd (with_ { here with queues := [(9, 0)] })
      (fun d => d.setQueue 9 { kind := 3, logd := 0, wide := true, state := .opened, entries := List.replicate n {} })
    let choose (s : State) (f : Option Nat × Nat × Nat → Bool) : Bool := gives (s.dev.chooseTarget (s.dev.copyAt 0) 0) f
    let entry (s : State) (f : Nat × Dev → Bool) : Bool := ((s.dev.takeEntry 0 0).map f).getD false
    lets s one ∧ s.dev.untagged ∧ (s.dev.reg 1).p = false ∧ (s.dev.reg 2).p = true ∧ (s.dev.reg 4).p = false ∧ (s.dev.reg 4).v.toNat % 2 ^ 32 = 0xFFFFFFFF ∧ (s.dev.reg 1).v.toNat % 2 ^ 32 ≠ 0xFFFFFFFF
    ∧ gives (s.dev.checkCopy 0 0) (fun _ => true) = true ∧ fld 2047 11 5 = 0 ∧ fld 2047 0 11 < s.dev.grp.rowsN ∧ fld 2048 11 5 ≠ 0
    ∧ s.dev.findCopy 0 0 = some 0 ∧ (s.dev.copyAt 0).drain = false ∧ ((with_ { here with state := .evicting, drain := true }).dev.copyAt 0).drain = true
    ∧ ((with_ { here with state := .evicting }).dev.copyAt 0).state = .evicting ∧ withRecord.dev.findCopy 0 0 = none
    ∧ choose s (fun x => x.1 == none && x.2.2 == 0) = true ∧ traps ((with_ { here with state := .faulted }).dev.chooseTarget { here with state := .faulted } 0) 0x18 = true
    ∧ gives ((inCtx s (fun c => { c with resPol := c.resPol + 2 ^ 8 })).dev.chooseTarget { here with id := 1, inPond := false, state := .fetching, sv := true, subx := 0 } 0) (fun x => x.1 == some 0) = true
    ∧ entry s (fun x => x.2.tokenQueue (x.2.copyAt x.1) x.2.myCtx == none && x.2.freeTokenQueue x.2.myCtx == some 5) = true
    ∧ entry (inCtx s (fun c => { c with maxq := 0 })) (fun x => x.2.freeTokenQueue x.2.myCtx == none) = true
    ∧ gives ((open_ 0).dev.checkCopy 0 0) (fun _ => true) = true
    ∧ entry (open_ 0) (fun x => x.2.tokenQueue (x.2.copyAt x.1) x.2.myCtx == some 9 && x.2.roomOf (.pool 9) != 0) = true
    ∧ entry (open_ 1) (fun x => x.2.roomOf (.pool 9) == 0) = true := by decide +kernel

theorem wit_ResidencyEvents :
    let s (c : Copy) : State := upd State.reset (fun d => { d with res := { d.res with copies := [(0, c)], models := [(0, { valid := true, ctxmask := 1 })] } })
    let bytes := List.replicate 64 (0 : Byte)
    let crc := crc32c bytes 0
    let lake : Copy := { state := .fetching, target := 1, size := 64, crc := crc, pond := [0] }
    let plain : Copy := { state := .fetching, target := 0, size := 64, crc := crc, fmt := 0x40, lake := [16] }
    Map.find State.reset.dev.res.copies 0 = none ∧ Map.find (s lake).dev.res.copies 0 = some lake ∧ Dev.legOf lake = 1 ∧ Dev.legReady lake = true
    ∧ crc32c ((s lake).dev.legBytes State.reset.mod.flash lake (Dev.legOf lake = 0)).1 0 = lake.crc ∧ Dev.legOf plain = 0 ∧ Dev.legReady plain = true ∧ plain.target = 0
    ∧ crc32c ((s plain).dev.legBytes State.reset.mod.flash plain (Dev.legOf plain = 0)).1 0 = plain.crc
    ∧ (s lake).dev.legLent lake (Dev.legOf lake = 0) = [] ∧ (s plain).dev.legLent plain (Dev.legOf plain = 0) = [] ∧ lake.target = 1 ∧ plain.pond = []
    ∧ crc32c ((s lake).dev.legBytes State.reset.mod.flash { lake with crc := 1 } false).1 0 ≠ 1 ∧ Dev.legOf { lake with inPond := true } = 2 ∧ ((s lake).dev.model 0).busy = false ∧ idModel lake.id = 0
    ∧ (s { state := .evicting }).dev.tokensQueued { state := .evicting } = false ∧ ({ state := .evicting, drain := true } : Copy).drain = true
    ∧ flag 1 0 = true ∧ ((upd State.reset (fun d => d.setModel 9 { etbase := 1 })).dev.model 9).etbase ≠ 0 ∧ flag 0 0 = false
    ∧ ((upd State.reset (fun d => d.setModel 9 { valid := true })).dev.model 9).valid = true ∧ (upd State.reset (fun d => d.setModel 9 { valid := true })).dev.modelCopies 9 = []
    ∧ (let u := upd (s { size := 64 }) (fun d => d.setModel 0 { busy := true, valid := true })
       (u.dev.model 0).busy = true ∧ u.dev.modelCopies 0 = [0] ∧ ∀ x ∈ u.dev.modelCopies 0, atHome (u.dev.copyAt x) = true ∧ (u.dev.copyAt x).holders = []) := by decide +kernel

/-- A leg from a part of Plain that is lost; an eviction whose copy a group holds, and one whose frames an access holds. -/
theorem wit_ResidencyEvents_more :
    let s (c : Copy) : State := upd (at_ .S) (fun d => { d with res := { d.res with copies := [(0, c)], models := [(0, { valid := true, ctxmask := 1 })] } })
    let plain : Copy := { state := .fetching, target := 0, size := 64, fmt := 0x40, lake := [16] }
    let gone : Copy := { state := .evicting, drain := true, inPond := true, pond := [3] }
    let leaf : Leaf := { asid := 1, size := 16, va := 0, pa := 0xF0000000000 + 3 * 65536, r := true, w := false, x := false, cw := false, win := true }
    Dev.legOf plain = 0 ∧ (upd (s plain) (fun d => { d with nvmeMask := 1 })).dev.plainLost plain = true ∧ (s plain).dev.plainLost plain = false
    ∧ Dev.leaving gone = true ∧ (s gone).dev.evictable gone = true ∧ (s gone).dev.evictable { gone with holders := [0] } = false
    ∧ (s gone).dev.holdsFrames (Dev.pondAddrs gone ++ Dev.lakeAddrs gone) = false ∧ gone.again = none ∧ (∀ y ∈ (s gone).dev.res.copies, y.1 = 0 → y.2.wait = 0)
    ∧ (upd (s gone) (fun d => { d with waits := [⟨.stream 0 .S, some 1, [], [], [⟨0x1000, .load, 0, leaf⟩]⟩] })).dev.holdsFrames (Dev.pondAddrs gone ++ Dev.lakeAddrs gone) = true
    ∧ Dev.leaving { gone with state := .faulted, toHome := true } = true ∧ Dev.leaving { gone with state := .resident } = false := by decide +kernel

/-- The step of `stepping` stands at an instruction. -/
def stands (s : State) : Bool := ((s.dev.sampler s.dev.cur.unit).run.map (fun r => r.ended == none && !r.killed && decide (r.count < 65536))).getD false

theorem stands_meets {s : State} (h : stands s = true) : ∃ r, s.dev.stepAt r := by
  unfold stands at h
  cases hr : (s.dev.sampler s.dev.cur.unit).run with
  | none => simp [hr] at h
  | some r =>
    simp [hr] at h
    exact ⟨r, hr, h.1.1, h.1.2, h.2⟩

theorem wit_StepRegisters :
    let r (g : List (Nat × Reg)) (n : Nat) : StepRun := { g := g, kinds := [(2, 3)], emits := List.replicate n 0, shadow := List.replicate n ⟨0, 0, 0⟩ }
    let s (x : StepRun) : State := { State.reset with dev := State.reset.dev.setSampler 0 { run := some x } }
    let x := r [(1, clean 16), (2, tainted 0), (3, clean 17), (4, clean 65535), (5, clean 65536)] 63
    stands (s x) ∧ (∀ k ∈ List.range 16, (x.reg k).p = true → x.kindOf k ≠ 0) ∧ isStepWord .send = true ∧ 65536 ≤ ({ x with count := 65536 } : StepRun).count
    ∧ (x.reg 0).v.toNat = 0 ∧ (x.reg 4).v.toNat ≠ 0 ∧ (x.reg 4).v.toNat < 2 ^ 16 ∧ x.shadow.length < 64 ∧ 64 ≤ (r [] 64).shadow.length ∧ 2 ^ 16 ≤ (x.reg 5).v.toNat
    ∧ (x.reg 1).v.toNat ≤ 16 ∧ 16 < (x.reg 3).v.toNat ∧ (x.reg 1).p = false ∧ x.emits.length < 64 ∧ 64 ≤ (r [] 64).emits.length ∧ (x.reg 2).p = true
    ∧ 5 < 6 ∧ 0 ≤ x.pc + 0 ∧ x.pc + 4095 < 4096 ∧ x.pc + -1 < 0 ∧ 4096 ≤ x.pc + 4096 := by decide +kernel

/-- A step whose owner, context 0, maps 0x1000: SMOV and SLDC read there. -/
theorem wit_StepRegisters_load :
    let s := upd (at_ .S) (fun d => (d.setSampler 0 { run := some { g := [(1, clean 0x1000)] } }).setCtx 0 { d.ctx 0 with ptbr := 2 })
    let leaf := poke (poke (poke (poke (poke s 0x2000 [3 + 3 * 2 ^ 12]) 0x3000 [3 + 4 * 2 ^ 12]) 0x4000 [3 + 5 * 2 ^ 12]) 0x5000 [3 + 6 * 2 ^ 12]) 0x6008 [0x1D + 2 ^ 12]
    let ok {α : Type} (r : Except StepStop α) : Bool := match r with
      | .ok _ => true
      | _ => false
    let ends {α : Type} (r : Except StepStop α) : Bool := match r with
      | .error (.ended 4) => true
      | _ => false
    stands leaf ∧ ok (Dev.stepRead leaf.mod { leaf.dev with verdict := .done } 0 0x1000 8) = true
    ∧ ends (Dev.stepRead leaf.mod { leaf.dev with verdict := .done } 0 0x9000 8) = true
    ∧ ok (Dev.stepReads leaf.mod { leaf.dev with verdict := .done } 0 0x1000 8 2) = true
    ∧ (match Dev.stepRead leaf.mod { (leaf.dev.setLink 0 { state := .up, lent := [0x40] }) with verdict := .done } 0 0x1000 8 with | .error (.waits _) => true | _ => false) = true := by
  decide +kernel

theorem wit_StepLists :
    let r (l : List (Nat × Nat)) (p : Bool) (t : Nat) : StepRun := { list := l, prob := p, params := { temp := t }, g := [(1, clean 16), (2, tainted 0), (3, clean 17), (4, clean 131072), (5, clean 131073)] }
    let s (x : StepRun) : State := { State.reset with dev := State.reset.dev.setSampler 0 { run := some x } }
    let one32 := 0x3F800000
    stands (s (r [(4, one32)] true one32)) ∧ (r [] true 0).prob = true ∧ (r [] false 0).prob = false ∧ FVal.eq (valF f32 0) FVal.zero = true ∧ FVal.eq (valF f32 0x80000000) FVal.zero = true
    ∧ FVal.eq (valF f32 one32) FVal.zero = false
    ∧ ((r [(4, 0x7F800000)] false 0x7F800000).list.map (fun c => (c.1, (fdivF f32 c.2 0x7F800000).1))).any (fun c => (valF f32 c.2).isNan) = true
    ∧ ((r [(4, one32)] false one32).list.map (fun c => (c.1, (fdivF f32 c.2 one32).1))).any (fun c => (valF f32 c.2).isNan) = false
    ∧ (r [(4, one32)] true one32).list ≠ [] ∧ [(4, 0xFF800000)].filter (fun c => valF f32 c.2 != .inf true) = [] ∧ [(4, one32)].filter (fun c => valF f32 c.2 != .inf true) ≠ []
    ∧ ((r [] true 0).reg 1).v.toNat ≤ 16 ∧ 16 < ((r [] true 0).reg 3).v.toNat ∧ ((r [] true 0).reg 2).p = true ∧ ((r [] true 0).reg 1).p = false ∧ ((r [] true 0).reg 0).v.toNat = 0
    ∧ ((r [] true 0).reg 4).v.toNat ≤ 131072 ∧ 131072 < ((r [] true 0).reg 5).v.toNat ∧ ((r [] true 0).reg 1).v.toNat % 8 = 0 ∧ ((r [] true 0).reg 3).v.toNat % 8 ≠ 0
    ∧ ¬ ([4, 4] : List Nat).Nodup ∧ ([4, 5] : List Nat).Nodup
    ∧ (let x : Seq := { pbase := 1 }
       (s (r [(4, one32)] false 0)).dev.countLent x [4] false = []
         ∧ (upd (s (r [(4, one32)] false 0)) (fun d => d.setLink 0 { state := .up, lent := [64] })).dev.countLent x [4] false ≠ []) := by decide +kernel

theorem wit_SamplerUnits :
    let s (f : Sampler → Sampler) := upd (at_ .S) (fun d => (d.setQueue 7 { state := .opened, kind := 1, logd := 6, entries := [⟨5, false⟩] }).setSampler 3 (f { rq := 7, en := true }))
    let x : Seq := { valid := true, own := 0, pbase := 1, resq := 7 }
    let r : StepRun := { seq := 255, params := x, ended := some 0 }
    3 < 4 ∧ 255 < 256 ∧ ((s id).dev.seq 3 255).valid = false ∧ ((s (fun u => { u with seqs := [(255, x)] })).dev.seq 3 255).valid = true ∧ flag (BitVec.ofNat 64 (2 ^ 63)).toNat 63 = true
    ∧ (s id).dev.seqRunning 3 255 = false ∧ (s (fun u => { u with run := some { r with ended := none }, seqs := [(255, x)] })).dev.seqRunning 3 255 = true
    ∧ ((s (fun u => { u with en := false })).dev.sampler 3).en = false ∧ ((s id).dev.sampler 3).run = none ∧ ((s id).dev.queue 7).entries = [⟨5, false⟩]
    ∧ (let c := upd (s id) (fun d => d.setQueue 7 { state := .closed })
       (c.dev.queue 7).entries = [] ∧ (c.dev.queue 7).state ≠ .opened)
    ∧ (let u := s (fun u => { u with seqs := [(5, x)] })
       (u.dev.seq 3 (5 % 256)).valid = true ∧ (u.dev.seq 3 5).own = (u.dev.queue 7).pctx ∧ (u.dev.ctx 0).state ≠ .killed ∧ u.dev.readyEntries (.pool 7) ≠ []
         ∧ (upd u (fun d => { d with use := { at_ := d.time + 1, pushed := [(7, 1)] } })).dev.readyEntries (.pool 7) = [])
    ∧ (let u := s (fun u => { u with run := some r })
       ((u.dev.sampler 3).run) = some r ∧ r.killed = false ∧ r.committed = false ∧ (u.dev.sampler 3).late = [] ∧ (u.dev.queue 7).state = .opened ∧ (u.dev.queue 7).pctx = r.params.own
         ∧ (u.dev.queue 7).wide = false ∧ 1 ≤ u.dev.roomOf (.pool 7)) := by decide +kernel

theorem wit_SamplerUnits_closed :
    let x : Seq := { valid := true, own := 0, pbase := 1, resq := 7 }
    let r : StepRun := { seq := 255, params := x, ended := some 2, emits := [1] }
    let s := upd (at_ .S) (fun d => (d.setQueue 7 { state := .closed, kind := 1, logd := 6 }).setSampler 3 { run := some r, seqs := [(255, x)] })
    (s.dev.sampler 3).run = some r ∧ r.ended = some 2 ∧ r.killed = false ∧ r.committed = false ∧ (s.dev.sampler 3).late = [] ∧ (s.dev.sampler 3).progLate = [] ∧ (s.dev.queue 7).state ≠ .opened
    ∧ (let u := upd (at_ .S) (fun d => d.setQueue 7 { state := .opened, entries := [⟨5, false⟩] })
       (u.dev.seq 3 (5 % 256)).valid = false ∧ (u.dev.queue 7).entries = [⟨5, false⟩]) := by decide +kernel

/-- The module in a state of its life. -/
def inLife (l : Life) (s : State) : State := { s with mod := { s.mod with life := l } }

/-- The hypotheses about the two record copies name every combination: here those that need no key. A record in force whose bytes are
what the device asks for is not stale; one with another site byte is. -/
theorem wit_ModuleLife :
    let s := inLife .ready State.reset
    let t : SelfTest := ⟨false, false, [3], 0, 0⟩
    let off := inLife .off State.reset
    off.mod.life = .off ∧ State.reset.mod.life = .romBoot ∧ (t.ioFail || t.allDiesFail) = false ∧ (({ t with ioFail := true }).ioFail || t.allDiesFail) = true
    ∧ ({} : Record).valid = false ∧ (inLife .config s).mod.life = .config ∧ (inLife .attest s).mod.life = .attest ∧ s.mod.active.pubKey ≠ 1
    ∧ (s.mod.life = .ready ∨ s.mod.life = .degraded) ∧ recordStale s = false ∧ recordStale { s with mod := { s.mod with inForce := true } } = true
    ∧ ({} : Record).contentOk = false ∧ (2 : Nat) ≠ 0 ∧ 63 < 64
    ∧ ((upd s (fun d => d.setCtx 63 { state := .running })).dev.ctx 63).state ≠ .free
    ∧ ((upd s (fun d => d.setCore 0xF1 { frozen := true })).dev.core 0xF1).frozen = true := by
  and_intros <;> first | decide +kernel | rfl | exact .inl rfl

/-- A record that carries the module's own key, in a module with nothing lost and in one that has lost a Lake channel. -/
theorem wit_ModuleLife_key :
    let s : State := { inLife .attest State.reset with mod := { (inLife .attest State.reset).mod with active := { pubKey := Config.derivedKey } } }
    s.mod.active.pubKey = Config.derivedKey ∧ s.mod.life = .attest ∧ State.reset.dev.lakeMask = 0 ∧ (upd s (fun d => { d with lakeMask := 1 })).dev.lakeMask ≠ 0 :=
  ⟨rfl, rfl, rfl, by decide⟩

theorem wit_ModuleCommands :
    let s := inLife .ready State.reset
    let n64 := List.replicate 64 (0 : Byte)
    (inLife .off s).mod.life = .off ∧ s.mod.life ≠ .off ∧ ¬(0xC000 ≤ 0xBFFF ∧ 0xBFFF ≤ 0xC008) ∧ ¬(0xC000 ≤ 0xC009 ∧ 0xC009 ≤ 0xC008)
    ∧ ¬((inLife .config s).mod.life = .ready ∨ (inLife .config s).mod.life = .degraded) ∧ (inLife .config s).mod.life ≠ .attest ∧ (inLife .config s).mod.life ≠ .off
    ∧ (s.mod.life = .ready ∨ s.mod.life = .degraded) ∧ n64.length = 64 ∧ ([] : List Byte).length ≠ 64 ∧ 2 < 3 ∧ 144 ≤ 144 ∧ 64 ≤ 64 ∧ 8 ≤ 8
    ∧ s.dev.freezeRefused 15 143 = false ∧ (upd s (fun d => d.setSite 143 { state := .mappedOut })).dev.freezeRefused 15 143 = true
    ∧ n64 ≠ [] ∧ n64.length ≤ 4096 ∧ 0 = ([] : List Byte).length ∧ 0 + n64.length ≤ 2 ^ 20 ∧ 1 ≠ ([] : List Byte).length
    ∧ imageStatus s.mod.image s.mod.active.minimum ≠ 0
    ∧ (let t : State := { s with mod := { s.mod with runImage := n64 } }
       t.mod.runImage ≠ [] ∧ s.mod.runImage = [] ∧ Caller.transport true ≠ .image ∧ (imageOver t).mod.runImage = [] ∧ (imageOver t).mod.life = .ready) := by decide +kernel

theorem wit_LinkStates :
    let s (p : Nat) (l : Link) : State := upd State.reset (fun d => d.setLink p l)
    2 < 3 ∧ (State.reset.dev.link 0).state = .down ∧ ((s 0 { state := .up }).dev.link 0).state ≠ .down ∧ (State.reset.dev.link 2).state = .down
    ∧ ((s 2 { state := .training }).dev.link 2).state = .training ∧ linkSupported 0 16 16 true true = true ∧ linkSupported 2 64 8 false true = true
    ∧ linkSupported 2 64 16 false true = false ∧ linkSupported 0 64 16 true true = false ∧ ((s 2 { state := .up }).dev.link 2).state = .up
    ∧ ((s 2 { state := .degraded }).dev.link 2).state = .degraded ∧ ((s 2 { state := .recovering }).dev.link 2).state = .recovering
    ∧ ((s 0 { state := .recovering, flit := 1 }).dev.link 0).flit = 1 ∧ ((s 2 { state := .fenced, dirty := [0x10], lines := [0x10] }).dev.link 2).state = .fenced
    ∧ (let u := upd (at_ .S) (fun d => { d.setLink 0 { state := .up, lines := [8], dirty := [9], lent := [10] } with
         waits := [⟨.stream 0 .S, some 0, [0x800000000000 / 64], [], []⟩, ⟨.stream 0 .V, some 0, [10], [], []⟩] })
       ((u.dev.linkWaiters 0).filter Dev.unanswered).length = 1 ∧ (u.dev.linkWaiters 0).length = 2 ∧ (u.dev.link 0).state = .up) := by decide +kernel

theorem wit_RemoteAccesses :
    let far := 0x8000000000 / 64
    let s (p : Nat) (l : Link) : State := upd (inGrp (at_ .S) (fun g => { g with stash := [(5, { phys := 5, dirty := true, lru := 0 }), (6, { phys := 6, dirty := false, lru := 0 })] })) (fun d => d.setLink p l)
    let n64 := List.replicate 64 (0 : Byte)
    let up := s 0 { state := .up, asked := [(7, 7)], lent := [7], lastUse := [(7, 0)] }
    let peer := upd (s 2 { state := .degraded, asked := [(far, 0)] }) (fun d => d.setLink 0 { state := .up, lent := [7], shared := [9] })
    targetOf (7 * 64) = .lake ∧ targetOf (0xF00000000000) ≠ .lake ∧ (up.dev.link 0).state = .up ∧ (State.reset.dev.link 0).state = .down
    ∧ Map.find (up.dev.link 0).asked 7 ≠ none ∧ Map.find (up.dev.link 0).asked 8 = none ∧ (up.dev.link 0).lent.length + (up.dev.link 0).shared.length < 4194304 ∧ n64.length = 64 ∧ ([] : List Byte).length ≠ 64
    ∧ (up.dev.link 0).lent.contains 7 = true ∧ (up.dev.link 0).lent.contains 8 = false ∧ (peer.dev.link 2).state = .degraded ∧ (peer.dev.link 0).lent.contains 7 = true
    ∧ (peer.dev.link 0).lent.contains 8 = false ∧ (peer.dev.link 0).shared.contains 8 = false ∧ Map.find (peer.dev.link 2).asked far ≠ none
    ∧ Map.find up.dev.groups 12345 = none ∧ (Map.find up.dev.groups up.dev.cur.key).isSome = true ∧ Map.find up.dev.grp.stash 4 = none
    ∧ ((Map.find up.dev.grp.stash 5).map (·.dirty)) = some true ∧ ((Map.find up.dev.grp.stash 6).map (·.dirty)) = some false := by decide +kernel

/-- A group on a frozen site that holds Lake line 5 dirty. -/
theorem wit_RemoteAccesses_frozen :
    let s := upd (inGrp (at_ .S) (fun g => { g with stash := [(5, { phys := 5, dirty := true, lru := 0 })] })) (fun d => (d.setLink 0 { state := .up }).setLink 1 { state := .up })
    let f := upd s (fun d => d.setSite (d.siteOf 0) { d.site (d.siteOf 0) with state := .frozen })
    f.dev.frozenDirty (5 * 64) 64 = true ∧ f.dev.frozenDirty (6 * 64) 64 = false ∧ s.dev.frozenDirty (5 * 64) 64 = false ∧ (f.dev.link 0).state = .up
    ∧ (f.dev.link 0).lent.contains 5 = false ∧ (f.dev.link 0).shared.contains 5 = false ∧ targetOf (5 * 64) = .lake := by decide +kernel

theorem wit_ContextCommands :
    let s (c : Ctx) : State := upd (inLife .ready State.reset) (fun d => d.setCtx 63 c)
    let good : Ctx := { asid := 9, maxgrp := 1024, maxq := 4096, clumask := 1, fqBase := 1, img := 1 }
    let q : Ctx := { fqBase := 1, head := 14, tail := 3 }
    let cap := 16 * 2 ^ q.fqSize
    63 < 64 ∧ ((s { running := some 3 }).dev.ctx 63).running ≠ none ∧ (s good).dev.asidTaken 63 = false ∧ (s { good with asid := 0 }).dev.asidTaken 63 = true
    ∧ Dev.createOk good = true ∧ Dev.createOk { good with img := 0 } = false ∧ Dev.createOk { good with maxgrp := 1025 } = false
    ∧ ((s { state := .created }).dev.ctx 63).state = .created
    ∧ ((s { state := .faulted, faultedAt := 1 }).dev.ctx 63).faultedAt = (s good).dev.time + 1 ∧ ((s { state := .saved, waiting := [{}] }).dev.ctx 63).state = .saved
    ∧ ((s { state := .saving, running := some 4 }).dev.ctx 63).state = .saving ∧ (s { state := .saving, running := some 4 }).dev.residents 63 = []
    ∧ (inCtx (at_ .S) (fun c => { c with state := .saving, running := some 3 })).dev.residents 0 ≠ []
    ∧ 7 % 16 ≤ 7 ∧ ¬(1 ≤ 16 % 16 ∧ 16 % 16 ≤ 7) ∧ ¬(1 ≤ 8 % 16 ∧ 8 % 16 ≤ 7)
    ∧ (3 % cap + cap - q.head) % cap ≤ (q.tail + cap - q.head) % cap ∧ ¬(4 % cap + cap - q.head) % cap ≤ (q.tail + cap - q.head) % cap := by decide +kernel

/-- A pending request of context 0 for a kernel, with nothing resident. -/
def pendingGroup : State :=
  upd (inCtx (at_ .S) (fun c => { c with clumask := 1, kernels := [(0, { streams := 1, entries := [0x40] })] }))
    (fun d => { d with groups := [(keyOf 0 5, { state := .pending })], cores := [] })

theorem wit_GroupPlacement :
    ((pendingGroup.dev.nextPlacement pendingGroup.dev.requests []).map (fun x => (x.1, x.2.1))) = some (keyOf 0 5, 0)
    ∧ State.reset.dev.nextPlacement State.reset.dev.requests [] = none
    ∧ (pendingGroup.dev.group (keyOf 0 5)).state = .pending ∧ (pendingGroup.dev.group (keyOf 0 5)).stopped = false ∧ (pendingGroup.dev.group (keyOf 0 5)).stage = none
    ∧ State.reset.dev.time % 512 = 0 ∧ State.reset.dev.epochDone ≠ State.reset.dev.time / 512 + 1 ∧ (State.reset.tick 1).dev.time % 512 ≠ 0
    ∧ (∀ n ∈ List.range 64, (State.reset.dev.ctx n).pipes = []) := by decide +kernel

theorem wit_DebugAndCounters :
    let s := inCtx (at_ .S) (fun c => { c with dbgPos := [(0, 5)], breaks := [(2, { val := 0x1000, en := true })] })
    63 < 64 ∧ ¬((State.reset.dev.ctx 63).state = .running ∨ (State.reset.dev.ctx 63).state = .faulted) ∧ (s.dev.ctx 0).state = .running
    ∧ Map.find s.dev.groups (keyOf 0 65535) = none ∧ (Map.find s.dev.groups (keyOf 0 0)).isSome = true
    ∧ (let x := s.dev.group (keyOf 0 0)
       (x.stream .S).declared = true ∧ (x.stream .S).retired = false ∧ x.state = .running ∧ (x.stream .S).position < 5 ∧ (x.stream .S).wait = .none)
    ∧ (inCtx s (fun c => { c with dbgPos := [] })).dev.grp.streamS.position ≥ 0
    ∧ ((inGrp s (fun g => { g with state := .suspended })).dev.group (keyOf 0 0)).state ≠ .running ∧ (s.dev.group (keyOf 0 0)).entries = [] ∧ (s.dev.group (keyOf 0 0)).heldBy = none
    ∧ 144 ≤ 144 ∧ 6 < (if 144 < 144 then 50 else 7) ∧ 49 < (if 143 < 144 then 50 else 7)
    ∧ s.dev.myCtx = 0 ∧ s.dev.breakMatches (Map.get {} (s.dev.ctx 0).breaks 2) = true ∧ s.dev.breakMatches (Map.get {} (s.dev.ctx 0).breaks 3) = false := by
  decide +kernel

theorem wit_SiteEvents :
    let s (n : Nat) (x : Site) : State := upd State.reset (fun d => d.setSite n x)
    15 < 16 ∧ 8 < 9 ∧ ((s 143 { state := .mappedOut }).dev.site 143).state = .mappedOut ∧ (State.reset.dev.site 0).state = .healthy ∧ (State.reset.dev.cluster 0).power = .active
    ∧ (State.reset.dev.site 8).state = .spare ∧ ((s 0 { state := .suspect, corr := 64 }).dev.site 0).state = .suspect
    ∧ ((s 143 { state := .migrating, dest := 255, lcore := 127 }).dev.site 143).state = .migrating
    ∧ (let u := s 0 { state := .migrating, dest := 8, lcore := 0 }
       (u.dev.site 0).state = .migrating ∧ (u.dev.site 0).dest < 144 ∧ (u.dev.site 8).state = .spare ∧ (u.dev.site 0).lcore < 128)
    ∧ State.reset.dev.siteOf 127 ≠ 255 ∧ (State.reset.dev.core 0xF0).frozen = false ∧ State.reset.dev.stalled 0 .S = false
    ∧ (let g := (at_ .S).dev.grp
       g.core ≠ 0xFF ∧ 31 < g.rowsN ∧ Dev.isDropped (Map.get {} g.rows 31) = false)
    ∧ (let u := upd (inGrp (at_ .S) (fun g => { g with runSince := 0 })) (fun d => { d with time := 2 ^ 20 })
       u.dev.stalled 0 .S = true) := by decide +kernel

theorem wit_SiteEvents_tables :
    let g := (at_ .S).dev.grp
    let tagged := inGrp (at_ .S) (fun g => { g with rows := [(31, { tag := .tagged 3 })] })
    let kept (q : SState) := upd State.reset (fun d => d.setSite 8 { state := q, prev := .spare })
    g.core < 128 ∧ (at_ .S).dev.siteOf g.core < 144 ∧ ((at_ .S).dev.site ((at_ .S).dev.siteOf g.core)).state = .healthy ∧ 255 < g.recipesN
    ∧ (Dev.RowTag.id? (Map.get {} tagged.dev.grp.rows 31).tag).isSome = true ∧ ((kept .retained).dev.site 8).state = .retained ∧ ((kept .gated).dev.site 8).state = .gated
    ∧ (State.reset.dev.cluster 15).pwrNext = none ∧ (State.reset.dev.site 143).state ≠ .migrating ∧ (State.reset.dev.site 143).state ≠ .frozen := by decide +kernel

theorem wit_ClusterPower :
    let s (x : Cluster) : State := upd State.reset (fun d => d.setCluster 15 x)
    let p (q : PState) : State := s { power := q, rbase := 0x100 }
    15 < 16 ∧ ∀ q ∈ [PState.active, .quiescing, .quiesced, .saving, .saved, .retained, .gated, .waking], ((p q).dev.cluster 15).power = q
      ∧ ((p q).dev.cluster 15).rbase ≠ 0 ∧ ((p q).dev.cluster 15).rbase * 4096 + 0x240 ≤ 0xC000000000
      ∧ (p q).dev.migrates 15 = false ∧ (p q).dev.clusterGroups 15 = [] ∧ ((p q).dev.cluster 15).sessions = []
      ∧ ((s { power := q, rbase := 0xC000000 }).dev.cluster 15).rbase * 4096 + 0x240 > 0xC000000000
      ∧ ((s { power := q, wcause := 1 }).dev.cluster 15).wcause = 1 ∧ ¬(1 ≤ 6 % 16 ∧ 6 % 16 ≤ 5) := by decide +kernel

theorem wit_ClusterPower_waiting :
    let s (x : Cluster) (q : SState) : State := upd State.reset (fun d => (d.setCluster 15 x).setSite 143 { state := q })
    ((s { pwrNext := some 1 } .frozen).dev.cluster 15).pwrNext ≠ none ∧ (s {} .frozen).dev.migrates 15 = true ∧ ((s {} .frozen).dev.cluster 15).pwrNext = none
    ∧ ((s {} .frozen).dev.cluster 15).power ≠ .waking ∧ (s { power := .quiesced, pwrNext := some 5 } .mappedOut).dev.migrates 15 = false
    ∧ ((s { power := .quiesced, pwrNext := some 5 } .mappedOut).dev.cluster 15).pwrNext = some 5 ∧ (s { power := .quiescing } .migrating).dev.migrates 15 = true := by decide +kernel

theorem wit_RegisterWrites :
    let s := inLife .ready State.reset
    let k : XKey := { words := [(0, 1)] }
    63 < 64 ∧ 15 < 16 ∧ 7 < 8 ∧ 4095 < 4096 ∧ s.mod.life ≠ .off ∧ 0x0FFFFFF8 % 8 = 0 ∧ 0x0FFFFFF8 < 0x10000000 ∧ ¬(4 % 8 = 0) ∧ flag 1 0 = true
    ∧ ¬(∀ i, i < 4 → Map.get 0 k.words i = Map.get 0 k.words (i + 4)) ∧ (∀ i, i < 4 → Map.get 0 ({} : XKey).words i = Map.get 0 ({} : XKey).words (i + 4))
    ∧ canonical (2 ^ 62) = false ∧ canonical 0 = true ∧ 2 ^ 54 < (2 ^ 54 - 64) % 2 ^ 54 + 128 ∧ (s.dev.ccg true).busy = false
    ∧ ((upd s (fun d => d.setCcg true { busy := true })).dev.ccg true).busy = true ∧ 15 % 16 > 1
    ∧ (let u := inCtx (withKernel (at_ .S)) (fun c => { c with maxgrp := 2 })
       let v := upd u (fun d => (d.setCcg false { kbase := 0x1400 }).setCore 0xF0 { tlb := (d.core 0).tlb })
       let d0 : Dev := v.dev.setCcg false { kbase := 0x1400, busy := true }
       (v.dev.ctx 0).state = .running ∧ (v.dev.core 0xF0).slots = [] ∧ v.dev.siteRuns 0xF0 = true
       ∧ gives (Dev.verify (Dev.rdWord v.mod) { d0 with cur := { core := 0xF0, key := keyOf 0 65535 } } 0 0x1400)
           (fun x => (x.2.kernel 0 x.1).streams == 1 && (x.2.kernel 0 x.1).regs ≤ 2048 && x.2.groupCount 0 < (x.2.ctx 0).maxgrp) = true) := by
  decide +kernel

theorem wit_RegisterWrites_busy :
    let s := upd (serving (at_ .S)) (fun d => { d with waits := [goneWait] })
    (upd s (fun d => { d with tlbBusy := true })).dev.tlbBusy = true ∧ (upd s (fun d => { d with tlbBusy := true })).dev.drains = true ∧ State.reset.dev.drains = false := by decide +kernel

/-- The schedule of a placed word: one issue of a stream that may issue, whose group reads back, holds nothing, and runs. -/
theorem wit_StepRunsDecoded :
    let s := State.reset.withFetchWord 64 0x8150030000000064
    let next (s : State) := nextMove { s.tick 0 with agenda := s.agenda }
    let u := State.reset.withFetchWord 32 0x68180000
    let d := s.dev.forGroup 0 (keyOf 0 0) .S
    let o := d.stm
    let h : Dev := { d with cur := { d.cur with group := o.pc, pc := o.pc, word := 0 } }
    let g := h.readGroup .S h.declared o.pc
    let gd := g.dev.loadSlack o.decoded o.pc (Dev.reached g.words)
    let f := h.readGroup .S h.declared 0x100000
    (s.mod.life = .ready ∨ s.mod.life = .degraded) ∧ next s = some (.issue 0 0 .S, []) ∧ s.dev.siteRuns 0 = true ∧ (s.dev.core 0).service = false
    ∧ Map.find (s.dev.core 0).slots 0 = some (keyOf 0 0) ∧ s.dev.mayIssue 0 (keyOf 0 0) .S = true ∧ yields s 0 0 .S = false ∧ o.load = none ∧ o.skip = none
    ∧ o.resumeStep = 0 ∧ o.decoded = [] ∧ h.fetchBarred = false ∧ gives (h.access o.pc.toNat 8 8 .fetch o.pc.toNat) (fun _ => true) = true
    ∧ g.stop.isNone = true ∧ g.words.length = 1 ∧ gd.interlocked .S g.words = false ∧ (gd.tokenLack g.words).isNone = true ∧ (gd.ctx gd.myCtx).breaks = []
    ∧ (match f.stop with | some (.trap x) => x.cause != 0 | _ => false) = true
    ∧ (match runGroup { s with dev := gd } g.words with | .done _ => true | _ => false) = true
    ∧ next u = some (.sampler 0, []) ∧ (u.mod.life = .ready ∨ u.mod.life = .degraded)
    ∧ ((u.dev.sampler 0).run.map (·.ended)) = some none ∧ u.dev.stepWord 0 = some 0x68180000 ∧ decodeStep 0x68180000 = some (.semit 3)
    ∧ isEvent .powerRemoved = true ∧ isEvent (.li one 6 100) = false ∧ State.reset.agenda = [] := by decide +kernel

/-- A word that waits for a token, one that faults as it runs, and the service stream of a core that may issue. -/
theorem wit_StepRunsDecoded_stops :
    let s := State.reset.withFetchWord 64 (word 0 0x17 [(39, 1), (33, 2), (47, 1)])
    let s2 := State.reset.withFetchWord 64 (word 4 0x00 [(0, 0x15)])
    let head (s : State) := let d := s.dev.forGroup 0 (keyOf 0 0) .S
      let h : Dev := { d with cur := { d.cur with group := d.stm.pc, pc := d.stm.pc, word := 0 } }
      h.readGroup .S h.declared d.stm.pc
    let v := serving (at_ .S)
    (head s).stop.isNone = true ∧ ((head s).dev.tokenLack (head s).words).isSome = true ∧ (head s).dev.interlocked .S (head s).words = false
    ∧ (match runGroup { s2 with dev := (head s2).dev } (head s2).words with | .stopped y (.trap p) => !keepsPart y.ins && p.cause == 0x20 | _ => false) = true
    ∧ (v.dev.core 0).service = true ∧ (v.dev.core 0).svc.retired = false ∧ v.dev.engineFree 0 .S = true := by decide +kernel

/-- R11: a thermal trip comes before a seal-off of the same cycle that the schedule lists first. R383: so does a fence before the
recovery of its port. -/
theorem test_order_of_a_cycle :
    let first (s : State) (ms : List Move) := (nextMove { s with agenda := ms }).map (fun x => (x.1, x.2.map (·.what)))
    first (inLife .ready State.reset) [⟨0, .event (.sealOff (.transport false))⟩, ⟨0, .event .thermalTrip⟩, ⟨1, .event .railFault⟩]
      = some (.event .thermalTrip, [.event (.sealOff (.transport false)), .event .railFault])
    ∧ first (upd (inLife .ready State.reset) (fun d => d.setLink 1 { state := .recovering })) [⟨0, .event (.recoveryDone 1 64 8)⟩, ⟨0, .event (.lnkFence 1)⟩]
      = some (.event (.lnkFence 1), [.event (.recoveryDone 1 64 8)]) := by decide +kernel

/-- R238: of two streams that are ready the one with credits left issues, and the one of the higher priority has more of them in a new
round; a stream that has been ready for 64 cycles goes before. -/
theorem test_round_robin :
    let s := State.reset.withFetchWord 64 0x8150030000000064
    let two (p : Nat) (cs ws : List (Nat × Nat)) : State := upd s (fun d => ((d.setGroup (keyOf 1 0) { d.group 0 with slot := 1 }).setCtx 1 { d.ctx 0 with prio := p }).setCore 0
      { d.core 0 with slots := [(0, 0), (1, keyOf 1 0)], credits := cs, readySince := ws, tlb := (d.core 0).tlb })
    let turn (t : State) := (yields t 0 0 .S, yields t 0 1 .S)
    turn (two 0 [] []) = (false, false) ∧ turn (two 0 [(0, 0)] []) = (true, false) ∧ turn (two 3 [] []) = (true, false)
    ∧ turn (two 3 [(0, 0), (4, 0)] []) = (true, false) ∧ turn (two 3 [] [(0, 1)]) = (true, false)
    ∧ turn (upd (two 3 [] [(0, 1)]) (fun d => { d with time := 64 })) = (false, true)
    ∧ ((s.dev.forGroup 0 0 .S).noteIssue.core 0).credits = [(0, 0)] := by decide +kernel

/-- Words at the ends of their operand ranges, in streams that may decode them. -/
theorem wit_EncodeDecode :
    isStepWord (.sbr true 4095) = true ∧ Instr.wf .S 15 (.sbr true 4095) = true ∧ isStepWord (.sdraw 15) = true ∧ Instr.wf .S 15 (.sdraw 15) = true
    ∧ (∀ x ∈ [(Engine.S, Instr.li ⟨true, 2, 7, 3⟩ 63 (2 ^ 38 - 1)), (.S, .fadd one 4 63 62 61), (.S, .ld one 0 3 63 63 (2 ^ 20 - 1)), (.V, .vld one (ty 1) 3 0x8FF 15 (-2 ^ 17)),
          (.V, .vcvt one true 3 12 1 true 15 2047 0xA01), (.V, .segx one (ty 4) true true 0x8FF 2047), (.M, .mbcw one 1 7 7 15 15 (2 ^ 17 - 1)), (.X, .xcopy one 3 true 255 15 15),
          (.V, .gate one (ty 2) 255 7 15 0xA01), (.S, .epred one 63 3 1), (.V, .qpopRow one 255 true 15 2047), (.V, .rcpset one 255 0x8FF), (.S, .rcpdef one 255 3 63),
          (.S, .csrx one 63 63 4095), (.S, .spawn one 63 63 63 256)],
        x.2.wf x.1 15 = true ∧ x.2.hdr?.isSome = true ∧ (encode x.2).length = 1
        ∧ (encode x.2).all (fun w => classRuns x.1 (fld w 59 4) && opcRuns x.1 (fld w 59 4) (fld w 52 7) && (match decodeWord x.1 15 w with | .ok i => i == x.2 | _ => false)) = true)
    ∧ (let n : Instr := .nest one false 0x17 15 15 0 5 (10 * 32 + 3) ⟨65535, 1, 2, 3, 65535⟩ ⟨0x11, 0, 1, 0, 0x11⟩ ⟨1, 2, 3, 4, 5⟩ ⟨0, 0, 0, 0, 0⟩
       n.wf .V 15 = true ∧ (match encode n with | [a, b, c, e] => (match decodeNest .V 15 a b c e with | .ok i => i == n | _ => false) | _ => false) = true) := by
  decide +kernel

theorem wit_MemoryKept :
    holds (step (State.reset.withFetchWord 64 0x8150030000000064)) (fun _ => true) = true ∧ Memory.wf (State.reset.withFetchWord 64 0x8150030000000064).dev.mem := by
  decide +kernel

theorem wit_ModuleLifeKept :
    holds (step State.reset) (fun _ => true) = true ∧ State.reset.mod.sealedRight ∧ (inLife .degraded State.reset).mod.life = .degraded
    ∧ (let s := sealOff 3 State.reset
       holds (step s) (fun _ => true) = true ∧ s.mod.sealedRight ∧ s.mod.life = .sealedOff) := by decide +kernel

end Sys2Proof.Tests
end

section
/-!
PROOFS. Recipes (spec/03_register.md R52 to R64): what RCPDEF, RCPSET and RCPCLR do to tags and entries, and what a replay does to the
row that it is for.
-/

namespace Sys2Proof.Recipes
open Sys2Proof.Machine

/-! ### Results and tables -/

@[simp] theorem ok_bind {α β : Type} (a : α) (f : α → Res β) : ((.ok a : Res α) >>= f) = f a := rfl
@[simp] theorem waitFor_bind {α β : Type} (w : Wait) (f : α → Res β) : ((waitFor w : Res α) >>= f) = waitFor w := rfl
@[simp] theorem trap_bind {α β : Type} (c a : Nat) (f : α → Res β) : ((trap c a : Res α) >>= f) = trap c a := rfl
@[simp] theorem commitReg_bind {α β : Type} (a : Nat) (f : α → Res β) : ((commitReg a : Res α) >>= f) = commitReg a := rfl
@[simp] theorem trapIf_true (c a : Nat) : trapIf true c a = trap c a := rfl
@[simp] theorem trapIf_false (c a : Nat) : trapIf false c a = .ok () := rfl

/-- A search in a table whose pairs have changed and whose keys have not. -/
theorem find_map_of_keys {α : Type} {F : Nat × α → Nat × α} (hF : ∀ e, (F e).1 = e.1) (k : Nat) :
    ∀ m : Map α, Map.find (m.map F) k = (Map.find m k).map (fun v => (F (k, v)).2)
  | [] => rfl
  | x :: m => by
    rw [List.map_cons, Map.find_cons, Map.find_cons, hF, find_map_of_keys hF k m]
    split
    · next hk => subst hk; rfl
    · rfl

theorem get_mapV {α : Type} (f : α → α) (d : α) (hd : f d = d) (m : Map α) (k : Nat) :
    Map.get d (Map.mapV f m) k = f (Map.get d m k) := by
  rw [Map.get_eq_find, Map.get_eq_find, Map.mapV, find_map_of_keys (F := fun e => (e.1, f e.2)) (fun _ => rfl)]
  cases Map.find m k <;> simp [hd]

theorem get_upd {α : Type} (d : α) (m : Map α) (n k : Nat) (f : α → α) :
    Map.get d (Map.upd d m n f) k = if k = n then f (Map.get d m k) else Map.get d m k := by
  split
  · next hk => subst hk; exact Map.get_set_same _ _ _ _
  · next hk => exact Map.get_set_ne _ _ _ _ _ hk

/-- What holds of every value of a table and of the default holds of what is read. -/
theorem get_of_forall {α : Type} {P : α → Prop} {d : α} {m : Map α} (hm : ∀ e ∈ m, P e.2) (hd : P d) (k : Nat) :
    P (Map.get d m k) := by
  rw [Map.get_eq_find]
  cases hf : Map.find m k with
  | none => exact hd
  | some v => exact hm _ (Map.mem_of_find hf)

/-! ### RCPDEF (R58) -/

section Rcpdef
variable {d : Dev} {fa : Nat}

theorem rcpdefOp_poisoned (m : Mod) (id nm1 : Nat) (hp : (d.reg fa).p = true) :
    d.rcpdefOp m id nm1 fa = commitReg (d.reg fa).v.toNat := by
  simp [Dev.rcpdefOp, Dev.baseClean, hp]

theorem rcpdefOp_unaligned (m : Mod) (id nm1 : Nat) (hp : (d.reg fa).p = false) (ha : (d.reg fa).v.toNat % 8 ≠ 0) :
    d.rcpdefOp m id nm1 fa = trap 5 (d.reg fa).v.toNat := by
  have unaligned : ((d.reg fa).v.toNat % 8 != 0) = true := by simpa using ha
  simp [Dev.rcpdefOp, Dev.baseClean, hp, unaligned]

/-- A row as the redefinition of a recipe leaves it: without the tag of that recipe (R58). -/
def freed (id : Nat) (x : Row) : Row := if x.tag = .tagged id then { x with tag := .live } else x

/-- The device after a redefinition: rows of the old recipe lose their tags, and the entry is written whole (R58). -/
def defined (d : Dev) (id : Nat) (ws : List (Nat × Bool)) : Dev :=
  d.setGrp { d.grp with
    rows := Map.mapV (freed id) d.grp.rows
    recipes := Map.set d.grp.recipes id { valid := true, words := ws.map (·.1), p := ws.any (·.2) } }

/-- RCPDEF once its words have been read: R53 decides, and then dropped rows of the entry (R58, R61). -/
theorem rcpdefOp_read {m : Mod} {id nm1 : Nat} {ws : List (Nat × Bool)} {d1 : Dev} (hp : (d.reg fa).p = false)
    (ha : (d.reg fa).v.toNat % 8 = 0) (hw : readWords (Dev.rdWord m) d (d.reg fa).v.toNat (nm1 + 1) = .ok (ws, d1))
    (hid : id < d1.grp.recipesN) :
    d.rcpdefOp m id nm1 fa = match bodyFault d1.grp.rowsN (ws.map (·.1)) with
      | some j => trap 0x15 ((d.reg fa).v.toNat + 8 * j)
      | none => d1.rcpdefReplay id >>= fun _ => .ok (defined d1 id ws) := by
  simp only [Dev.rcpdefOp, Dev.baseClean, hp, ha, hw, ok_bind, Nat.not_le.mpr hid, decide_false, trapIf_false, bne_self_eq_false] <;> rfl

theorem rcpdefReplay_ok {id : Nat} (hd : ∀ x ∈ d.grp.rows, x.2.tag ≠ .dropped id) : d.rcpdefReplay id = .ok () := by
  have none_dropped : d.grp.rows.filter (fun e => e.2.tag == .dropped id) = [] := by simpa using hd
  simp [Dev.rcpdefReplay, none_dropped]

theorem defined_recipe (d : Dev) (id : Nat) (ws : List (Nat × Bool)) (k : Nat) :
    Map.get {} (defined d id ws).grp.recipes k =
      if k = id then { valid := true, words := ws.map (·.1), p := ws.any (·.2) } else Map.get {} d.grp.recipes k := by
  split
  · next hk => simp [defined, hk]
  · next hk => simp [defined, Map.get_set_ne _ _ _ _ _ hk]

theorem defined_row (d : Dev) (id : Nat) (ws : List (Nat × Bool)) (k : Nat) :
    (defined d id ws).row k = freed id (d.row k) := by
  rw [Dev.row, defined, Dev.grp_setGrp]
  exact get_mapV (freed id) {} rfl d.grp.rows k

end Rcpdef

/-! ### RCPSET (R59) -/

/-- A group with one row tagged with a recipe (R59). -/
abbrev tagRow (g : Group) (id r : Nat) : Group :=
  { g with rows := Map.upd {} g.rows r (fun x => { x with tag := .tagged id, bad := false }) }

/-- A group with one row live (R61). -/
abbrev untagRow (g : Group) (r : Nat) : Group := { g with rows := Map.upd {} g.rows r (fun x => { x with tag := .live }) }

section Rcpset
variable {d : Dev} {id r : Nat}

theorem rcpsetOp_rowOutside (hr : 0x800 ≤ r ∨ d.grp.rowsN ≤ r) : d.rcpsetOp id r = trap 4 d.cur.pc.toNat := by
  have outside : (decide (0x800 ≤ r) || decide (d.grp.rowsN ≤ r)) = true := by simpa using hr
  rw [Dev.rcpsetOp, outside, trapIf_true, trap_bind]

theorem rcpsetOp_idOutside (hid : d.grp.recipesN ≤ id) : d.rcpsetOp id r = trap 4 d.cur.pc.toNat := by
  by_cases hr : 0x800 ≤ r ∨ d.grp.rowsN ≤ r
  · exact rcpsetOp_rowOutside hr
  · have inWindow : (decide (0x800 ≤ r) || decide (d.grp.rowsN ≤ r)) = false := by simpa using hr
    rw [Dev.rcpsetOp, inWindow, trapIf_false, ok_bind, decide_eq_true hid, trapIf_true, trap_bind]

/-- RCPSET of a row of the window and an identifier of the table: the entry decides, then the depth, then the row's state. -/
theorem rcpsetOp_inside (h1 : r < 0x800) (h2 : r < d.grp.rowsN) (h3 : id < d.grp.recipesN) :
    d.rcpsetOp id r =
      if (Map.get {} d.grp.recipes id).valid = false ∨ Dev.depthOk (tagRow d.grp id r) = false then trap 0x15 r
      else if Dev.isDropped (d.row r) then waitFor (.replay r [])
      else .ok (d.setGrp (if (bodySources (Map.get {} d.grp.recipes id).words).any (fun x => d.cur.wrote.contains x)
        then untagRow d.grp r else tagRow d.grp id r)) := by
  have inWindow : (decide (0x800 ≤ r) || decide (d.grp.rowsN ≤ r)) = false := by simp [h1, h2]
  simp only [Dev.rcpsetOp, inWindow, Nat.not_le.mpr h3, decide_false, trapIf_false, ok_bind]
  cases (Map.get {} d.grp.recipes id).valid
  · rfl
  cases Dev.depthOk (tagRow d.grp id r)
  · rfl
  simp only [Bool.not_true, trapIf_false, ok_bind, Bool.true_eq_false, or_self, ↓reduceIte]
  split
  · rfl
  · split <;> rfl

end Rcpset

/-! ### RCPCLR (R60) -/

/-- The range `lo` up to `hi` of rows has lost its tags, and nothing else of any row has changed. -/
def Cleared (d d' : Dev) (lo hi : Nat) : Prop :=
  ∀ k, d'.row k = if lo ≤ k ∧ k < hi then { d.row k with tag := .live } else d.row k

theorem cleared_empty (d : Dev) (lo : Nat) : Cleared d d lo lo := fun k => by rw [if_neg (by omega)]

/-- One more row of a range. -/
theorem cleared_succ {d d1 d2 : Dev} {lo n : Nat} (h1 : Cleared d d1 lo (lo + n))
    (h2 : ∀ k, d2.row k = if k = lo + n then { d1.row k with tag := .live } else d1.row k) : Cleared d d2 lo (lo + (n + 1)) := by
  intro k
  rw [h2 k, h1 k]
  by_cases hk : k = lo + n
  · simp [hk]
  · have sameRange : (lo ≤ k ∧ k < lo + n) ↔ (lo ≤ k ∧ k < lo + (n + 1)) := by omega
    simp only [hk, ↓reduceIte, sameRange]

theorem live_eta (x : Row) (h : (Dev.RowTag.id? x.tag).isNone = true) : { x with tag := .live } = x := by
  obtain ⟨v, p, sat, tag, dirty, bad⟩ := x
  cases tag with
  | live => rfl
  | tagged _ => cases h
  | dropped _ => cases h

theorem row_untagRow (d : Dev) (r k : Nat) :
    (d.setGrp (untagRow d.grp r)).row k = if k = r then { d.row k with tag := .live } else d.row k := by
  rw [Dev.row, Dev.grp_setGrp, get_upd]; rfl

/-- A range without dropped rows is cleared at once (R60). -/
theorem clearRange_ok (d : Dev) (lo : Nat) :
    ∀ n, (∀ j, j < n → Dev.isDropped (d.row (lo + j)) = false) → ∃ d', d.clearRange lo n = .ok d' ∧ Cleared d d' lo (lo + n)
  | 0, _ => ⟨d, rfl, cleared_empty d lo⟩
  | n + 1, hd => by
    obtain ⟨d1, hok, hcl⟩ := clearRange_ok d lo n (fun j hj => hd j (by omega))
    have here : d1.row (lo + n) = d.row (lo + n) := by rw [hcl, if_neg (by omega)]
    have kept : Dev.isDropped (d1.row (lo + n)) = false := by rw [here]; exact hd n (by omega)
    simp only [Dev.clearRange, hok, ok_bind, kept, Bool.false_eq_true, ↓reduceIte]
    split
    · next hlive =>
      refine ⟨d1, rfl, cleared_succ hcl fun k => ?_⟩
      split
      · next hk => subst hk; exact (live_eta _ hlive).symm
      · rfl
    · exact ⟨_, rfl, cleared_succ hcl (row_untagRow d1 (lo + n))⟩

/-- The first dropped row of a range stops its clearing, with the rows before it cleared (R60). -/
theorem clearRange_wait {d : Dev} {lo k : Nat} (hk : Dev.isDropped (d.row (lo + k)) = true)
    (hd : ∀ j, j < k → Dev.isDropped (d.row (lo + j)) = false) {n : Nat} (hn : k < n) :
    d.clearRange lo n = waitFor (.replay (lo + k) ((List.range k).map (lo + ·))) := by
  induction n with
  | zero => omega
  | succ n ih =>
    rw [Dev.clearRange]
    rcases Nat.lt_succ_iff_lt_or_eq.1 hn with hlt | rfl
    · rw [ih hlt, waitFor_bind]
    · obtain ⟨d1, hok, hcl⟩ := clearRange_ok d lo k hd
      have here : d1.row (lo + k) = d.row (lo + k) := by rw [hcl, if_neg (by omega)]
      simp only [hok, ok_bind, here, hk, ↓reduceIte]

theorem rcpclrOp_outside {d : Dev} {cnt r : Nat} (h : 0x800 ≤ r ∨ d.grp.rowsN < r + cnt) : d.rcpclrOp cnt r = trap 4 d.cur.pc.toNat := by
  have outside : (decide (0x800 ≤ r) || decide (d.grp.rowsN < r + cnt)) = true := by simpa using h
  rw [Dev.rcpclrOp, outside, trapIf_true, trap_bind]

/-- RCPCLR of rows of the window that begins at its first row. -/
theorem rcpclrOp_fresh {d : Dev} {cnt r : Nat} (h1 : r < 0x800) (h2 : r + cnt ≤ d.grp.rowsN) (h3 : d.stm.resumeStep = 0) :
    d.rcpclrOp cnt r = d.clearRange r cnt := by
  have inWindow : (decide (0x800 ≤ r) || decide (d.grp.rowsN < r + cnt)) = false := by simp [h1, h2]
  simp only [Dev.rcpclrOp, inWindow, trapIf_false, ok_bind, h3, Nat.max_zero, Nat.add_sub_cancel_left]

/-! ### Replays (R62, R63) -/

/-- A dropped row stays dropped when a granule of any group is lent. -/
theorem rowIn_lend_dropped {d : Dev} {key r id : Nat} (x k : Nat) (h : (Dev.rowIn (d.group key) r).tag = .dropped id) :
    (Dev.rowIn ((d.lend x k).group key) r).tag = .dropped id := by
  by_cases hx : key = x
  · subst hx
    rw [Dev.rowIn, Map.get_eq_find] at h
    rw [Dev.lend, Dev.group_setGroup, Dev.rowIn, Map.get_eq_find,
      find_map_of_keys (fun e => by
        dsimp only
        split
        · split <;> rfl
        · rfl)]
    cases hf : Map.find (d.group key).rows r with
    | none => rw [hf] at h; cases h
    | some y => rw [hf] at h; obtain ⟨v, p, sat, tag, dirty, bad⟩ := y; cases h; rfl
  · rwa [Dev.lend, Dev.group_setGroup_ne _ _ _ _ hx]

/-- What a group has lent says nothing of its rows. -/
theorem rowIn_setLent (d : Dev) (key r : Nat) (l : List Nat) :
    Dev.rowIn ((d.setGroup key { d.group key with lent := l }).group key) r = Dev.rowIn (d.group key) r := by
  rw [Dev.group_setGroup]; rfl

/-- A dropped row stays dropped when a granule is reclaimed. -/
theorem reclaim_dropped {d d' : Dev} {key r id k : Nat} {keep : List Nat} (hr : d.reclaim key keep k = some d')
    (h : (Dev.rowIn (d.group key) r).tag = .dropped id) : (Dev.rowIn (d'.group key) r).tag = .dropped id := by
  unfold Dev.reclaim at hr
  dsimp only at hr
  split at hr
  · -- the granule is not lent
    cases hr; exact h
  split at hr
  · -- the core has a free granule
    cases hr; rw [rowIn_setLent]; exact h
  split at hr
  · cases hr
  split at hr
  · cases hr
  · -- another granule is lent for it
    cases hr; rw [rowIn_setLent]; exact rowIn_lend_dropped _ _ h

theorem reclaimAll_dropped {key r id : Nat} {keep : List Nat} : ∀ {ks : List Nat} {d d' : Dev}, d.reclaimAll key keep ks = some d' →
    (Dev.rowIn (d.group key) r).tag = .dropped id → (Dev.rowIn (d'.group key) r).tag = .dropped id
  | [], _, _, hr, h => by cases hr; exact h
  | k :: ks, d, d', hr, h => by
    obtain ⟨d1, h1, h2⟩ := Option.bind_eq_some_iff.1 hr
    exact reclaimAll_dropped h2 (reclaim_dropped h1 h)

/-- A group that has lent nothing needs no granule back. -/
theorem reclaimAll_nothingLent {d : Dev} {key : Nat} (hl : (d.group key).lent = []) (keep : List Nat) :
    ∀ ks : List Nat, d.reclaimAll key keep ks = some d
  | [] => rfl
  | k :: ks => by
    have one : d.reclaim key keep k = some d := by simp [Dev.reclaim, hl]
    rw [Dev.reclaimAll, one]
    exact reclaimAll_nothingLent hl keep ks

@[simp] theorem group_countOn (d : Dev) (core i n key : Nat) : (d.countOn core i n).group key = d.group key := by
  unfold Dev.countOn; dsimp only; split <;> rfl

/-- A dropped row that has been replayed is tagged with its recipe again (R55, R64). -/
theorem replayRow_tagged {d d' : Dev} {key r id n : Nat} (h : (Dev.rowIn (d.group key) r).tag = .dropped id)
    (hr : d.replayRow key r (n + 1) = some d') : (Dev.rowIn (d'.group key) r).tag = .tagged id := by
  rw [Dev.replayRow, h] at hr
  dsimp only at hr
  split at hr
  · cases hr
  split at hr
  · cases hr
  split at hr
  · cases hr
  · cases hr
    rw [group_countOn, Dev.group_setGroup, Dev.rowIn, Map.get_set_same]

/-- An uncorrectable error in the tag or in the entry makes a replay fail (R63). -/
theorem replayRow_bad {d : Dev} {key r id : Nat} (h : (Dev.rowIn (d.group key) r).tag = .dropped id)
    (hb : (Dev.rowIn (d.group key) r).bad = true ∨ (Map.get {} (d.group key).recipes id).bad = true) (n : Nat) :
    d.replayRow key r n = none := by
  cases n with
  | zero => rfl
  | succ n =>
    rw [Dev.replayRow, h]
    exact if_pos (by simpa [or_comm] using hb)

/-- The replay of one row, once its granules have come back. -/
theorem replayRows_one {d d1 : Dev} {key r : Nat} {ks : List Nat} (hks : Dev.replayGranules (d.group key) [r] = ks)
    (hr : d.reclaimAll key ks ks = some d1) : d.replayRows key [] [r] = match d1.replayRow key r 4 with
      | some d2 => .ok d2
      | none => .error (.trap (Dev.replayTrap (d1.group key) r)) := by
  subst hks
  rw [Dev.replayRows, List.nil_append, hr]
  simp only [List.foldlM_cons, List.foldlM_nil]
  cases d1.replayRow key r 4 <;> rfl

theorem replayRows_tagged {d d' : Dev} {key r id : Nat} (h : (Dev.rowIn (d.group key) r).tag = .dropped id)
    (hr : d.replayRows key [] [r] = .ok d') : (Dev.rowIn (d'.group key) r).tag = .tagged id := by
  cases hc : d.reclaimAll key (Dev.replayGranules (d.group key) [r]) (Dev.replayGranules (d.group key) [r]) with
  | none => simp [Dev.replayRows, hc, waitFor] at hr
  | some d1 =>
    rw [replayRows_one rfl hc] at hr
    cases hx : d1.replayRow key r 4 with
    | none => rw [hx] at hr; cases hr
    | some d2 =>
      rw [hx] at hr
      cases hr
      exact replayRow_tagged (reclaimAll_dropped hc h) hx

theorem replayRows_nothingLent {d d' : Dev} {key r : Nat} (hl : (d.group key).lent = []) (hr : d.replayRow key r 4 = some d') :
    d.replayRows key [] [r] = .ok d' := by
  rw [replayRows_one rfl (reclaimAll_nothingLent hl _ _), hr]

/-- RECIPE_REPLAY out of place does nothing (R63). -/
theorem replayEvent_idle {d : Dev} {key r : Nat}
    (h : (d.group key).state ≠ .running ∨ d.siteRuns (d.group key).core = false ∨ Dev.isDropped (Dev.rowIn (d.group key) r) = false
      ∨ (Dev.replayWaiters (d.group key) r = [] ∧ Dev.waitsGranule (d.group key) r = false)) :
    d.replayEvent key r = d := by
  unfold Dev.replayEvent
  dsimp only
  split
  · rfl
  · next hrun =>
    simp only [Bool.or_eq_true, bne_iff_ne, Bool.not_eq_eq_eq_not, Bool.not_true, not_or, ne_eq, Classical.not_not, Bool.not_eq_false] at hrun
    obtain ⟨⟨hstate, hsite⟩, hdrop⟩ := hrun
    have idle : Dev.replayWaiters (d.group key) r = [] ∧ Dev.waitsGranule (d.group key) r = false := by
      simpa [hstate, hsite, hdrop] using h
    simp [idle.1, idle.2]

/-- RECIPE_REPLAY of a dropped row that streams wait for: the answer of its replay (R63). -/
theorem replayEvent_awaited {d : Dev} {key r id : Nat} (h1 : (d.group key).state = .running)
    (h2 : d.siteRuns (d.group key).core = true) (h3 : (Dev.rowIn (d.group key) r).tag = .dropped id)
    (h4 : Dev.waitsGranule (d.group key) r = false) (h5 : Dev.replayWaiters (d.group key) r ≠ []) :
    d.replayEvent key r = match d.replayRows key [] [r] with
      | .ok d1 => d1
      | .error (.wait _) => d.preemptReader key
      | .error (.trap _) => (Dev.replayWaiters (d.group key) r).foldl (fun d e => d.replayFault key r e) d := by
  have hd : Dev.isDropped (Dev.rowIn (d.group key) r) = true := by rw [Dev.isDropped, h3]
  simp only [Dev.replayEvent, h1, h2, hd, h4, List.isEmpty_eq_false_iff.2 h5, bne_self_eq_false, Bool.not_true, Bool.or_self,
    Bool.false_eq_true, ↓reduceIte] <;> rfl

/-! ### The instructions and the event -/

theorem exec_rcpdef (h : Hdr) (id nm1 fa : Nat) (s : State) :
    exec (.rcpdef h id nm1 fa) s = streamM h (fun m d => d.rcpdefOp m id nm1 fa) s := rfl
theorem exec_rcpset (h : Hdr) (id fD : Nat) (s : State) : exec (.rcpset h id fD) s = stream h (·.rcpsetOp id fD) s := rfl
theorem exec_rcpclr (h : Hdr) (cm1 fD : Nat) (s : State) : exec (.rcpclr h cm1 fD) s = stream h (·.rcpclrOp (cm1 + 1) fD) s := rfl
theorem exec_recipeReplay (g r : Nat) (s : State) : exec (.recipeReplay g r) s = .next (s.with (s.dev.replayEvent g r)) := rfl

section Instructions
variable {s : State} {h : Hdr}

theorem rcpdef_does {id nm1 fa : Nat} {ws : List (Nat × Bool)} {d1 : Dev} (hl : s.dev.lets h) (hp : (s.dev.reg fa).p = false)
    (ha : (s.dev.reg fa).v.toNat % 8 = 0)
    (hw : readWords (Dev.rdWord s.mod) s.dev (s.dev.reg fa).v.toNat (nm1 + 1) = .ok (ws, d1)) (hid : id < d1.grp.recipesN)
    (hb : bodyFault d1.grp.rowsN (ws.map (·.1)) = none) (hd : ∀ x ∈ d1.grp.rows, x.2.tag ≠ .dropped id) :
    Does (.rcpdef h id nm1 fa) s h (defined d1 id ws) := by
  refine (exec_rcpdef ..).trans (streamM_ok hl ?_)
  simp only [rcpdefOp_read hp ha hw hid, hb, rcpdefReplay_ok hd, ok_bind]

theorem rcpdef_bodyFault {id nm1 fa j : Nat} {ws : List (Nat × Bool)} {d1 : Dev} (hl : s.dev.lets h)
    (hp : (s.dev.reg fa).p = false) (ha : (s.dev.reg fa).v.toNat % 8 = 0)
    (hw : readWords (Dev.rdWord s.mod) s.dev (s.dev.reg fa).v.toNat (nm1 + 1) = .ok (ws, d1)) (hid : id < d1.grp.recipesN)
    (hb : bodyFault d1.grp.rowsN (ws.map (·.1)) = some j) :
    Faults (.rcpdef h id nm1 fa) s 0x15 ((s.dev.reg fa).v.toNat + 8 * j) := by
  refine (exec_rcpdef ..).trans (streamM_trap hl ?_)
  simp only [rcpdefOp_read hp ha hw hid, hb]
  rfl

/-- RCPDEF by what it finds: a poisoned base, an unaligned one, a word that breaks R53, or a body (R58). -/
theorem rcpdef_results (id nm1 fa : Nat) (hl : s.dev.lets h) :
    let d := s.dev
    let base := (d.reg fa).v.toNat
    ((d.reg fa).p = true → Commits (.rcpdef h id nm1 fa) s base)
    ∧ ((d.reg fa).p = false → (base % 8 ≠ 0 → Faults (.rcpdef h id nm1 fa) s 5 base)
      ∧ (base % 8 = 0 → ∀ ws d1, readWords (Dev.rdWord s.mod) d base (nm1 + 1) = .ok (ws, d1) → id < d1.grp.recipesN →
        (∀ j, bodyFault d1.grp.rowsN (ws.map (·.1)) = some j → Faults (.rcpdef h id nm1 fa) s 0x15 (base + 8 * j))
        ∧ (bodyFault d1.grp.rowsN (ws.map (·.1)) = none → (∀ x ∈ d1.grp.rows, x.2.tag ≠ .dropped id) →
          ∃ d2, Does (.rcpdef h id nm1 fa) s h d2
            ∧ Map.get {} d2.grp.recipes id = { valid := true, words := ws.map (·.1), p := ws.any (·.2) }
            ∧ (∀ k, k ≠ id → Map.get {} d2.grp.recipes k = Map.get {} d1.grp.recipes k)
            ∧ ∀ k, (d2.row k).v = (d1.row k).v ∧ (d2.row k).p = (d1.row k).p
              ∧ (d2.row k).tag = if (d1.row k).tag = .tagged id then .live else (d1.row k).tag))) := by
  refine ⟨fun hp => ?_, fun hp => ⟨fun ha => ?_, fun ha ws d1 hw hid => ⟨fun j hb => ?_, fun hb hd => ?_⟩⟩⟩
  · exact (exec_rcpdef ..).trans (streamM_trap hl (rcpdefOp_poisoned _ _ _ hp))
  · exact (exec_rcpdef ..).trans (streamM_trap hl (rcpdefOp_unaligned _ _ _ hp ha))
  · exact rcpdef_bodyFault hl hp ha hw hid hb
  · refine ⟨defined d1 id ws, rcpdef_does hl hp ha hw hid hb hd, ?_, fun k hk => ?_, fun k => ?_⟩
    · rw [defined_recipe, if_pos rfl]
    · rw [defined_recipe, if_neg hk]
    · rw [defined_row, freed]; split <;> exact ⟨rfl, rfl, rfl⟩

theorem rcpset_rowOutside {id fD : Nat} (hl : s.dev.lets h) (hr : 0x800 ≤ fD ∨ s.dev.grp.rowsN ≤ fD) :
    Faults (.rcpset h id fD) s 4 s.dev.cur.pc.toNat := (exec_rcpset ..).trans (stream_trap hl (rcpsetOp_rowOutside hr))

theorem rcpset_idOutside {id fD : Nat} (hl : s.dev.lets h) (hid : s.dev.grp.recipesN ≤ id) :
    Faults (.rcpset h id fD) s 4 s.dev.cur.pc.toNat := (exec_rcpset ..).trans (stream_trap hl (rcpsetOp_idOutside hid))

/-- RCPSET of a row of the window and an identifier of the table, by the entry, the depth and the state of the row (R54, R59, R61). -/
theorem rcpset_inside {id fD : Nat} (hl : s.dev.lets h) (h1 : fD < 0x800) (h2 : fD < s.dev.grp.rowsN) (h3 : id < s.dev.grp.recipesN) :
    let d := s.dev
    let e := Map.get {} d.grp.recipes id
    (e.valid = false → Faults (.rcpset h id fD) s 0x15 fD)
    ∧ (e.valid = true → Dev.depthOk (tagRow d.grp id fD) = false → Faults (.rcpset h id fD) s 0x15 fD)
    ∧ (e.valid = true → Dev.depthOk (tagRow d.grp id fD) = true → Dev.isDropped (d.row fD) = false →
        Does (.rcpset h id fD) s h (d.setGrp (if (bodySources e.words).any (fun x => d.cur.wrote.contains x)
          then untagRow d.grp fD else tagRow d.grp id fD)))
    ∧ (e.valid = true → Dev.depthOk (tagRow d.grp id fD) = true → Dev.isDropped (d.row fD) = true →
        Waits (.rcpset h id fD) s (.replay fD [])) := by
  have body := rcpsetOp_inside h1 h2 h3
  refine ⟨fun hv => ?_, fun _ hk => ?_, fun hv hk hd => ?_, fun hv hk hd => ?_⟩
  · exact (exec_rcpset ..).trans (stream_trap hl (body.trans (if_pos (.inl hv))))
  · exact (exec_rcpset ..).trans (stream_trap hl (body.trans (if_pos (.inr hk))))
  · refine (exec_rcpset ..).trans (stream_ok hl (body.trans ?_))
    rw [if_neg (by simp [hv, hk]), hd, if_neg Bool.false_ne_true]
  · refine (exec_rcpset ..).trans (stream_wait hl (body.trans ?_))
    rw [if_neg (by simp [hv, hk]), if_pos hd]
    rfl

/-- RCPCLR of a range of the window without dropped rows (R60). -/
theorem rcpclr_does {cm1 fD : Nat} (hl : s.dev.lets h) (h1 : fD < 0x800) (h2 : fD + (cm1 + 1) ≤ s.dev.grp.rowsN)
    (h3 : s.dev.stm.resumeStep = 0) (hd : ∀ x ∈ s.dev.grp.rows, Dev.isDropped x.2 = false) :
    ∃ d2, Does (.rcpclr h cm1 fD) s h d2 ∧ Cleared s.dev d2 fD (fD + (cm1 + 1)) := by
  obtain ⟨d2, hok, hcl⟩ := clearRange_ok s.dev fD (cm1 + 1) (fun j _ => get_of_forall (P := fun x => Dev.isDropped x = false) hd rfl (fD + j))
  exact ⟨d2, (exec_rcpclr ..).trans (stream_ok hl ((rcpclrOp_fresh h1 h2 h3).trans hok)), hcl⟩

theorem rcpclr_waits {cm1 fD k : Nat} (hl : s.dev.lets h) (h1 : fD < 0x800) (h2 : fD + (cm1 + 1) ≤ s.dev.grp.rowsN)
    (h3 : s.dev.stm.resumeStep = 0) (hk : k < cm1 + 1) (hdk : Dev.isDropped (s.dev.row (fD + k)) = true)
    (hd : ∀ j, j < k → Dev.isDropped (s.dev.row (fD + j)) = false) :
    Waits (.rcpclr h cm1 fD) s (.replay (fD + k) ((List.range k).map (fD + ·))) :=
  (exec_rcpclr ..).trans (stream_wait hl ((rcpclrOp_fresh h1 h2 h3).trans (clearRange_wait hdk hd hk)))

theorem rcpclr_outside {cm1 fD : Nat} (hl : s.dev.lets h) (ho : 0x800 ≤ fD ∨ s.dev.grp.rowsN < fD + (cm1 + 1)) :
    Faults (.rcpclr h cm1 fD) s 4 s.dev.cur.pc.toNat := (exec_rcpclr ..).trans (stream_trap hl (rcpclrOp_outside ho))

end Instructions

/-- What a cleared range says of tags, of contents and of other rows. -/
theorem Cleared.rows {d d' : Dev} {lo hi : Nat} (h : Cleared d d' lo hi) :
    (∀ k, lo ≤ k → k < hi → (d'.row k).tag = .live) ∧ (∀ k, (d'.row k).v = (d.row k).v ∧ (d'.row k).p = (d.row k).p)
      ∧ ∀ k, (k < lo ∨ hi ≤ k) → d'.row k = d.row k := by
  refine ⟨fun k h1 h2 => ?_, fun k => ?_, fun k hk => ?_⟩
  · rw [h k, if_pos ⟨h1, h2⟩]
  · rw [h k]; split <;> exact ⟨rfl, rfl⟩
  · rw [h k, if_neg (by omega)]

/-- RECIPE_REPLAY of a dropped row that a stream waits for, by the outcome of its replay (R55, R63). -/
theorem recipeReplay_awaited {s : State} {g r id : Nat} (h1 : (s.dev.group g).state = .running)
    (h2 : s.dev.siteRuns (s.dev.group g).core = true) (h3 : (Dev.rowIn (s.dev.group g) r).tag = .dropped id)
    (h4 : Dev.waitsGranule (s.dev.group g) r = false) (h5 : Dev.replayWaiters (s.dev.group g) r ≠ []) :
    (∀ d, s.dev.replayRows g [] [r] = .ok d → Leads (.recipeReplay g r) s d ∧ (Dev.rowIn (d.group g) r).tag = .tagged id)
    ∧ (∀ t, s.dev.replayRows g [] [r] = .error (.trap t) →
        Leads (.recipeReplay g r) s ((Dev.replayWaiters (s.dev.group g) r).foldl (fun d e => d.replayFault g r e) s.dev)) := by
  have answer := replayEvent_awaited h1 h2 h3 h4 h5
  refine ⟨fun d hd => ⟨?_, replayRows_tagged h3 hd⟩, fun t ht => ?_⟩
  · rw [hd] at answer
    exact (exec_recipeReplay ..).trans (by rw [answer])
  · rw [ht] at answer
    exact (exec_recipeReplay ..).trans (by rw [answer])

/-- Settles O37: the instructions by the lemma of each body, the replay by what a reclaim and a replay leave of the row's tag. -/
theorem recipeResults : Obligations.RecipeResults := by
  unfold Obligations.RecipeResults
  refine ⟨fun s h id nm1 cm1 fa fD hl => ?_, fun s g r => ?_⟩
  · obtain ⟨poisoned, clean⟩ := rcpdef_results (s := s) id nm1 fa hl
    refine ⟨poisoned, clean, rcpset_inside hl, rcpset_rowOutside hl, rcpset_idOutside hl, fun h1 h2 h3 hd => ?_,
      fun k h1 h2 h3 hk hdk hd => rcpclr_waits hl h1 h2 h3 hk hdk hd, rcpclr_outside hl⟩
    obtain ⟨d2, hdoes, hcl⟩ := rcpclr_does hl h1 h2 h3 hd
    exact ⟨d2, hdoes, hcl.rows⟩
  · refine ⟨fun idle => ?_, fun id h1 h2 h3 h4 h5 => ?_⟩
    · exact (exec_recipeReplay ..).trans (by rw [replayEvent_idle idle])
    · obtain ⟨replayed, failed⟩ := recipeReplay_awaited h1 h2 h3 h4 h5
      exact ⟨replayed, failed, fun hlent _ => replayRows_nothingLent hlent, fun hb => replayRow_bad h3 hb 4⟩

end Sys2Proof.Recipes
end

section
/-!
PROOFS. The module's lines as others reach them (spec/08_line.md R178, R179, R191, spec/20_link.md R378, R381, R384): what a snoop
leaves, which entry a full snoop filter takes back, what a response brings, and what a request of the host, of a peer or at a stash
entry does.
-/

namespace Sys2Proof.RemoteLines
open Sys2Proof.Machine

theorem carries_iff (x : LState) : x.carries = true ↔ x = .up ∨ x = .degraded := by
  cases x <;> simp [LState.carries]

/-! ### Snoops and stores (R177, R179) -/

/-- A snoop changes groups alone. -/
theorem snoop_eq (d : Dev) (own : Option Nat) (pa n : Nat) (w : Bool) : ∃ gs, d.snoop own pa n w = { d with groups := gs } := by
  unfold Dev.snoop
  dsimp only
  split
  · exact ⟨d.groups, rfl⟩
  · exact ⟨_, rfl⟩

section Frames
variable (d : Dev) (own : Option Nat) (pa n : Nat) (w : Bool)

@[simp] theorem snoop_mem : (d.snoop own pa n w).mem = d.mem := by
  obtain ⟨gs, h⟩ := snoop_eq d own pa n w
  rw [h]
@[simp] theorem snoop_links : (d.snoop own pa n w).links = d.links := by
  obtain ⟨gs, h⟩ := snoop_eq d own pa n w
  rw [h]
@[simp] theorem snoop_uses : (d.snoop own pa n w).uses = d.uses := by
  obtain ⟨gs, h⟩ := snoop_eq d own pa n w
  rw [h]
@[simp] theorem snoop_link (p : Nat) : (d.snoop own pa n w).link p = d.link p := by
  simp only [Dev.link, snoop_links]

theorem storeBytes_links (bs : List Byte) : (d.storeBytes pa bs w).links = d.links := by
  unfold Dev.storeBytes
  dsimp only
  split <;> rfl
@[simp] theorem storeBytes_link (bs : List Byte) (p : Nat) : (d.storeBytes pa bs w).link p = d.link p := by
  simp only [Dev.link, storeBytes_links]

end Frames

/-- A request of an outside agent at a line leaves no dirty copy of it in a stash: a read cleans it, a write takes it away (R179). -/
theorem snoop_cleans (d : Dev) (line : Nat) (w : Bool) :
    ∀ x ∈ (d.snoop none (line * 64) 64 w).groups, ∀ e ∈ x.2.stash, Dev.realLine e.2.phys = line → e.2.dirty = false := by
  have first : lineOf (line * 64) = line := by unfold lineOf; omega
  have last : lineOf (line * 64 + 64 - 1) = line := by unfold lineOf; omega
  unfold Dev.snoop
  dsimp only
  rw [first, last]
  split
  · next empty =>
    intro x hx e he
    have none_there := List.isEmpty_iff.1 (List.all_eq_true.1 empty x hx)
    simp [none_there] at he
  · intro x hx e he real
    obtain ⟨y, -, rfl⟩ := List.mem_map.1 hx
    split at he
    · next missed =>
      have not_hit : (y.2.stash.any fun z => z.2.dirty && line ≤ Dev.realLine z.2.phys && Dev.realLine z.2.phys ≤ line) = false := by
        simpa using missed
      simpa [real] using List.any_eq_false.1 not_hit e he
    · split at he
      · simpa [real] using (List.mem_filter.1 he).2
      · obtain ⟨z, -, rfl⟩ := List.mem_map.1 he
        dsimp only at real ⊢
        split
        · rfl
        · next kept =>
          rw [if_neg kept] at real
          simpa [real] using kept

/-! ### The snoop filter (R378) -/

/-- The older of two uses, the first where both are as old. -/
def older : Option (Nat × Nat) → Nat × Nat → Option (Nat × Nat)
  | none, e => some e
  | some x, e => if e.2 < x.2 then some e else some x

theorem oldestCopy_eq (l : Link) : Dev.oldestCopy l = (l.lastUse.foldl older none).map (·.1) := by
  unfold Dev.oldestCopy
  congr 2
  funext b e
  cases b <;> rfl

theorem older_cases (b : Option (Nat × Nat)) (x : Nat × Nat) : older b x = some x ∨ older b x = b := by
  cases b with
  | none => exact .inl rfl
  | some y =>
    by_cases lt : x.2 < y.2
    · exact .inl (if_pos lt)
    · exact .inr (if_neg lt)

/-- The use `e` is older than the use `x`, unless both are one. -/
abbrev Least (e x : Nat × Nat) : Prop := x = e ∨ e.2 < x.2

theorem older_new {e : Nat × Nat} {b : Option (Nat × Nat)} (hb : ∀ y, b = some y → Least e y) : older b e = some e := by
  cases b with
  | none => rfl
  | some y =>
    obtain rfl | lt := hb y rfl
    · simp [older]
    · simp [older, lt]

theorem older_old {e x : Nat × Nat} (hx : Least e x) : older (some e) x = some e := by
  obtain rfl | lt := hx
  · simp [older]
  · simp [older, Nat.lt_asymm lt]

/-- The search for the oldest use ends at a use that is older than every other. -/
theorem foldl_older {e : Nat × Nat} : ∀ (m : Map Nat) (b : Option (Nat × Nat)), (∀ x ∈ m, Least e x) →
    (∀ y, b = some y → Least e y) → (e ∈ m ∨ b = some e) → m.foldl older b = some e
  | [], _, _, _, found => found.resolve_left (List.not_mem_nil)
  | x :: m, b, hm, hb, found => by
    obtain ⟨hx, hm⟩ := List.forall_mem_cons.1 hm
    refine foldl_older m (older b x) hm (fun y hy => ?_) ?_
    · obtain new | old := older_cases b x
      · rw [new] at hy; cases hy; exact hx
      · exact hb y (old ▸ hy)
    · obtain here | rfl := found
      · obtain rfl | later := List.mem_cons.1 here
        · exact .inr (older_new hb)
        · exact .inl later
      · exact .inr (older_old hx)

theorem oldestCopy_of_least {l : Link} {e : Nat × Nat} (he : e ∈ l.lastUse) (least : ∀ x ∈ l.lastUse, Least e x) :
    Dev.oldestCopy l = some e.1 := by
  rw [oldestCopy_eq, foldl_older l.lastUse none least nofun (.inl he), Option.map_some]

/-- The host has a copy of the line, so that the filter holds its entry. -/
abbrev Known (l : Link) (line : Nat) : Prop := l.lent.contains line = true ∨ l.shared.contains line = true

/-- The filter keeps an entry that it has, and takes another while it has less than 4,194,304. -/
theorem fits_iff (l : Link) (line : Nat) :
    ((l.lent.contains line || l.shared.contains line) || !decide (Dev.filterSize ≤ l.lent.length + l.shared.length)) = true
      ↔ Known l line ∨ l.lent.length + l.shared.length < 4194304 := by
  rw [Bool.or_eq_true, Bool.or_eq_true, Bool.not_eq_true', decide_eq_false_iff_not, Nat.not_le, Dev.filterSize]

section Grant
variable {d : Dev} {line : Nat}

/-- What a copy that the filter has a place for does: the line is used now, and held as it was asked for. -/
theorem grantCopy_room (own : Bool) (room : Known (d.link 0) line ∨ (d.link 0).lent.length + (d.link 0).shared.length < 4194304) :
    d.grantCopy line own =
      let l := { d.link 0 with lastUse := Map.set (d.link 0).lastUse line d.uses }
      ({ d with uses := d.uses + 1 } : Dev).setLink 0 (
        if own then { l with lent := insertNat line l.lent, shared := eraseNat line l.shared }
        else if l.lent.contains line then l
        else { l with shared := insertNat line l.shared }) := by
  simp only [Dev.grantCopy, (fits_iff (d.link 0) line).2 room, ↓reduceIte]
  split
  · rfl
  · split <;> rfl

/-- A full filter takes its least recently used entry back first. -/
theorem grantCopy_full {old at_ : Nat} (own : Bool) (new : ¬Known (d.link 0) line)
    (full : 4194304 ≤ (d.link 0).lent.length + (d.link 0).shared.length) (he : (old, at_) ∈ (d.link 0).lastUse)
    (least : ∀ x ∈ (d.link 0).lastUse, Least (old, at_) x) : d.grantCopy line own = d.askLines 0 [old] := by
  have crowded := Bool.eq_false_iff.2 (mt (fits_iff (d.link 0) line).1 (not_or.2 ⟨new, Nat.not_lt.2 full⟩))
  simp only [Dev.grantCopy, crowded, Bool.false_eq_true, ↓reduceIte, oldestCopy_of_least he least]

end Grant

/-- The host holds the first `n` lines of Lake, and used them in their order. -/
def holdsFirst (n : Nat) : Link :=
  { state := .up, lent := List.range n, lastUse := (List.range n).map fun i => (i, i) }

/-- A filter full of the first lines of Lake gives up line 0 for the next one (and so meets what `grantCopy_full` asks for). -/
theorem grantCopy_holdsFirst {d : Dev} {n : Nat} (full : 4194304 ≤ n) (h : d.link 0 = holdsFirst n) :
    d.grantCopy n true = d.askLines 0 [0] := by
  have new : ¬Known (holdsFirst n) n := by simp [holdsFirst]
  have size : (holdsFirst n).lent.length + (holdsFirst n).shared.length = n := by simp [holdsFirst]
  have first : (0, 0) ∈ (holdsFirst n).lastUse := List.mem_map.2 ⟨0, List.mem_range.2 (by omega), rfl⟩
  have least : ∀ x ∈ (holdsFirst n).lastUse, Least (0, 0) x := by
    intro x hx
    obtain ⟨i, -, rfl⟩ := List.mem_map.1 hx
    exact (Nat.eq_zero_or_pos i).imp (fun zero => by rw [zero]) id
  exact grantCopy_full true (h ▸ new) (by rwa [h, size]) (h ▸ first) (h ▸ least)

/-! ### Responses (R378, R379, R384) -/

section Response
variable {d : Dev} {p line : Nat} {bytes : List Byte} {poison : Bool}

/-- A response to nothing that was asked for, or over a port that carries none, does nothing. -/
theorem linkResponse_idle (h : (d.link p).state.carries = false ∨ Map.find (d.link p).asked line = none) :
    d.linkResponse p ⟨line, bytes, poison⟩ = d := by
  unfold Dev.linkResponse
  exact if_pos (by simpa using h)

/-- The port as the response to a request for a line leaves it. -/
abbrev answered (l : Link) (line : Nat) : Link :=
  { l with
    asked := Map.del l.asked line, lines := if targetOf (line * 64) = .host then insertNat line l.lines else l.lines,
    lent := eraseNat line l.lent, shared := eraseNat line l.shared, lastUse := Map.del l.lastUse line }

theorem linkResponse_asked (hc : (d.link p).state.carries = true) (ha : Map.find (d.link p).asked line ≠ none) :
    d.linkResponse p ⟨line, bytes, poison⟩ =
      ((if bytes.length = 64 then d.storeBytes (line * 64) bytes poison else d).setLink p (answered (d.link p) line)).answer p line := by
  have asked : (Map.find (d.link p).asked line).isNone = false := by simpa [Option.isSome_iff_ne_none] using ha
  simp only [Dev.linkResponse, hc, asked, Bool.not_true, Bool.or_self, Bool.false_eq_true, ↓reduceIte,
    apply_ite (fun x : Dev => x.link p), storeBytes_link, ite_self]

end Response

/-! ### Requests at Lake lines (R191, R368, R378, R381) -/

section Requests
variable {d : Dev} {p line : Nat} {bytes : List Byte} {poison : Bool}

theorem lakeAccess_down (q : LakeReq) (hc : (d.link p).state.carries = false) : d.lakeAccess p q = d := by
  unfold Dev.lakeAccess
  exact if_pos (by rw [hc]; rfl)

/-- Nothing is read at an address that is not in Lake, nor while a frozen site holds the line dirty (log 88). -/
theorem lakeAccess_read_refused (own : Bool) (h : targetOf (line * 64) ≠ .lake ∨ d.frozenDirty (line * 64) 64 = true) :
    d.lakeAccess p (.read line own) = d := by
  have refused : (targetOf (line * 64) != .lake || d.frozenDirty (line * 64) 64) = true := by simpa using h
  unfold Dev.lakeAccess
  simp only [refused, ↓reduceIte, ite_self]

theorem lakeAccess_write_refused (h : targetOf (line * 64) ≠ .lake ∨ d.frozenDirty (line * 64) 64 = true) :
    d.lakeAccess p (.write line bytes poison) = d := by
  have refused : (targetOf (line * 64) != .lake || bytes.length != 64 || d.frozenDirty (line * 64) 64) = true := by
    rw [Bool.or_right_comm]
    simpa using Or.inl h
  unfold Dev.lakeAccess
  simp only [refused, ↓reduceIte, ite_self]

theorem lakeAccess_release (hc : (d.link 0).state.carries = true) :
    d.lakeAccess 0 (.release line) = d.setLink 0 { d.link 0 with
      lent := eraseNat line (d.link 0).lent, shared := eraseNat line (d.link 0).shared, lastUse := Map.del (d.link 0).lastUse line } := by
  simp only [Dev.lakeAccess, hc, Bool.not_true, Bool.false_eq_true, ↓reduceIte]

section Served
variable (hc : (d.link p).state.carries = true) (lake : targetOf (line * 64) = .lake) (free : d.frozenDirty (line * 64) 64 = false)
include hc lake free

theorem lakeAccess_read (own : Bool) :
    d.lakeAccess p (.read line own) =
      if p = 0 then (d.snoop none (line * 64) 64 false).grantCopy line own
      else if (d.link 0).lent.contains line then d.askLines 0 [line] else d.snoop none (line * 64) 64 false := by
  simp only [Dev.lakeAccess, hc, lake, free, Bool.not_true, Bool.false_eq_true, ↓reduceIte, bne_self_eq_false, Bool.or_self]
  by_cases hp : p = 0
  · simp [hp]
  · simp [hp]

/-- A peer's write of a line of which the host has a copy waits until that is taken back. -/
theorem lakeAccess_write_waits (hp : p ≠ 0) (hlen : bytes.length = 64) (known : Known (d.link 0) line) :
    d.lakeAccess p (.write line bytes poison) = d.askLines 0 [line] := by
  have waits : (p != 0 && ((d.link 0).lent.contains line || (d.link 0).shared.contains line)) = true :=
    Bool.and_eq_true_iff.2 ⟨bne_iff_ne.2 hp, Bool.or_eq_true_iff.2 known⟩
  simp only [Dev.lakeAccess, hc, lake, free, hlen, waits, Bool.not_true, Bool.false_eq_true, ↓reduceIte, bne_self_eq_false, Bool.or_self]

/-- A write that waits for nobody takes every other copy away and stores the line; the host holds it no longer (log 67). -/
theorem lakeAccess_write (hlen : bytes.length = 64) (alone : p = 0 ∨ ¬Known (d.link 0) line) :
    ∃ u, d.lakeAccess p (.write line bytes poison) =
      ((d.snoop none (line * 64) 64 true).storeBytes (line * 64) bytes poison).setLink 0
        { d.link 0 with lent := eraseNat line (d.link 0).lent, lastUse := u } := by
  have goes : (p != 0 && ((d.link 0).lent.contains line || (d.link 0).shared.contains line)) = false := by
    obtain rfl | unknown := alone
    · rfl
    · rw [Bool.eq_false_iff.2 (mt Bool.or_eq_true_iff.1 unknown), Bool.and_false]
  simp only [Dev.lakeAccess, hc, lake, free, hlen, goes, Bool.not_true, Bool.false_eq_true, ↓reduceIte, bne_self_eq_false,
    Bool.or_self, storeBytes_link, snoop_link]
  exact ⟨_, rfl⟩

end Served

section HostRead
variable (hc : (d.link 0).state.carries = true) (lake : targetOf (line * 64) = .lake) (free : d.frozenDirty (line * 64) 64 = false)
include hc lake free

/-- The host takes a line for which the filter has a place. -/
theorem hostRead_room (own : Bool) (room : Known (d.link 0) line ∨ (d.link 0).lent.length + (d.link 0).shared.length < 4194304) :
    d.lakeAccess 0 (.read line own) =
      let l := { d.link 0 with lastUse := Map.set (d.link 0).lastUse line d.uses }
      ({ d.snoop none (line * 64) 64 false with uses := d.uses + 1 } : Dev).setLink 0 (
        if own then { l with lent := insertNat line l.lent, shared := eraseNat line l.shared }
        else if l.lent.contains line then l
        else { l with shared := insertNat line l.shared }) := by
  rw [lakeAccess_read hc lake free, if_pos rfl, grantCopy_room own (by rwa [snoop_link])]
  simp only [snoop_link, snoop_uses]

theorem hostRead_full {old at_ : Nat} (own : Bool) (new : ¬Known (d.link 0) line)
    (full : 4194304 ≤ (d.link 0).lent.length + (d.link 0).shared.length) (he : (old, at_) ∈ (d.link 0).lastUse)
    (least : ∀ x ∈ (d.link 0).lastUse, Least (old, at_) x) :
    d.lakeAccess 0 (.read line own) = (d.snoop none (line * 64) 64 false).askLines 0 [old] := by
  rw [lakeAccess_read hc lake free, if_pos rfl]
  exact grantCopy_full own (by rwa [snoop_link]) (by rwa [snoop_link]) (by rwa [snoop_link]) (by rwa [snoop_link])

end HostRead
end Requests

/-! ### Requests at stash entries (R179, R368) -/

section Stash
variable {d : Dev} {g line : Nat} {x : Group} {e : StashEntry}

theorem stashRemote_noGroup (w : Bool) (hg : Map.find d.groups g = none) : d.stashRemote g line w = d := by
  simp only [Dev.stashRemote, hg]

theorem stashRemote_noEntry (w : Bool) (hg : Map.find d.groups g = some x) (he : Map.find x.stash line = none) :
    d.stashRemote g line w = d := by
  simp only [Dev.stashRemote, hg, he]

/-- A site that is frozen and has not been migrated carries the group. -/
abbrev Stands (d : Dev) (x : Group) : Prop := x.core < 128 ∧ Dev.siteHolds (d.site (d.siteOf x.core)) = true

/-- At an entry: one that is clean or that a frozen site holds stays, a write takes another away, a read writes it back. -/
theorem stashRemote_entry (w : Bool) (hg : Map.find d.groups g = some x) (he : Map.find x.stash line = some e) :
    d.stashRemote g line w =
      if e.dirty = false ∨ Stands d x then d
      else if w then d.setGroup g { x with stash := Map.del x.stash line }
      else d.setGroup g { x with stash := Map.set x.stash line { e with dirty := false } } := by
  simp only [Dev.stashRemote, hg, he, Bool.or_eq_true, Bool.not_eq_true', Bool.and_eq_true, decide_eq_true_eq]

end Stash

/-! ### The events -/

theorem leads_linkResponse {s : State} {d : Dev} {p : Nat} {r : LinkReply} (hp : p < 3) (h : s.dev.linkResponse p r = d) :
    Leads (.linkResponse p r) s d := by
  have run : exec (.linkResponse p r) s = .next (s.with (if p < 3 then s.dev.linkResponse p r else s.dev)) := rfl
  rw [Leads, run, if_pos hp, h]

theorem leads_hostLakeAccess {s : State} {d : Dev} {q : LakeReq} (h : s.dev.lakeAccess 0 q = d) : Leads (.hostLakeAccess q) s d := by
  have run : exec (.hostLakeAccess q) s = .next (s.with (s.dev.lakeAccess 0 q)) := rfl
  rw [Leads, run, h]

theorem leads_peerLakeAccess {s : State} {d : Dev} {p : Nat} {q : LakeReq} (hp : p < 3) (hn : p ≠ 0) (h : s.dev.lakeAccess p q = d) :
    Leads (.peerLakeAccess p q) s d := by
  have run : exec (.peerLakeAccess p q) s =
    .next (s.with (if p < 3 then if p = 0 then s.dev else s.dev.lakeAccess p q else s.dev)) := rfl
  rw [Leads, run, if_pos hp, if_neg hn, h]

theorem leads_stashRemoteAccess {s : State} {d : Dev} {g line : Nat} {w : Bool} (h : s.dev.stashRemote g line w = d) :
    Leads (.stashRemoteAccess g line w) s d := by
  have run : exec (.stashRemoteAccess g line w) s = .next (s.with (s.dev.stashRemote g line w)) := rfl
  rw [Leads, run, h]

/-- Settles O48: each event by the lemma of its request, and the snoops by what they leave. -/
theorem remoteAccesses : Obligations.RemoteAccesses := by
  unfold Obligations.RemoteAccesses
  intro s p line g bytes poison hp
  simp only [← carries_iff, Bool.not_eq_true]
  refine ⟨fun down => ⟨leads_linkResponse hp (linkResponse_idle (.inl down)),
      fun hn q => leads_peerLakeAccess hp hn (lakeAccess_down q down)⟩,
    fun down q => leads_hostLakeAccess (lakeAccess_down q down),
    fun unasked => leads_linkResponse hp (linkResponse_idle (.inr unasked)),
    fun up asked => ?response, fun y hy => ?snoops,
    fun _ _ frozen own => ⟨leads_hostLakeAccess (lakeAccess_read_refused own (.inr frozen)),
      leads_hostLakeAccess (lakeAccess_write_refused (.inr frozen))⟩,
    fun up lake free => ⟨fun room => ?granted, fun new full old at_ he least own =>
      leads_hostLakeAccess (hostRead_full up lake free own new full he least)⟩,
    fun up => leads_hostLakeAccess (lakeAccess_release up),
    fun up lake free whole => ?written,
    fun outside own => ⟨leads_hostLakeAccess (lakeAccess_read_refused own (.inl outside)),
      leads_hostLakeAccess (lakeAccess_write_refused (.inl outside))⟩,
    fun hn up lake free => ?peer,
    fun noGroup => leads_stashRemoteAccess (stashRemote_noGroup true noGroup),
    fun x hx => ⟨fun noEntry => ⟨leads_stashRemoteAccess (stashRemote_noEntry true hx noEntry),
      leads_stashRemoteAccess (stashRemote_noEntry false hx noEntry)⟩, fun e he => ?entry⟩⟩
  case response =>
    have arrives := linkResponse_asked (bytes := bytes) (poison := poison) up asked
    refine ⟨fun short => leads_linkResponse hp ?_, fun whole => leads_linkResponse hp ?_⟩
    · rw [arrives, if_neg short]
    · rw [arrives, if_pos whole]
  case snoops =>
    obtain rfl | rfl := hy
    · exact ⟨snoop_mem .., snoop_links .., snoop_cleans s.dev line false⟩
    · exact ⟨snoop_mem .., snoop_links .., snoop_cleans s.dev line true⟩
  case granted =>
    have takes (own : Bool) := hostRead_room up lake free own room
    refine ⟨leads_hostLakeAccess (takes true), fun held => leads_hostLakeAccess ?_, fun unheld => leads_hostLakeAccess ?_⟩
    · simp only [takes false, held, Bool.false_eq_true, ↓reduceIte]
    · simp only [takes false, unheld, Bool.false_eq_true, ↓reduceIte]
  case written =>
    obtain ⟨u, writes⟩ := lakeAccess_write (bytes := bytes) (poison := poison) up lake free whole (.inl rfl)
    refine ⟨_, leads_hostLakeAccess writes, Dev.setLink_mem .., Dev.setLink_poisoned .., ?_⟩
    rw [Dev.link_setLink]
  case peer =>
    have reads (own : Bool) := (lakeAccess_read up lake free own).trans (if_neg hn)
    refine ⟨fun held own => leads_peerLakeAccess hp hn ((reads own).trans (if_pos held)),
      fun unheld own => leads_peerLakeAccess hp hn ((reads own).trans (if_neg (Bool.eq_false_iff.1 unheld))),
      fun whole known => leads_peerLakeAccess hp hn (lakeAccess_write_waits up lake free hn whole known),
      fun whole unheld unshared => ?_⟩
    have unknown : ¬Known (s.dev.link 0) line := not_or.2 ⟨Bool.eq_false_iff.1 unheld, Bool.eq_false_iff.1 unshared⟩
    obtain ⟨u, writes⟩ := lakeAccess_write (bytes := bytes) (poison := poison) up lake free whole (.inr unknown)
    exact ⟨_, leads_peerLakeAccess hp hn writes, Dev.setLink_mem ..⟩
  case entry =>
    have answers (w : Bool) := stashRemote_entry w hx he
    refine ⟨fun stays => ?_, fun dirty free => ?_⟩
    · exact ⟨leads_stashRemoteAccess ((answers true).trans (if_pos stays)),
        leads_stashRemoteAccess ((answers false).trans (if_pos stays))⟩
    · have moves : ¬(e.dirty = false ∨ Stands s.dev x) := not_or.2 ⟨by simp [dirty], free⟩
      exact ⟨leads_stashRemoteAccess ((answers true).trans (if_neg moves)),
        leads_stashRemoteAccess ((answers false).trans (if_neg moves))⟩

end Sys2Proof.RemoteLines
end

section
/-!
PROOFS. The commands of a queue descriptor (spec/10_queue.md R215 to R217): what each does to its queue, when the residency unit takes
a closed token queue back (spec/15_expert.md R302), and what the release of a queue leaves.
-/

namespace Sys2Proof.QueueDescriptors
open Sys2Proof.Machine

/-! ### Release and reclamation (R217, R302) -/

section Release
variable (d : Dev) (n : Nat)

/-- A queue as its release leaves it (R217). -/
abbrev released (q : Queue) : Queue := { q with state := .free, entries := [], reserved := 0, round := q.round + 1 }

theorem releaseQueue_queues : (d.releaseQueue n).queues = (d.setQueue n (released (d.queue n))).queues := by
  unfold Dev.releaseQueue
  dsimp only
  split <;> rfl

@[simp] theorem releaseQueue_mem : (d.releaseQueue n).mem = d.mem := by
  unfold Dev.releaseQueue
  dsimp only
  split <;> rfl

@[simp] theorem queue_releaseQueue : (d.releaseQueue n).queue n = released (d.queue n) := by
  rw [Dev.queue, releaseQueue_queues]
  exact Dev.queue_setQueue d n _

theorem queue_releaseQueue_ne {k : Nat} (h : k ≠ n) : (d.releaseQueue n).queue k = d.queue k := by
  rw [Dev.queue, releaseQueue_queues]
  exact Dev.queue_setQueue_ne d n k _ h

/-- No port of any group is bound to the queue as it now is (R219). -/
abbrev Unbound : Prop := ∀ e ∈ d.groups, ∀ p ∈ e.2.ports, ¬(p.2.queue = n ∧ p.2.round = (d.queue n).round)

/-- The residency unit takes back the token queues that are closed, empty and unbound, and no others (R302). -/
theorem reapQueue_eq : d.reapQueue n =
    if (d.queue n).kind = 3 ∧ (d.queue n).state = .closed ∧ (d.queue n).entries = [] ∧ Unbound d n then d.releaseQueue n else d := by
  unfold Dev.reapQueue
  exact ite_congr (propext (by simp [and_assoc])) (fun _ => rfl) (fun _ => rfl)

end Release

/-! ### The commands -/

section Commands
variable {d : Dev} {n : Nat}

theorem queueOpen_free (hs : (d.queue n).state = .free) : d.queueOpen n =
    if d.openOk (d.queue n) then
      d.setQueue n { d.queue n with state := .opened, entries := [], reserved := 0, drop := 0, cmdst := 0 }
    else d.queueStatus n 4 := by
  simp only [Dev.queueOpen, hs]
  cases d.openOk (d.queue n) <;> rfl

theorem queueOpen_used (hs : (d.queue n).state ≠ .free) : d.queueOpen n = d.queueStatus n 2 := by
  simp only [Dev.queueOpen, bne_iff_ne.2 hs, ↓reduceIte]

/-- CLOSE of an OPEN queue asks of it, once closed, what the reclamation of a token queue asks (R217, R302). -/
theorem queueClose_opened (hs : (d.queue n).state = .opened) : d.queueClose n =
    let closed := d.setQueue n { d.queue n with state := .closed, cmdst := 0 }
    if (d.queue n).kind = 3 ∧ (d.queue n).entries = [] ∧ Unbound d n then closed.releaseQueue n else closed := by
  simp only [Dev.queueClose, hs, ↓reduceIte, reapQueue_eq, Unbound, Dev.queue_setQueue, Dev.setQueue_groups, true_and]

theorem queueClose_other (hs : (d.queue n).state ≠ .opened) : d.queueClose n = d.queueStatus n 2 := if_neg hs

theorem queueFree_used (hs : (d.queue n).state ≠ .free) : d.queueFree n = (d.releaseQueue n).queueStatus n 0 := if_neg hs

theorem queueFree_free (hs : (d.queue n).state = .free) : d.queueFree n = d.queueStatus n 2 := if_pos hs

end Commands

/-! ### The events -/

section Events
variable {s : State} {n : Nat} {d : Dev}

/-- A command of a pool queue completes with its effect (R213). -/
theorem leads_of_onQueue {i : Instr} {f : Dev → Dev} (run : exec i s = onQueue n f s) (hn : n < 4096) (h : f s.dev = d) :
    Leads i s d := by
  rw [Leads, run, onQueue, event, if_pos hn, h]; rfl

theorem leads_queOpen (hn : n < 4096) (h : s.dev.queueOpen n = d) : Leads (.queOpen n) s d :=
  leads_of_onQueue (f := (·.queueOpen n)) rfl hn h

theorem leads_queClose (hn : n < 4096) (h : s.dev.queueClose n = d) : Leads (.queClose n) s d :=
  leads_of_onQueue (f := (·.queueClose n)) rfl hn h

theorem leads_queFree (hn : n < 4096) (h : s.dev.queueFree n = d) : Leads (.queFree n) s d :=
  leads_of_onQueue (f := (·.queueFree n)) rfl hn h

theorem leads_queDropRead (hn : n < 4096) : Leads (.queDropRead n) s (s.dev.queueDropRead n) :=
  leads_of_onQueue (f := (·.queueDropRead n)) rfl hn rfl

/-- A code of QUE_CMD that names no command is refused; the others have events of their own (R215, log 48). -/
theorem leads_queBadCommand {code : Nat} (hn : n < 4096)
    (h : (if 1 ≤ code % 16 ∧ code % 16 ≤ 3 then s.dev else s.dev.queueStatus n 4) = d) : Leads (.queBadCommand n code) s d :=
  leads_of_onQueue (f := fun d => if 1 ≤ code % 16 && code % 16 ≤ 3 then d else d.queueStatus n 4) rfl hn
    ((ite_congr (propext (by simp)) (fun _ => rfl) (fun _ => rfl)).trans h)

end Events

/-- Settles O36: each command by the equation of its case; what a released queue keeps follows from the laws of its release. -/
theorem queueCommands : Obligations.QueueCommands := by
  unfold Obligations.QueueCommands
  intro s n code hn
  refine ⟨fun free ok => ?opens, fun free bad => ?refused, fun used => leads_queOpen hn (queueOpen_used used),
    fun opened other => ?closes, fun opened token => ?reclaimed, fun other => leads_queClose hn (queueClose_other other),
    fun used => ?frees, fun free => leads_queFree hn (queueFree_free free), fun bad => ?badCode, fun low high => ?goodCode,
    leads_queDropRead hn⟩
  case opens => exact leads_queOpen hn ((queueOpen_free free).trans (if_pos ok))
  case refused => exact leads_queOpen hn ((queueOpen_free free).trans (if_neg (Bool.eq_false_iff.1 bad)))
  case closes => exact leads_queClose hn ((queueClose_opened opened).trans (if_neg other))
  case reclaimed =>
    refine ⟨_, leads_queClose hn ((queueClose_opened opened).trans (if_pos token)), ?_, ?_, ?_, fun k hk => ?_⟩
    · rw [queue_releaseQueue]
    · rw [queue_releaseQueue, Dev.queue_setQueue]
    · rw [releaseQueue_mem, Dev.setQueue_mem]
    · rw [queue_releaseQueue_ne _ _ hk, Dev.queue_setQueue_ne _ _ _ _ hk]
  case frees =>
    have left : ((s.dev.releaseQueue n).queueStatus n 0).queue n = { released (s.dev.queue n) with cmdst := 0 } := by
      rw [Dev.queueStatus, Dev.queue_setQueue, queue_releaseQueue]
    refine ⟨_, leads_queFree hn (queueFree_used used), ?_, ?_, ?_, ?_, ?_, fun k hk => ?_⟩
    · rw [left]
    · rw [left]
    · rw [left]
    · rw [left]
    · rw [Dev.queueStatus, Dev.setQueue_mem, releaseQueue_mem]
    · rw [Dev.queueStatus, Dev.queue_setQueue_ne _ _ _ _ hk, queue_releaseQueue_ne _ _ hk]
  case badCode => exact leads_queBadCommand hn (if_neg bad)
  case goodCode => exact leads_queBadCommand hn (if_pos ⟨low, high⟩)

end Sys2Proof.QueueDescriptors
end

section
/-!
PROOFS. Queues as instructions reach them through ports (spec/10_queue.md R218 to R229): what a push, a pop and a peek of one entry do,
what QSTAT packs into its word, and what QBIND answers.
-/

namespace Sys2Proof.QueuePorts
open Sys2Proof.Machine Sys2Proof.Word
open Sys2Proof.Recipes (ok_bind trap_bind waitFor_bind commitReg_bind trapIf_true trapIf_false)

/-! ### Ports (R219) -/

/-- What a use of a port can come to: a queue, or cause 0x16 with the port. -/
abbrev Answers (port : Nat) (r : Res Fifo) : Prop := (∃ q, r = .ok q) ∨ r = trap 0x16 port

theorem answers_ite {port : Nat} {c : Prop} [Decidable c] {a b : Res Fifo} (ha : Answers port a) (hb : Answers port b) :
    Answers port (if c then a else b) := by
  split
  · exact ha
  · exact hb

theorem resolve_answers (d : Dev) (port : Nat) (push wide : Bool) (u : PortUse) : Answers port (d.resolve port push wide u) := by
  have bad : Answers port (trap 0x16 port) := .inr rfl
  have ok (q : Fifo) : Answers port (.ok q) := .inl ⟨q, rfl⟩
  unfold Dev.resolve
  refine answers_ite bad (answers_ite ?bound (answers_ite (answers_ite (ok _) bad) (answers_ite (answers_ite (ok _) bad)
    (answers_ite (answers_ite (ok _) bad) (answers_ite (answers_ite (ok _) bad) (answers_ite (answers_ite (ok _) bad) bad))))))
  case bound =>
    split
    · exact bad
    · exact answers_ite bad (answers_ite (answers_ite (ok _) bad) (answers_ite (ok _) bad))

/-- A port that does not give a queue faults. -/
theorem resolve_refused {d : Dev} {port : Nat} {push wide : Bool} {u : PortUse} (h : ∀ q, d.resolve port push wide u ≠ .ok q) :
    d.resolve port push wide u = trap 0x16 port :=
  (resolve_answers d port push wide u).resolve_left fun ⟨q, hq⟩ => h q hq

/-! ### Pushes (R218, R220, R222) -/

section Push
variable {d : Dev} {q : Fifo} {x : Entry}

/-- The poison of an entry would reach another context's consumer (R222). -/
abbrev Bites (d : Dev) (q : Fifo) (p : Bool) : Prop := p = true ∧ ∃ n, q = .pool n ∧ (d.queue n).cctx ≠ d.myCtx

/-- A queue takes a push of one entry now (R220). -/
abbrev Fits (d : Dev) (q : Fifo) : Prop := 1 ≤ d.roomBefore q ∧ d.servesOther (8 * d.fifoNum q + 1) = false

theorem pushPoison_harmless {p : Bool} (h : ¬Bites d q p) : d.pushPoison q p = .ok () := by
  cases q with
  | pool n =>
    refine if_neg fun hc => h ?_
    rw [Bool.and_eq_true, bne_iff_ne] at hc
    exact ⟨hc.1, n, rfl, hc.2⟩
  | _ => rfl

theorem pushPoison_bites {p : Bool} (h : Bites d q p) : d.pushPoison q p = commitReg 0 := by
  obtain ⟨rfl, n, rfl, other⟩ := h
  simp only [Dev.pushPoison, Bool.true_and, bne_iff_ne.2 other, ↓reduceIte]

theorem depthOf_pos (d : Dev) (q : Fifo) : 1 ≤ d.depthOf q := by
  cases q with
  | pool n => exact Nat.two_pow_pos _
  | _ => simp [Dev.depthOf]

/-- A push of one entry to a queue that is OPEN: it waits for its slot before its poison is looked at. -/
theorem pushN_open (port : Nat) (ho : d.isOpen q = true) : d.pushN port q [x] =
    if Fits d q then d.pushPoison q x.p >>= fun _ => .ok ((d.putTail x q).serve (8 * d.fifoNum q + 1)) else waitFor (.queue port) := by
  have holds : ¬d.depthOf q < [x].length := Nat.not_lt.2 (depthOf_pos d q)
  have fits : (decide (d.roomBefore q < [x].length) || d.servesOther (8 * d.fifoNum q + 1)) = true ↔ ¬Fits d q := by
    simp only [List.length_singleton, Bool.or_eq_true, decide_eq_true_eq, Fits, Classical.not_and_iff_not_or_not, Nat.not_le, Bool.not_eq_false]
  simp only [Dev.pushN, ho, Bool.not_true, Bool.false_eq_true, ↓reduceIte, decide_eq_false holds, trapIf_false, ok_bind, fits, ite_not,
    List.any_cons, List.any_nil, Bool.or_false, List.foldl_cons, List.foldl_nil]
  rfl

/-- A closed queue of the pool takes the poison and drops the entry. -/
theorem pushN_closed {n : Nat} (port : Nat) (hc : d.isOpen (.pool n) = false) :
    d.pushN port (.pool n) [x] = d.pushPoison (.pool n) x.p >>= fun _ => .ok (d.countDrop n 1) := by
  simp only [Dev.pushN, hc, Bool.not_false, ↓reduceIte, List.any_cons, List.any_nil, Bool.or_false]
  rfl

theorem pushN_commits {port : Nat} (hf : d.isOpen q = true → Fits d q) (hb : Bites d q x.p) : d.pushN port q [x] = commitReg 0 := by
  cases ho : d.isOpen q with
  | true => rw [pushN_open port ho, if_pos (hf ho), pushPoison_bites hb, commitReg_bind]
  | false =>
    obtain ⟨n, rfl, other⟩ := hb.2
    rw [pushN_closed port ho, pushPoison_bites hb, commitReg_bind]

end Push

/-- A push of one entry, by the state of the queue and the entry's poison (R218, R220, R222). -/
theorem push_results {i : Instr} {s : State} {h : Hdr} {body : Dev → Res Dev} {port : Nat} {q : Fifo} {x : Entry}
    (run : exec i s = stream h body s) (hl : s.dev.lets h) (hb : body s.dev = s.dev.pushN port q [x]) :
    (s.dev.isOpen q = true → ¬Fits s.dev q → Waits i s (.queue port))
    ∧ (s.dev.isOpen q = true → Fits s.dev q → ¬Bites s.dev q x.p →
        Does i s h ((s.dev.putTail x q).serve (8 * s.dev.fifoNum q + 1)))
    ∧ ((s.dev.isOpen q = true → Fits s.dev q) → Bites s.dev q x.p → Commits i s 0)
    ∧ (∀ n, q = .pool n → s.dev.isOpen q = false → ¬Bites s.dev q x.p → Does i s h (s.dev.countDrop n 1)) := by
  refine ⟨fun ho hf => ?full, fun ho hf clean => ?taken, fun hf bites => ?poisoned, ?dropped⟩
  case full => exact run.trans (stream_wait hl (hb.trans ((pushN_open port ho).trans (if_neg hf))))
  case taken =>
    refine run.trans (stream_ok hl (hb.trans ((pushN_open port ho).trans ?_)))
    rw [if_pos hf, pushPoison_harmless clean, ok_bind]
  case poisoned => exact run.trans (stream_trap hl (hb.trans (pushN_commits hf bites)))
  case dropped =>
    rintro n rfl hc clean
    refine run.trans (stream_ok hl (hb.trans ((pushN_closed port hc).trans ?_)))
    rw [pushPoison_harmless clean, ok_bind]

/-! ### Pops and peeks (R218, R220, R224) -/

section Pop
variable {d : Dev} {port cd : Nat} {q : Fifo} {wide e : Bool} {put : Dev → Entry → Res Dev} {x : Entry} {xs : List Entry}

/-- A queue with its head taken by the group at hand. -/
abbrev took (d : Dev) (q : Fifo) : Dev := ((d.dropHead 1 q).notePops 1 q).serve (8 * d.fifoNum q)

/-- A queue serves a pop of one entry now (R220). -/
abbrev Ready (d : Dev) (q : Fifo) : Prop := d.readyEntries q ≠ [] ∧ d.servesOther (8 * d.fifoNum q) = false

/-- The E form says in its condition register that there was an entry (R224). -/
abbrev ended (e : Bool) (cd : Nat) (d : Dev) : Dev := if e then d.setCreg cd ⟨false, false⟩ else d

/-- What can be popped in a cycle begins with the head of the queue. -/
theorem readyEntries_head (he : d.entriesOf q = x :: xs) (hr : d.readyEntries q ≠ []) : ∃ ys, d.readyEntries q = x :: ys := by
  simp only [Dev.readyEntries, he] at hr ⊢
  cases hn : (x :: xs).length - Map.get 0 d.useNow.pushed (d.fifoNum q) with
  | zero => exact absurd (by rw [hn]; rfl) hr
  | succ n => exact ⟨_, List.take_succ_cons⟩

theorem popN_ready (he : d.entriesOf q = x :: xs) (hr : Ready d q) : d.popN port 1 q = .ok ([x], took d q) := by
  obtain ⟨ys, hy⟩ := readyEntries_head he hr.1
  simp [Dev.popN, he, hy, hr.2]

theorem popN_waits (he : d.entriesOf q = x :: xs) (hr : ¬Ready d q) : d.popN port 1 q = waitFor (.queue port) := by
  have busy : (decide ((d.readyEntries q).length < 1) || d.servesOther (8 * d.fifoNum q)) = true := by
    simpa only [Bool.or_eq_true, decide_eq_true_eq, Nat.lt_one_iff, List.length_eq_zero_iff,
      Classical.not_and_iff_not_or_not, Classical.not_not, Bool.not_eq_false, ne_eq] using hr
  simp only [Dev.popN, he, busy, List.length_cons, Nat.not_lt.2 (Nat.le_add_left 1 xs.length), ↓reduceIte]

theorem popN_empty (he : d.entriesOf q = []) :
    d.popN port 1 q = if d.isOpen q then waitFor (.queue port) else trap 0x16 port := by
  simp only [Dev.popN, he, List.length_nil, Nat.zero_lt_one, ↓reduceIte]

variable (hq : d.resolve port false wide .instr = .ok q)
include hq

theorem qpopWith_entry (he : d.entriesOf q = x :: xs) :
    d.qpopWith port wide e cd put = d.popN port 1 q >>= fun r => put r.2 (r.1.headD {}) >>= fun d2 => .ok (ended e cd d2) := by
  simp only [Dev.qpopWith, hq, ok_bind, he, List.isEmpty_cons, Bool.and_false, Bool.false_and, Bool.false_eq_true, ↓reduceIte, Dev.pop1,
    bind_assoc]
  rfl

theorem qpopWith_takes {d2 : Dev} (he : d.entriesOf q = x :: xs) (hr : Ready d q) (hput : put (took d q) x = .ok d2) :
    d.qpopWith port wide e cd put = .ok (ended e cd d2) := by
  rw [qpopWith_entry hq he, popN_ready he hr, ok_bind, List.headD_cons, hput, ok_bind]

theorem qpopWith_waits (he : d.entriesOf q = x :: xs) (hr : ¬Ready d q) :
    d.qpopWith port wide e cd put = waitFor (.queue port) := by
  rw [qpopWith_entry hq he, popN_waits he hr, waitFor_bind]

/-- A pop of an empty queue: the end of work for the E form, else a wait or a fault. -/
theorem qpopWith_empty (he : d.entriesOf q = []) : d.qpopWith port wide e cd put =
    if e = true ∧ d.endOfWork q = true then .ok (d.setCreg cd ⟨true, false⟩)
    else if d.isOpen q then waitFor (.queue port) else trap 0x16 port := by
  simp only [Dev.qpopWith, hq, ok_bind, he, List.isEmpty_nil, Bool.and_eq_true, and_true, Dev.pop1, popN_empty he]
  split
  · rfl
  · split <;> rfl

theorem qpeekWith_entry {d2 : Dev} (he : d.entriesOf q = x :: xs) (hput : put d x = .ok d2) :
    d.qpeekWith port wide cd put = .ok (d2.setCreg cd ⟨true, false⟩) := by
  simp only [Dev.qpeekWith, hq, ok_bind, he, hput]
  rfl

theorem qpeekWith_empty (he : d.entriesOf q = []) : d.qpeekWith port wide cd put = .ok (d.setCreg cd ⟨false, false⟩) := by
  simp only [Dev.qpeekWith, hq, ok_bind, he]
  rfl

end Pop

section PopResults
variable {i : Instr} {s : State} {h : Hdr} {body : Dev → Res Dev} {port cd : Nat} {q : Fifo} {wide e : Bool}
  {put : Dev → Entry → Res Dev}

/-- A pop of an empty queue, by the end of work and the state of the queue (R218, R224). -/
abbrev Dry (i : Instr) (s : State) (h : Hdr) (port cd : Nat) (q : Fifo) (e : Bool) : Prop :=
  (e = true → s.dev.endOfWork q = true → Does i s h (s.dev.setCreg cd ⟨true, false⟩))
  ∧ (¬(e = true ∧ s.dev.endOfWork q = true) → s.dev.isOpen q = true → Waits i s (.queue port))
  ∧ (¬(e = true ∧ s.dev.endOfWork q = true) → s.dev.isOpen q = false → Faults i s 0x16 port)

/-- A pop, by what the queue holds (R218, R220, R224). -/
theorem pop_results (run : exec i s = stream h body s) (hl : s.dev.lets h) (hb : body s.dev = s.dev.qpopWith port wide e cd put)
    (hq : s.dev.resolve port false wide .instr = .ok q) :
    (∀ x xs, s.dev.entriesOf q = x :: xs →
      (Ready s.dev q → ∀ d2, put (took s.dev q) x = .ok d2 → Does i s h (ended e cd d2))
      ∧ (¬Ready s.dev q → Waits i s (.queue port)))
    ∧ (s.dev.entriesOf q = [] → Dry i s h port cd q e) := by
  refine ⟨fun x xs he => ⟨fun hr d2 hput => ?_, fun hr => ?_⟩, fun he => ?empty⟩
  · exact run.trans (stream_ok hl (hb.trans (qpopWith_takes hq he hr hput)))
  · exact run.trans (stream_wait hl (hb.trans (qpopWith_waits hq he hr)))
  case empty =>
    have answer := hb.trans (qpopWith_empty hq he)
    refine ⟨fun h1 h2 => ?_, fun h1 ho => ?_, fun h1 hc => ?_⟩
    · exact run.trans (stream_ok hl (answer.trans (if_pos ⟨h1, h2⟩)))
    · exact run.trans (stream_wait hl (answer.trans ((if_neg h1).trans (if_pos ho))))
    · exact run.trans (stream_trap hl (answer.trans ((if_neg h1).trans (if_neg (Bool.eq_false_iff.1 hc)))))

/-- A peek, by what the queue holds (R227). -/
theorem peek_results (run : exec i s = stream h body s) (hl : s.dev.lets h) (hb : body s.dev = s.dev.qpeekWith port wide cd put)
    (hq : s.dev.resolve port false wide .instr = .ok q) :
    (∀ x xs, s.dev.entriesOf q = x :: xs → ∀ d2, put s.dev x = .ok d2 → Does i s h (d2.setCreg cd ⟨true, false⟩))
    ∧ (s.dev.entriesOf q = [] → Does i s h (s.dev.setCreg cd ⟨false, false⟩)) :=
  ⟨fun _ _ he _ hput => run.trans (stream_ok hl (hb.trans (qpeekWith_entry hq he hput))),
    fun he => run.trans (stream_ok hl (hb.trans (qpeekWith_empty hq he)))⟩

end PopResults

/-! ### The instructions of words and rows (R227) -/

theorem exec_qpush (h : Hdr) (port fa : Nat) (s : State) : exec (.qpush h port fa) s = stream h (·.qpushOp port fa) s := rfl
theorem exec_qpushRow (h : Hdr) (port r : Nat) (s : State) : exec (.qpushRow h port r) s = stream h (·.qpushRowOp port r) s := rfl
theorem exec_qpop (h : Hdr) (port : Nat) (e : Bool) (cd fd : Nat) (s : State) :
    exec (.qpop h port e cd fd) s = stream h (·.qpopWith port false e cd (Dev.putWord fd)) s := rfl
theorem exec_qpopRow (h : Hdr) (port : Nat) (e : Bool) (cd r : Nat) (s : State) : exec (.qpopRow h port e cd r) s =
    stream h (fun d => d.inBounds r >>= fun _ => d.qpopWith port true e cd (Dev.putRow r)) s := rfl
theorem exec_qpeek (h : Hdr) (port cd fd : Nat) (s : State) :
    exec (.qpeek h port cd fd) s = stream h (·.qpeekWith port false cd (Dev.putWord fd)) s := rfl
theorem exec_qpeekRow (h : Hdr) (port cd r : Nat) (s : State) : exec (.qpeekRow h port cd r) s =
    stream h (fun d => d.inBounds r >>= fun _ => d.qpeekWith port true cd (Dev.putRow r)) s := rfl

section Bodies
variable {d : Dev} {port r : Nat}

theorem inBounds_inside (hr : r < d.grp.rowsN) : d.inBounds r = .ok () := by
  rw [Dev.inBounds, decide_eq_false (Nat.not_le.2 hr), trapIf_false]

theorem inBounds_outside (hr : d.grp.rowsN ≤ r) : d.inBounds r = trap 4 d.cur.pc.toNat := by
  rw [Dev.inBounds, decide_eq_true hr, trapIf_true]

/-- A body of a row instruction on a row of the window. -/
theorem inBounds_bind {body : Res Dev} (hr : r < d.grp.rowsN) : (d.inBounds r >>= fun _ => body) = body := by
  rw [inBounds_inside hr, ok_bind]

theorem qpushOp_bound {fa : Nat} {q : Fifo} (hq : d.resolve port true false .instr = .ok q) :
    d.qpushOp port fa = d.pushN port q [⟨(d.reg fa).v.setWidth 16384, (d.reg fa).p⟩] := by
  rw [Dev.qpushOp, hq, ok_bind]

theorem qpushRowOp_bound {q : Fifo} (hr : r < d.grp.rowsN) (hd : Dev.isDropped (d.row r) = false)
    (hq : d.resolve port true true .instr = .ok q) : d.qpushRowOp port r = d.pushN port q [⟨(d.row r).v, (d.row r).p⟩] := by
  simp only [Dev.qpushRowOp, Dev.readRow, inBounds_inside hr, ok_bind, hq, hd, Bool.false_eq_true, ↓reduceIte]
  rfl

theorem qpopWith_refused {wide e : Bool} {cd : Nat} {put : Dev → Entry → Res Dev} (hq : ∀ q, d.resolve port false wide .instr ≠ .ok q) :
    d.qpopWith port wide e cd put = trap 0x16 port := by
  rw [Dev.qpopWith, resolve_refused hq, trap_bind]

theorem qpeekWith_refused {wide : Bool} {cd : Nat} {put : Dev → Entry → Res Dev} (hq : ∀ q, d.resolve port false wide .instr ≠ .ok q) :
    d.qpeekWith port wide cd put = trap 0x16 port := by
  rw [Dev.qpeekWith, resolve_refused hq, trap_bind]

/-- A write of the whole of a row of the window (R51), where no row has a recipe. -/
theorem writeRow_untagged (hu : d.untagged) (hr : r < d.grp.rowsN) (v : RowBits) (p : Bool) :
    ∃ d2, d.writeRow r v p true = .ok d2 ∧ d2.row r = d.written r v p := by
  simp only [Dev.writeRow, inBounds_inside hr, ok_bind, clearTags_ok d hu, ↓reduceIte]
  refine ⟨_, rfl, (setRows_row _ _ _).trans ?_⟩
  rw [Map.get_set_same, setRows_row, Map.upd, Map.get_set_same]
  rfl

end Bodies

/-! ### QSTAT (R228) -/

/-- The word of QSTAT, put together from its fields. -/
def statWord (kind : Nat) (wide marked : Bool) (state depth held : Nat) : Word :=
  BitVec.ofNat 64 (kind * 2 ^ 32 + bit wide * 2 ^ 31 + bit marked * 2 ^ 30 + state * 2 ^ 26 + depth * 2 ^ 13 + held)

theorem flag_eq {w i : Nat} {b : Bool} (h : w / 2 ^ i % 2 = bit b) : flag w i = b := by
  rw [flag, h]
  cases b <;> rfl

/-- Fields that have room for their values read back. -/
theorem statWord_fields (kind : Nat) (wide marked : Bool) {state depth held : Nat} (hs : state < 2 ^ 2) (hd : depth < 2 ^ 13)
    (hh : held < 2 ^ 13) :
    let v := (statWord kind wide marked state depth held).toNat
    fld v 0 13 = held ∧ fld v 13 13 = depth ∧ fld v 26 2 = state ∧ flag v 30 = marked ∧ flag v 31 = wide
      ∧ fld v 32 4 = kind % 16 := by
  have hw : bit wide < 2 := by cases wide <;> decide
  have hm : bit marked < 2 := by cases marked <;> decide
  simp only [statWord, fld, BitVec.toNat_ofNat]
  exact ⟨by omega, by omega, by omega, flag_eq (by omega), flag_eq (by omega), by omega⟩

theorem num_lt (x : QState) : Dev.QState.num x < 2 ^ 2 := by cases x <;> decide

section Qstat
variable {d : Dev} {port : Nat}

theorem qstatWord_unbound (hp : d.statPort port = none) : d.qstatWord port = 0 := by rw [Dev.qstatWord, hp]

theorem qstatWord_pool {n : Nat} (hp : d.statPort port = some (.pool n)) : BitVec.ofNat 64 (d.qstatWord port) =
    statWord (d.queue n).kind (d.queue n).wide d.grp.marked (Dev.QState.num (d.queue n).state) (2 ^ (d.queue n).logd)
      (d.queue n).entries.length := by
  rw [Dev.qstatWord, hp]
  rfl

end Qstat

theorem gives_qstat {s : State} {h : Hdr} (hl : s.dev.lets h) (port fd : Nat) :
    Gives (.qstat h port fd) s h fd ⟨BitVec.ofNat 64 (s.dev.qstatWord port), false⟩ := stream_ok hl rfl

/-! ### QBIND (R229) -/

section Qbind
variable {d : Dev} {port mode fd fa : Nat}

/-- A rebound port gives up its former queue, which the residency unit may take back (R302). -/
abbrev reap (d : Dev) (port : Nat) (x : Dev) : Dev :=
  match Map.find d.grp.ports port with
  | some b => x.reapQueue b.queue
  | none => x

theorem qbindOp_fixed (hp : 248 ≤ port) : d.qbindOp port mode fd fa = trap 0x16 port := if_pos hp

theorem qbindOp_unbind (hp : port < 248) : d.qbindOp port 0 fd fa =
    .ok (reap d port ((d.setGrp { d.grp with ports := Map.del d.grp.ports port }).setReg fd ⟨0, false⟩)) := by
  simp only [Dev.qbindOp, Nat.not_le.2 hp, ↓reduceIte, reap]
  cases Map.find d.grp.ports port <;> rfl

theorem qbindOp_noQueue (hp : port < 248) (hm : mode ≠ 0)
    (hq : 4096 ≤ (d.reg fa).v.toNat ∨ (d.queue (d.reg fa).v.toNat).state = .free) :
    d.qbindOp port mode fd fa = .ok (d.setReg fd ⟨1, (d.reg fa).p⟩) := by
  have missing : ((d.reg fa).v.toNat / 4096 != 0 || (d.queue ((d.reg fa).v.toNat % 4096)).state == .free) = true := by
    rw [Bool.or_eq_true, bne_iff_ne, beq_iff_eq]
    by_cases low : (d.reg fa).v.toNat < 4096
    · rw [Nat.mod_eq_of_lt low]
      exact .inr (hq.resolve_left (Nat.not_le.2 low))
    · exact .inl (by omega)
  simp only [Dev.qbindOp, Nat.not_le.2 hp, hm, missing, ↓reduceIte]

/-- QBIND of a port to a queue that is in use: the context's rights decide (R229, R234). -/
theorem qbindOp_queue (hp : port < 248) (hm : mode ≠ 0) (low : (d.reg fa).v.toNat < 4096)
    (used : (d.queue (d.reg fa).v.toNat).state ≠ .free) :
    d.qbindOp port mode fd fa =
      let q := (d.reg fa).v.toNat
      if mode &&& d.widestMode d.myCtx q ≠ mode then .ok (d.setReg fd ⟨2, (d.reg fa).p⟩)
      else .ok (reap d port ((d.setGrp { d.grp with ports := Map.set d.grp.ports port ⟨q, mode, (d.queue q).round⟩ }).setReg fd
        ⟨0, (d.reg fa).p⟩)) := by
  have there : ((d.reg fa).v.toNat / 4096 != 0 || (d.queue (d.reg fa).v.toNat).state == .free) = false := by
    rw [Bool.or_eq_false_iff, bne_eq_false_iff_eq, beq_eq_false_iff_ne]
    exact ⟨Nat.div_eq_of_lt low, used⟩
  simp only [Dev.qbindOp, Nat.not_le.2 hp, hm, Nat.mod_eq_of_lt low, there, Bool.false_eq_true, ↓reduceIte, bne_iff_ne, reap]
  cases Map.find d.grp.ports port <;> rfl

end Qbind

theorem exec_qbind (h : Hdr) (port mode fd fa : Nat) (s : State) :
    exec (.qbind h port mode fd fa) s = stream h (·.qbindOp port mode fd fa) s := rfl

/-! ### The results -/

section Results
variable {s : State} {h : Hdr} {port r cd : Nat} {e : Bool}

/-- A row outside the window faults before the port is looked at (R28). -/
theorem row_outside (hl : s.dev.lets h) (hr : s.dev.grp.rowsN ≤ r) :
    Faults (.qpushRow h port r) s 4 s.dev.cur.pc.toNat ∧ Faults (.qpopRow h port e cd r) s 4 s.dev.cur.pc.toNat
      ∧ Faults (.qpeekRow h port cd r) s 4 s.dev.cur.pc.toNat := by
  have outside := inBounds_outside hr
  refine ⟨(exec_qpushRow ..).trans (stream_trap hl ?_), (exec_qpopRow ..).trans (stream_trap hl ?_),
    (exec_qpeekRow ..).trans (stream_trap hl ?_)⟩
  · rw [Dev.qpushRowOp, outside, trap_bind]; rfl
  · rw [outside, trap_bind]; rfl
  · rw [outside, trap_bind]; rfl

theorem push_refused {fa : Nat} (hl : s.dev.lets h) (hq : ∀ q, s.dev.resolve port true false .instr ≠ .ok q) :
    Faults (.qpush h port fa) s 0x16 port := by
  refine (exec_qpush ..).trans (stream_trap hl ?_)
  rw [Dev.qpushOp, resolve_refused hq, trap_bind]; rfl

theorem pop_refused {fd : Nat} (hl : s.dev.lets h) (hq : ∀ q, s.dev.resolve port false false .instr ≠ .ok q) :
    Faults (.qpop h port e cd fd) s 0x16 port ∧ Faults (.qpeek h port cd fd) s 0x16 port :=
  ⟨(exec_qpop ..).trans (stream_trap hl (qpopWith_refused hq)), (exec_qpeek ..).trans (stream_trap hl (qpeekWith_refused hq))⟩

theorem pushRow_refused (hl : s.dev.lets h) (hr : r < s.dev.grp.rowsN) (hq : ∀ q, s.dev.resolve port true true .instr ≠ .ok q) :
    Faults (.qpushRow h port r) s 0x16 port := by
  refine (exec_qpushRow ..).trans (stream_trap hl ?_)
  rw [Dev.qpushRowOp, inBounds_inside hr, ok_bind, resolve_refused hq, trap_bind]; rfl

theorem popRow_refused (hl : s.dev.lets h) (hr : r < s.dev.grp.rowsN) (hq : ∀ q, s.dev.resolve port false true .instr ≠ .ok q) :
    Faults (.qpopRow h port e cd r) s 0x16 port ∧ Faults (.qpeekRow h port cd r) s 0x16 port := by
  refine ⟨(exec_qpopRow ..).trans (stream_trap hl ?_), (exec_qpeekRow ..).trans (stream_trap hl ?_)⟩
  · exact (inBounds_bind hr).trans (qpopWith_refused hq)
  · exact (inBounds_bind hr).trans (qpeekWith_refused hq)

end Results

/-- Settles O35: pushes, pops and peeks by the results that words and rows share, QSTAT by its fields, QBIND by the equation of each
case. -/
theorem queueResults : Obligations.QueueResults := by
  unfold Obligations.QueueResults
  refine ⟨fun s h port fa fd vR cd e hl => ?moves, fun s h port mode fd fa hl => ?ports⟩
  case moves =>
    refine ⟨fun q hq => push_results (exec_qpush ..) hl (qpushOp_bound hq), push_refused hl, pop_refused hl, fun q hq => ?words,
      row_outside hl, fun hr => ⟨fun q hq hd => push_results (exec_qpushRow ..) hl (qpushRowOp_bound hr hd hq),
        pushRow_refused hl hr, popRow_refused hl hr, fun q hq => ?rows⟩, fun hu hr x v p hx => ?written⟩
    case words =>
      obtain ⟨pops, dry⟩ := pop_results (exec_qpop h port e cd fd s) hl rfl hq
      obtain ⟨peeks, nothing⟩ := peek_results (exec_qpeek h port cd fd s) hl rfl hq
      refine ⟨fun x xs he => ?_, fun he => ⟨dry he, nothing he⟩⟩
      obtain ⟨takes, waits⟩ := pops x xs he
      exact ⟨fun ready => takes ready _ rfl, waits, peeks x xs he _ rfl⟩
    case rows =>
      obtain ⟨pops, dry⟩ := pop_results (exec_qpopRow h port e cd vR s) hl (inBounds_bind hr) hq
      obtain ⟨peeks, nothing⟩ := peek_results (exec_qpeekRow h port cd vR s) hl (inBounds_bind hr) hq
      refine ⟨fun x xs he => ?_, fun he => ⟨dry he, nothing he⟩⟩
      obtain ⟨takes, waits⟩ := pops x xs he
      exact ⟨takes, waits, peeks x xs he⟩
    case written =>
      obtain ⟨d2, hw, hrow⟩ := writeRow_untagged (d := x) (by rwa [Dev.untagged, hx]) (by rwa [hx]) v p
      exact ⟨d2, hw, by rw [hrow, Dev.written, Dev.row, hx]; rfl⟩
  case ports =>
    refine ⟨fun unbound => ?statusUnbound, fun n bound hdepth hlen => ?statusPool, fun hp => ?fixed, fun hp hm hq => ?noQueue,
      fun hp hm low used => ⟨fun hw => ?denied, fun hw => ?binds⟩, fun hp => ?unbinds⟩
    case statusUnbound =>
      have stat := gives_qstat hl port fd
      rwa [qstatWord_unbound unbound] at stat
    case statusPool =>
      have stat := gives_qstat hl port fd
      rw [qstatWord_pool bound] at stat
      obtain ⟨held, depth, state, marked, wide, kind⟩ := statWord_fields (s.dev.queue n).kind (s.dev.queue n).wide s.dev.grp.marked
        (num_lt (s.dev.queue n).state) hdepth hlen
      exact ⟨_, stat, held, depth.trans (Nat.mod_eq_of_lt hdepth).symm, state, marked, wide, kind⟩
    case fixed => exact (exec_qbind ..).trans (stream_trap hl (qbindOp_fixed hp))
    case noQueue => exact (exec_qbind ..).trans (stream_ok hl (qbindOp_noQueue hp hm hq))
    case denied => exact (exec_qbind ..).trans (stream_ok hl ((qbindOp_queue hp hm low used).trans (if_pos hw)))
    case binds => exact (exec_qbind ..).trans (stream_ok hl ((qbindOp_queue hp hm low used).trans (if_neg (Classical.not_not.2 hw))))
    case unbinds => exact (exec_qbind ..).trans (stream_ok hl (qbindOp_unbind hp))

end Sys2Proof.QueuePorts
end
